-- ==== Sys2Proof/Word.lean ====
section
/-!
DEFINITION. The word types of the machine: 64-bit registers and addresses, bytes, 16-bit parcels of an
instruction line (03_instruction_lines.md R59, R60), and the number of a register.
-/

namespace Sys2Proof

/-- A 64-bit register or address (R63, R124). -/
abbrev Word := BitVec 64

/-- A byte of memory (R4). -/
abbrev Byte := BitVec 8

/-- One 16-bit parcel of an instruction line (R59). -/
abbrev Parcel := BitVec 16

/-- A register field of a register parcel (R66): 0 to 31. -/
abbrev Reg := Fin 32

/-- A place parcel (R66, R67): CDX [15:10], CDY [9:4], TDX [3:2], TDY [1], ROLE [0]. -/
abbrev Place := BitVec 16

end Sys2Proof
end

