-- ==== Sys2Proof/Syntax.lean ====
section
/-!
DEFINITION. The abstract syntax: `Instr`, one constructor per row of the opcode table, with its operands as
typed fields. Instructions carry their guard (R74) and, where the format has them, their wait and signal parcels (R69).
An event of a unit carries the number of the unit (clusters 32 y + x, cores 16 cluster + core, slots 4 core + slot,
tiles 8 cluster + tile, quads 4 cluster + quad, octets 2 cluster + octet, engines 4 die + engine) and what it needs;
an event of a slot, of a message in flight or of a task stream has no operands: it concerns the slot `cur` or the item
`sel` of the state.
-/

namespace Sys2Proof

/-- GI and GN of a head (R60, R74). -/
structure Guard where
  gi : Fin 8
  gn : Bool
  deriving DecidableEq, Repr

/-- A wait parcel (index, threshold) and a signal parcel (index, increment) (R66, R247). -/
structure Eng where
  wi : BitVec 8
  wt : BitVec 8
  sj : BitVec 8
  sn : BitVec 8
  deriving DecidableEq, Repr

/-- The size suffixes of Table 0.3, in MIN order (R71). -/
inductive Size where
  | b | h | w | d
  deriving DecidableEq, Repr

/-- The element sizes of vector memory forms (R199). -/
inductive VSize where
  | b | h | w
  deriving DecidableEq, Repr

/-- The nine lane element types of Table 3.4, in code order (R68). -/
inductive EltTy where
  | f32 | bf16 | f16 | i32 | n32 | i16 | n16 | i8 | n8
  deriving DecidableEq, Repr

/-- The floating-point lane types (Table 7.5, R211). -/
inductive FloatTy where
  | f32 | bf16 | f16
  deriving DecidableEq, Repr

/-- Rounding modes (Table 2.3). -/
inductive Rm where
  | rne | rtz | rdn | rup
  deriving DecidableEq, Repr

/-- Which CSR instruction a row that covers several stands for (R149). -/
inductive CsrOp where
  | csrr | csrw | csrs | csrc
  deriving DecidableEq, Repr

/-- OP of `gop` (Table 5.9). -/
inductive GopOp where
  | and | or | xor
  deriving DecidableEq, Repr

/-- OP of `amo` (Table 6.8). -/
inductive AmoOp where
  | swap | add | and | or | xor | min | max | minn | maxn
  deriving DecidableEq, Repr

/-- ORD of `amo` and KIND of `fence` (R172, R176). -/
inductive MemOrd where
  | relaxed | acq | rel | ar
  deriving DecidableEq, Repr

/-- The scope codes 0 to 6 (R172, Table 15.1). -/
inductive Scope where
  | slot | core | tile | cluster | die | module | domain
  deriving DecidableEq, Repr

/-- CMB of `vcmp` (R202). -/
inductive CmbOp where
  | set | and | or | xor
  deriving DecidableEq, Repr

/-- RED of `vred` and `coll` (R208, R407). -/
inductive RedOp where
  | add | min | max
  deriving DecidableEq, Repr

/-- FN of `sfn` (Table 7.9). -/
inductive SfnOp where
  | exp2 | log2 | rcp | rsqrt | sqrt | sin | cos | tanh | sigmoid | erf
  deriving DecidableEq, Repr

/-- KIND of `coll` (Table 14.6). -/
inductive CollKind where
  | allReduce | reduceScatter | allGather | broadcast
  deriving DecidableEq, Repr

/-- The row fields that `mrun` and `mrunq` share (Table 8.9): NROW (rows less one), FROW, BANK, ACC, TR, SQ. -/
structure RowSpec where
  nrow : BitVec 4
  frow : BitVec 4
  bank : Bool
  acc  : Bool
  tr   : Bool
  sq   : BitVec 3
  deriving DecidableEq, Repr

/-- The options that `cpush`, `cslab` and `cmcast` share (Table 13.12). -/
structure CopyOpt where
  conv : BitVec 4
  snap : Bool
  tb   : Bool
  arr  : Bool
  note : BitVec 2
  deriving DecidableEq, Repr

/-- What a contribution to a collective carries (R406) and its bytes for the chunk. -/
structure Contrib where
  kind  : CollKind
  ty    : EltTy
  red   : RedOp
  rm    : Rm
  len   : Nat
  nrank : Nat
  chunk : Nat
  tag   : Nat
  bytes : List Byte
  deriving DecidableEq, Repr


/-- One step of the machine: a head that a slot executes, or an event of one of its units (95_what_each_step_holds.md).
One constructor per row of the opcode table. -/
inductive Instr where
  -- Activations and channels (04_activations.md)
  /-- HRET (R114): Ends the activation, drains its loads and local stores, releases lanes, streams and monitor, then frees the slot and clears BUSY. -/
  | hret (g : Guard)
  /-- HPOST (R115): Releases at core scope and applies the arrival rule to a channel of the executing core. -/
  | hpost (g : Guard) (a b : Reg) (ch : BitVec 6) (dec : BitVec 10)
  /-- HARM (R116): Re-arms a channel's COUNT and optionally its RELOAD, returning the old COUNT. -/
  | harm (g : Guard) (d a b : Reg) (keep : Bool) (ch : BitVec 6)
  /-- HEN (R117): Sets EN for the channels in the mask and returns the old enable vector. -/
  | hen (g : Guard) (d a : Reg) (usech : Bool) (ch : BitVec 6)
  /-- HDIS (R117): Clears EN for the channels in the mask and returns the old enable vector. -/
  | hdis (g : Guard) (d a : Reg) (usech : Bool) (ch : BitVec 6)
  /-- HPCLR (R117): Clears PEND, MERGE and the latch for the channels in the mask and returns the old pending vector. -/
  | hpclr (g : Guard) (d a : Reg) (usech : Bool) (ch : BitVec 6)
  /-- HPRIO (R118): Returns a channel's priority and sets a new one. -/
  | hprio (g : Guard) (d : Reg) (p : BitVec 3) (ch : BitVec 6)
  /-- TSREAD (R119): Writes the domain time base to a scalar register. -/
  | tsread (g : Guard) (d : Reg)
  /-- DSYNC (R120): Waits for drift credits in the masked directions, takes them, sends credits to the neighbours and advances P. -/
  | dsync (g : Guard) (d : Reg) (mask : BitVec 4)
  /-- FALIGN (R121): Blocks the slot until peer cores reach the same falign, 64 cc pass, or no peer exists. -/
  | falign (g : Guard)
  /-- RTAKE (R122): Sends a request for a chunk of a range object and blocks until the start and length arrive. -/
  | rtake (g : Guard) (d b : Reg) (obj : BitVec 4)
  /-- LNCH (R123): Checks and translates a launch record address, releases at module scope and submits the record to a task stream, blocking for the status. -/
  | lnch (g : Guard) (d a b : Reg)
  -- Scalar instructions (05_scalar_registers.md)
  /-- ADD (R138): Writes the wrapped sum of two scalar registers. -/
  | add (g : Guard) (d a b : Reg)
  /-- SUB (R138): Writes the wrapped difference of two scalar registers. -/
  | sub (g : Guard) (d a b : Reg)
  /-- AND (R138): Writes the bitwise and of two scalar registers. -/
  | and (g : Guard) (d a b : Reg)
  /-- OR (R138): Writes the bitwise or of two scalar registers. -/
  | or (g : Guard) (d a b : Reg)
  /-- XOR (R138): Writes the bitwise exclusive or of two scalar registers. -/
  | xor (g : Guard) (d a b : Reg)
  /-- ANDN (R138): Writes s[A] and not s[B]. -/
  | andn (g : Guard) (d a b : Reg)
  /-- ORN (R138): Writes s[A] or not s[B]. -/
  | orn (g : Guard) (d a b : Reg)
  /-- MOV (R138): Copies one scalar register to another. -/
  | mov (g : Guard) (d a : Reg)
  /-- MUL (R138): Writes the low 64 bits of the product. -/
  | mul (g : Guard) (d a b : Reg)
  /-- MULH (R138): Writes the high 64 bits of the signed product. -/
  | mulh (g : Guard) (d a b : Reg)
  /-- MULHN (R138): Writes the high 64 bits of the unsigned product. -/
  | mulhn (g : Guard) (d a b : Reg)
  /-- SEL (R138): Writes s[A] if the old s[D] is nonzero, else s[B]. -/
  | sel (g : Guard) (d a b : Reg)
  /-- DIV (R139): Signed division truncating toward zero, with defined results for zero and overflow. -/
  | div (g : Guard) (d a b : Reg)
  /-- DIVN (R139): Unsigned division. -/
  | divn (g : Guard) (d a b : Reg)
  /-- REM (R139): Signed remainder with the sign of the dividend. -/
  | rem (g : Guard) (d a b : Reg)
  /-- REMN (R139): Unsigned remainder. -/
  | remn (g : Guard) (d a b : Reg)
  /-- SHL (R138): Shifts left by s[B][5:0]. -/
  | shl (g : Guard) (d a b : Reg)
  /-- SHR (R138): Shifts right logically by s[B][5:0]. -/
  | shr (g : Guard) (d a b : Reg)
  /-- SAR (R138): Shifts right arithmetically by s[B][5:0]. -/
  | sar (g : Guard) (d a b : Reg)
  /-- ROTL (R138): Rotates left by s[B][5:0]. -/
  | rotl (g : Guard) (d a b : Reg)
  /-- MIN (R138): Writes the signed minimum. -/
  | min (g : Guard) (d a b : Reg)
  /-- MAX (R138): Writes the signed maximum. -/
  | max (g : Guard) (d a b : Reg)
  /-- MINN (R138): Writes the unsigned minimum. -/
  | minn (g : Guard) (d a b : Reg)
  /-- MAXN (R138): Writes the unsigned maximum. -/
  | maxn (g : Guard) (d a b : Reg)
  /-- ADDI (R140): Adds a sign-extended 16-bit immediate. -/
  | addi (g : Guard) (d a : Reg) (imm : BitVec 16)
  /-- SHLI (R140): Shifts left by an immediate amount. -/
  | shli (g : Guard) (d a : Reg) (n : BitVec 6)
  /-- SHRI (R140): Shifts right logically by an immediate amount. -/
  | shri (g : Guard) (d a : Reg) (n : BitVec 6)
  /-- SARI (R140): Shifts right arithmetically by an immediate amount. -/
  | sari (g : Guard) (d a : Reg) (n : BitVec 6)
  /-- ADDPC (R140): Writes the PC named by a long target. -/
  | addpc (g : Guard) (d : Reg) (t : BitVec 32)
  /-- LUI (R140): Writes a sign-extended immediate shifted left by 16. -/
  | lui (g : Guard) (d : Reg) (imm : BitVec 16)
  /-- LIM (R140): Writes a 64-bit immediate. -/
  | lim (g : Guard) (d : Reg) (v : BitVec 64)
  /-- CMPI (R142): Compares a register with an immediate and writes a less-than and an equal guard. -/
  | cmpi (g : Guard) (j : Fin 4) (a : Reg) (unsig : Bool) (imm : BitVec 16)
  /-- CLZ (R138): Counts leading zero bits. -/
  | clz (g : Guard) (d a : Reg)
  /-- CTZ (R138): Counts trailing zero bits. -/
  | ctz (g : Guard) (d a : Reg)
  /-- POPC (R138): Counts one bits. -/
  | popc (g : Guard) (d a : Reg)
  /-- BSWAP (R138): Reverses the byte order. -/
  | bswap (g : Guard) (d a : Reg)
  /-- EXT (R141): Extracts a bit field sign-extended. -/
  | ext (g : Guard) (d a : Reg) (w1 p : BitVec 6)
  /-- EXTN (R141): Extracts a bit field zero-extended. -/
  | extn (g : Guard) (d a : Reg) (w1 p : BitVec 6)
  /-- INS (R141): Inserts the low bits of s[A] into a field of s[D]. -/
  | ins (g : Guard) (d a : Reg) (w1 p : BitVec 6)
  /-- SEXT (R141): Sign-extends the low n bits. -/
  | sext (g : Guard) (d a : Reg) (n1 : BitVec 6)
  /-- ZEXT (R141): Zero-extends the low n bits. -/
  | zext (g : Guard) (d a : Reg) (n1 : BitVec 6)
  /-- CMP (R142): Compares two registers signed or unsigned and writes a guard pair. -/
  | cmp (g : Guard) (j : Fin 4) (a b : Reg) (unsig : Bool)
  /-- GOP (R143): Combines two optionally negated guards into one guard. -/
  | gop (g : Guard) (op : GopOp) (gd : Fin 8) (na : Bool) (ga : Fin 8) (nb : Bool) (gb : Fin 8)
  /-- NOP (R150): Issues with no effect other than its end check. -/
  | nop (g : Guard)
  /-- BR (R144): Transfers to a long target, conditionally under its guard. -/
  | br (g : Guard) (t : BitVec 32)
  /-- JL (R144): Writes the link to s31 and transfers to a long target. -/
  | jl (g : Guard) (t : BitVec 32)
  /-- JLR (R144): Transfers to s[A] and writes the next PC to s[D]. -/
  | jlr (g : Guard) (d a : Reg)
  /-- TRAP (R145): Retires and raises a software trap carrying its code. -/
  | trap (g : Guard) (code : BitVec 16)
  /-- LPSET (R147): Sets up a hardware loop with an immediate count and a short end target. -/
  | lpset (g : Guard) (count u : BitVec 16)
  /-- LPSETR (R147): Sets up a hardware loop with a register count. -/
  | lpsetr (g : Guard) (a : Reg) (u : BitVec 16)
  /-- LPBRK (R148): Deactivates the innermost active loop. -/
  | lpbrk (g : Guard)
  /-- ERET (R146): Returns from a trap handler to EPC and restores the mode. -/
  | eret (g : Guard)
  /-- CSRR (R149): Reads a control and status register. -/
  | csrr (g : Guard) (d : Reg) (csr : BitVec 12)
  /-- CSRW (R149): Writes a control and status register that has no behaviour of its own, returning the old value. -/
  | csrw (g : Guard) (d a : Reg) (csr : BitVec 12)
  /-- CSRS (R149): Sets bits of a control and status register. -/
  | csrs (g : Guard) (d a : Reg) (csr : BitVec 12)
  /-- CSRC (R149): Clears bits of a control and status register. -/
  | csrc (g : Guard) (d a : Reg) (csr : BitVec 12)
  /-- FPSTAT_ACCESS (R39): A CSR instruction naming FPSTAT waits for every earlier flag of the slot before reading or changing it. -/
  | fpstatAccess (g : Guard) (op : CsrOp) (d a : Reg)
  /-- QPORT_READ (R256): A csrr of QPORT dequeues the head entry of an input queue, blocking while empty, or meets a control value. -/
  | qportRead (g : Guard) (d : Reg) (q : Fin 4)
  /-- QPORT_WRITE (R256): A csrw of QPORT reserves an entry in the bound target queue and pushes a data entry. -/
  | qportWrite (g : Guard) (d a : Reg) (q : Fin 4)
  /-- LHST_RET (R257): Writing 1 to LHST.RET returns from the light handler to LHPC. -/
  | lhstRet (g : Guard) (op : CsrOp) (d a : Reg)
  -- Local memories (06_local_memories.md)
  /-- LD (R171): Loads a sign-extended value of the given size from any region. -/
  | ld (g : Guard) (z : Size) (d a : Reg) (imm : BitVec 16) (sync : Option Eng)
  /-- LDN (R171): Loads a zero-extended value of the given size. -/
  | ldn (g : Guard) (z : Size) (d a : Reg) (imm : BitVec 16) (sync : Option Eng)
  /-- ST (R171): Stores the low bytes of a register. -/
  | st (g : Guard) (z : Size) (d a : Reg) (imm : BitVec 16) (sync : Option Eng)
  /-- LDX (R171): Indexed sign-extending load, without sync parcels. -/
  | ldx (g : Guard) (z : Size) (d a b : Reg)
  /-- LDX_SYNC (R171): Indexed sign-extending load with wait and signal parcels. -/
  | ldxSync (g : Guard) (z : Size) (d a b : Reg) (eng : Eng)
  /-- STX (R171): Indexed store, without sync parcels. -/
  | stx (g : Guard) (z : Size) (d a b : Reg)
  /-- STX_SYNC (R171): Indexed store with wait and signal parcels. -/
  | stxSync (g : Guard) (z : Size) (d a b : Reg) (eng : Eng)
  /-- AMO (R172): Performs a read-modify-write at the memory or home slice with the given ordering and scope. -/
  | amo (g : Guard) (dbl : Bool) (d a b : Reg) (op : AmoOp) (ord : MemOrd) (scope : Scope)
  /-- AMOCAS (R173): Compares and swaps a word or doubleword, optionally acquire-release. -/
  | amocas (g : Guard) (dbl : Bool) (d a b : Reg) (ar : Bool)
  /-- LDFE (R161): Loads a full word and marks it empty, retrying or returning not-done while empty. -/
  | ldfe (g : Guard) (d a b : Reg) (imm : BitVec 16)
  /-- STFE (R161): Stores into an empty word and marks it full. -/
  | stfe (g : Guard) (d a b : Reg) (imm : BitVec 16)
  /-- LDFF (R161): Loads a full word and leaves it full. -/
  | ldff (g : Guard) (d a b : Reg) (imm : BitVec 16)
  /-- LDRE (R161): Loads a word unconditionally and marks it empty. -/
  | ldre (g : Guard) (d a b : Reg) (imm : BitVec 16)
  /-- STSF (R161): Stores a word unconditionally and marks it full. -/
  | stsf (g : Guard) (d a b : Reg) (imm : BitVec 16)
  /-- MON (R164): Arms the slot's monitor on a 64-byte sector and blocks until the watch is registered. -/
  | mon (g : Guard) (a : Reg)
  /-- MWAIT (R175): Waits for a monitor hit, a re-arm or a deadline and reports which. -/
  | mwait (g : Guard) (d a : Reg)
  /-- FENCE (R176): Releases or acquires at a scope, writing back or invalidating CDC sectors at die scope and wider. -/
  | fence (g : Guard) (scope : Scope) (kind : MemOrd)
  /-- SPAL (R177): Allocates a run of free zeroed CSP blocks with a banking code and full/empty method. -/
  | spal (g : Guard) (d a : Reg) (bank : BitVec 3) (fe side : BitVec 2)
  /-- SPFR (R178): Frees a spal allocation of the cluster and returns a status. -/
  | spfr (g : Guard) (d a : Reg)
  /-- FECL (R174): Sets the full bit of every word of a range empty or full and clears waiter marks. -/
  | fecl (g : Guard) (a b : Reg) (full : Bool)
  -- Vector lanes and special functions (07_vector_lanes.md)
  /-- VCLAIM (R196): Requests a claim of lanes from the octet's pool, optionally waiting. -/
  | vclaim (g : Guard) (d a : Reg) (wait : Bool) (min : BitVec 9)
  /-- VREL (R197): Releases the whole claim. -/
  | vrel (g : Guard)
  /-- VRENEG (R198): Shrinks the claim and tries to grow it without blocking. -/
  | vreneg (g : Guard) (d a : Reg) (want : BitVec 9)
  /-- SFN (R211): Sends a special-function request for the active lanes to the quad's SFU and parks the slot. -/
  | sfn (g : Guard) (d a : Reg) (fn : SfnOp) (fmt : FloatTy) (rm : Rm)
  /-- VLD (R199): Loads one element per active lane at consecutive addresses. -/
  | vld (g : Guard) (z : VSize) (d a : Reg) (off : BitVec 14) (sync : Option Eng)
  /-- VST (R199): Stores one element per active lane at consecutive addresses. -/
  | vst (g : Guard) (z : VSize) (d a : Reg) (off : BitVec 14) (sync : Option Eng)
  /-- VLDS (R199): Loads one element per active lane at a stride. -/
  | vlds (g : Guard) (z : VSize) (d a b : Reg) (off : BitVec 14) (sync : Option Eng)
  /-- VSTS (R199): Stores one element per active lane at a stride. -/
  | vsts (g : Guard) (z : VSize) (d a b : Reg) (off : BitVec 14) (sync : Option Eng)
  /-- VADD (R200): Adds elements per active lane with rounding or saturation. -/
  | vadd (g : Guard) (ty : EltTy) (rm : Rm) (d a b : Reg) (sat : Bool)
  /-- VSUB (R200): Subtracts elements per active lane. -/
  | vsub (g : Guard) (ty : EltTy) (rm : Rm) (d a b : Reg) (sat : Bool)
  /-- VMUL (R200): Multiplies elements per active lane. -/
  | vmul (g : Guard) (ty : EltTy) (rm : Rm) (d a b : Reg) (sat : Bool)
  /-- VFMA (R200): Fused multiply-add per active lane. -/
  | vfma (g : Guard) (ty : EltTy) (rm : Rm) (d a b c : Reg) (sat : Bool)
  /-- VFMS (R200): Fused multiply-subtract per active lane. -/
  | vfms (g : Guard) (ty : EltTy) (rm : Rm) (d a b c : Reg) (sat : Bool)
  /-- VMIN (R200): Minimum per active lane. -/
  | vmin (g : Guard) (ty : EltTy) (d a b : Reg)
  /-- VMAX (R200): Maximum per active lane. -/
  | vmax (g : Guard) (ty : EltTy) (d a b : Reg)
  /-- VABS (R200): Absolute value per active lane. -/
  | vabs (g : Guard) (ty : EltTy) (d a : Reg) (sat : Bool)
  /-- VCHS (R200): Negation per active lane. -/
  | vchs (g : Guard) (ty : EltTy) (d a : Reg) (sat : Bool)
  /-- VAND (R201): Bitwise and per active lane. -/
  | vand (g : Guard) (ty : EltTy) (d a b : Reg)
  /-- VOR (R201): Bitwise or per active lane. -/
  | vor (g : Guard) (ty : EltTy) (d a b : Reg)
  /-- VXOR (R201): Bitwise exclusive or per active lane. -/
  | vxor (g : Guard) (ty : EltTy) (d a b : Reg)
  /-- VSHL (R201): Shifts left per active lane. -/
  | vshl (g : Guard) (ty : EltTy) (d a b : Reg) (imm : Bool) (n : BitVec 5)
  /-- VSHR (R201): Shifts right logically per active lane. -/
  | vshr (g : Guard) (ty : EltTy) (d a b : Reg) (imm : Bool) (n : BitVec 5)
  /-- VSAR (R201): Shifts right arithmetically per active lane. -/
  | vsar (g : Guard) (ty : EltTy) (d a b : Reg) (imm : Bool) (n : BitVec 5)
  /-- VCMP (R202): Compares per active lane and writes or combines a mask pair. -/
  | vcmp (g : Guard) (ty : EltTy) (j : Fin 4) (a b : Reg) (cmb : CmbOp)
  /-- VSEL (R203): Selects per active lane between two registers by a mask. -/
  | vsel (g : Guard) (ty : EltTy) (d a b : Reg) (m : Fin 8)
  /-- VCLAMP (R203): Clamps per active lane between two bounds. -/
  | vclamp (g : Guard) (ty : EltTy) (d a b c : Reg)
  /-- VCVT (R204): Converts elements between types per active lane. -/
  | vcvt (g : Guard) (ty : EltTy) (rm : Rm) (d a : Reg) (irm : Rm) (src : EltTy)
  /-- VMXQ (R205): Quantises 32-lane blocks to MXINT8 elements and scales. -/
  | vmxq (g : Guard) (ty : FloatTy) (d a : Reg)
  /-- VMXD (R206): Dequantises MXINT8 elements with their scales. -/
  | vmxd (g : Guard) (ty : FloatTy) (rm : Rm) (d a : Reg)
  /-- VTERN (R207): Ternarises elements stochastically or deterministically. -/
  | vtern (g : Guard) (ty : FloatTy) (d a b : Reg) (det : Bool)
  /-- VRED (R208): Reduces the active lanes into a scalar register by add, min or max. -/
  | vred (g : Guard) (ty : EltTy) (rm : Rm) (d a : Reg) (red : RedOp)
  /-- VSPLAT (R209): Writes a scalar to every active lane. -/
  | vsplat (g : Guard) (ty : EltTy) (d a : Reg)
  /-- VEXT (R209): Reads one lane's element into a scalar register. -/
  | vext (g : Guard) (ty : EltTy) (d a b : Reg)
  /-- VINS (R209): Writes a scalar into one lane. -/
  | vins (g : Guard) (ty : EltTy) (d a b : Reg)
  /-- VMOV (R210): Copies between vector registers and masks per active lane. -/
  | vmov (g : Guard) (ty : EltTy) (d a : Reg) (form : BitVec 2)
  -- Ternary matrix engine (08_matrix_engine.md)
  /-- MLW (R237): Accepts an operation that loads a weight-tile record from the WS into a latch. -/
  | mlw (g : Guard) (a : Reg) (l actv : Bool) (eng : Eng)
  /-- MRUN (R238): Accepts an operation that accumulates activation rows from memory through the latch. -/
  | mrun (g : Guard) (d a b : Reg) (row : RowSpec) (eng : Eng)
  /-- MRUNQ (R238): Accepts an operation that accumulates rows taken from a queue port, optionally forwarding them. -/
  | mrunq (g : Guard) (d a : Fin 4) (row : RowSpec) (fwd : Bool) (eng : Eng)
  /-- MDRAIN (R239): Accepts an operation that converts accumulator rows to FP32 in memory or vector registers. -/
  | mdrain (g : Guard) (d a : Reg) (nrow frow : BitVec 4) (bank dst : Bool) (eng : Eng)
  /-- MDRS (R239): Accepts a drain that also resets the drained cells. -/
  | mdrs (g : Guard) (d a : Reg) (nrow frow : BitVec 4) (bank dst : Bool) (eng : Eng)
  /-- MCLR (R240): Accepts an operation that clears accumulator banks. -/
  | mclr (g : Guard) (banks : BitVec 2) (eng : Eng)
  /-- MSWAP (R241): Changes the active latch at acceptance. -/
  | mswap (g : Guard) (l set : Bool) (eng : Eng)
  /-- MPASS (R242): Accepts an operation that permutes bytes through a one-hot latch. -/
  | mpass (g : Guard) (d a : Reg) (nrow : BitVec 4) (esz : BitVec 2) (plane : BitVec 3) (eng : Eng)
  /-- MCFG (R243): Sets the engine mode and base exponent and optionally clears the fault state. -/
  | mcfg (g : Guard) (a : Reg) (mode clrf user : Bool) (base : BitVec 10)
  /-- MSAVE (R244): Accepts an operation that writes a bank image or the state block to memory. -/
  | msave (g : Guard) (a : Reg) (what : BitVec 2) (eng : Eng)
  /-- MREST (R245): Accepts an operation that restores a bank image or the state block and reloads latches. -/
  | mrest (g : Guard) (a : Reg) (what : BitVec 2) (eng : Eng)
  -- Semaphores, queue ports and rings (09_semaphores_queues.md)
  /-- SWT (R267): Performs a semaphore wait parcel. -/
  | swt (g : Guard) (i t : BitVec 8)
  /-- SSIG (R267): Performs a semaphore signal parcel, even under a false guard. -/
  | ssig (g : Guard) (j n : BitVec 8)
  /-- SSET (R267): Returns and sets a semaphore value with clamping. -/
  | sset (g : Guard) (d a : Reg) (idx : BitVec 8)
  /-- SRD (R267): Reads a semaphore value. -/
  | srd (g : Guard) (d : Reg) (idx : BitVec 8)
  /-- QCTL (R268): Pushes a control value to a queue port's target. -/
  | qctl (g : Guard) (q : Fin 4) (a : Reg)
  /-- QSTAT (R268): Returns the status of a queue port without dequeuing. -/
  | qstat (g : Guard) (d : Reg) (q : Fin 4)
  /-- QDIR (R268): Returns and sets a port's direction and target port. -/
  | qdir (g : Guard) (d : Reg) (q : Fin 4) (dir : BitVec 3) (tport : BitVec 2)
  /-- QFLUSH (R268): Discards every entry present in the selected input queues. -/
  | qflush (g : Guard) (mask : BitVec 4)
  /-- RBINIT (R269): Writes a valid empty ring header. -/
  | rbinit (g : Guard) (a b : Reg) (nslot1 slotsz1 : BitVec 8)
  /-- RBACQ (R260): Acquires free ring slots for a producer, blocking or trying. -/
  | rbacq (g : Guard) (d a : Reg) (n : BitVec 9) (try_ : Bool)
  /-- RBPUB (R260): Publishes acquired slots, advancing PUB in ring order. -/
  | rbpub (g : Guard) (a b : Reg) (n : BitVec 9)
  /-- RBTAKE (R260): Takes published slots for a consumer, blocking or trying. -/
  | rbtake (g : Guard) (d a : Reg) (n : BitVec 9) (try_ : Bool)
  /-- RBREL (R260): Releases taken slots, advancing REL in ring order. -/
  | rbrel (g : Guard) (a b : Reg) (n : BitVec 9)
  /-- STACQ (R263): Acquires the next stage of a role in a stage ring. -/
  | stacq (g : Guard) (d a : Reg) (role : BitVec 3) (try_ : Bool)
  /-- STREL (R263): Passes a stage to the next role. -/
  | strel (g : Guard) (a b : Reg) (role : BitVec 3)
  -- Stream registers (10_stream_registers.md)
  /-- SOPEN (R285): Opens a fibre of a level into a stream register. -/
  | sopen (g : Guard) (f : Fin 8) (a b : Reg) (off : BitVec 16)
  /-- SNEXT (R286): Delivers the head of a stream and advances past it. -/
  | snext (g : Guard) (d : Reg) (f : Fin 8)
  /-- SISECT (R288): Advances two streams to their next common coordinate and delivers it. -/
  | sisect (g : Guard) (d : Reg) (fa fb : Fin 8)
  /-- SUNION (R289): Delivers the least head coordinate on every operand that holds it. -/
  | sunion (g : Guard) (d : Reg) (fa fb : Fin 8)
  /-- SSKIP (R290): Moves a stream head to the first coordinate at or above a value. -/
  | sskip (g : Guard) (d : Reg) (f : Fin 8) (b : Reg)
  /-- SCRD (R291): Returns the delivered position and coordinate. -/
  | scrd (g : Guard) (d : Reg) (f : Fin 8) (b : Reg)
  /-- SVAL (R292): Loads the value of the delivered element. -/
  | sval (g : Guard) (d : Reg) (f : Fin 8) (sgn : Bool)
  /-- SDONE (R287): Writes a guard telling whether the stream is at its end. -/
  | sdone (g : Guard) (gd f : Fin 8)
  /-- SSAVE (R293): Writes the save image of a stream register. -/
  | ssave (g : Guard) (f : Fin 8) (a : Reg)
  /-- SREST (R294): Checks and restores a stream register from a save image. -/
  | srest (g : Guard) (f : Fin 8) (a : Reg)
  /-- SCLOSE (R295): Closes a stream register. -/
  | sclose (g : Guard) (f : Fin 8)
  -- Caches (11_l2_cache.md)
  /-- CWB (R318): Writes back the CDC's dirty bytes of a range to their home slices. -/
  | cwb (g : Guard) (a b : Reg)
  /-- CINV (R318): Invalidates the CDC sectors of a range, discarding dirty bytes. -/
  | cinv (g : Guard) (a b : Reg)
  /-- CWBI (R318): Writes back and invalidates the CDC sectors of a range. -/
  | cwbi (g : Guard) (a b : Reg)
  /-- IINV (R318): Starts invalidating the instruction-cache lines of a range. -/
  | iinv (g : Guard) (a b : Reg)
  /-- IBAR (R319): Blocks until earlier iinv instructions complete, then refetches the next head's line. -/
  | ibar (g : Guard)
  /-- L2PF (R320): Hints that lines be made resident in L2 and optionally the CDC. -/
  | l2pf (g : Guard) (a : Reg) (n1 : BitVec 8) (cdc : Bool)
  /-- L2ZERO (R321): Sets a global line to the ZERO state at its home slice. -/
  | l2zero (g : Guard) (a : Reg)
  -- Translation and gather windows (12_translation.md)
  /-- GBIND (R342): Binds the lowest free gather-window descriptor and returns its address. -/
  | gbind (g : Guard) (d a b : Reg) (esz : BitVec 3) (iw : BitVec 2) (isgn bytes : Bool) (cnt : BitVec 24)
  /-- GUNB (R343): Unbinds a gather window. -/
  | gunb (g : Guard) (d a : Reg)
  /-- GSTAT (R344): Returns the description of a bound window. -/
  | gstat (g : Guard) (d a : Reg)
  /-- TLBINV (R345): Invalidates the context's TLB entries of a range or all of them across the module. -/
  | tlbinv (g : Guard) (a b : Reg) (all : Bool)
  -- Copy engines and barriers (13_copy_engines.md)
  /-- CPUSH (R372): Accepts a copy of a source to one target, global memory or a ring. -/
  | cpush (g : Guard) (d a b : Reg) (place : Place) (opt : CopyOpt) (glb ring : Bool) (eng : Eng)
  /-- CSLAB (R374): Accepts a block-cyclic copy of rows over a rectangle of targets. -/
  | cslab (g : Guard) (d a b g1 g2 : Reg) (place : Place) (opt : CopyOpt) (unit : Bool) (eng : Eng)
  /-- CMCAST (R373): Accepts a copy of one source to every target of a rectangle. -/
  | cmcast (g : Guard) (d a b : Reg) (place : Place) (opt : CopyOpt) (unit : Bool) (eng : Eng)
  /-- CTHR (R375): Accepts a threshold-unit operation that forms a weight-tile record from latents and delivers it. -/
  | cthr (g : Guard) (d a b gr pr seed : Reg) (tb arr : Bool) (note : BitVec 2) (stoch : Bool) (eng : Eng)
  /-- CCONV (R376): Accepts a scaled or table conversion copy. -/
  | cconv (g : Guard) (d a b : Reg) (conv tslot : BitVec 4) (note : BitVec 2) (eng : Eng)
  /-- CTAB (R377): Loads a conversion-table slot and blocks until it completes. -/
  | ctab (g : Guard) (d a : Reg) (tslot : BitVec 4) (tfmt : BitVec 2)
  /-- CFREE (R378): Releases and adds an increment to a semaphore of a named tile. -/
  | cfree (g : Guard) (a : Reg) (place : Place)
  /-- TBINIT (R379): Initialises a transaction barrier's counts without opening it. -/
  | tbinit (g : Guard) (a : Reg) (n : BitVec 16)
  /-- TBARR (R380): Makes one arrival at a barrier. -/
  | tbarr (g : Guard) (d a : Reg)
  /-- TBEXP (R380): Adds expected bytes to a barrier and optionally arrives. -/
  | tbexp (g : Guard) (d a b : Reg) (arr : Bool)
  /-- TBWAIT (R381): Blocks until the barrier's phase changes or it faults. -/
  | tbwait (g : Guard) (d a b : Reg)
  /-- TBTEST (R381): Returns the barrier status without blocking. -/
  | tbtest (g : Guard) (d a b : Reg)
  /-- TBGUARD (R382): Binds a local region to a barrier so that reads park until it opens, or unbinds. -/
  | tbguard (g : Guard) (d a b : Reg)
  -- Messages, remote accesses, collectives (14_messages_fabric.md)
  /-- MSEND (R413): Builds a message with payload and control word and injects it. -/
  | msend (g : Guard) (d a b : Reg) (place : Place) (ch : BitVec 6) (dec : BitVec 10)
  /-- MRECV (R414): Dequeues the oldest matching inbox entry without blocking and acquires. -/
  | mrecv (g : Guard) (d a b : Reg)
  /-- MPEEK (R414): Counts matching inbox entries. -/
  | mpeek (g : Guard) (d a : Reg)
  /-- RST (R415): Posts a remote store through the journal. -/
  | rst (g : Guard) (z : Size) (d a : Reg) (place : Place) (ord : Bool)
  /-- RLD (R416): Issues a remote load and blocks until the reply. -/
  | rld (g : Guard) (z : Size) (d a : Reg) (place : Place) (zx : Bool)
  /-- JREAD (R417): Reads a journal entry's data and information. -/
  | jread (g : Guard) (d a b : Reg)
  /-- JACK (R417): Frees a refused journal entry. -/
  | jack (g : Guard) (d a : Reg)
  /-- NFENCE (R418): Blocks until earlier remote stores and messages are acknowledged or returned. -/
  | nfence (g : Guard) (rst msg : Bool)
  /-- COLL (R419): Checks operands and submits a collective to a collective engine. -/
  | coll (g : Guard) (d a b c e : Reg) (kind : CollKind) (ty : EltTy) (red : RedOp) (rm : Rm)
  -- The control plane (16_time_faults.md)
  /-- ENCTAB_WRITE (R450): A write of ENCTAB makes every encoder finish its frame and reread its table. -/
  | enctabWrite (g : Guard) (op : CsrOp) (d a : Reg)
  /-- BRK (R470): Retires and raises a breakpoint trap. -/
  | brk (g : Guard) (code : BitVec 16)
  /-- DBGCTL_STAT (R471): Returns DBGSTAT. -/
  | dbgctlStat (g : Guard) (d : Reg)
  /-- DBGCTL_HALT (R471): Returns DBGSTAT and sets ENGHALT. -/
  | dbgctlHalt (g : Guard) (d : Reg)
  /-- DBGCTL_RUN (R471): Returns DBGSTAT and clears ENGHALT. -/
  | dbgctlRun (g : Guard) (d : Reg)
  /-- DBGCTL_KILL (R471): Starts teardown of a named context. -/
  | dbgctlKill (g : Guard) (d a : Reg)
  /-- DBGCTL_SETTLE (R471): Blocks until engines are stopped or ENGHALT clears, then returns DBGSTAT. -/
  | dbgctlSettle (g : Guard) (d : Reg)
  -- Events with operands: Activations and channels (04_activations.md)
  /-- RANGE_UNIT_SERVICE (R109): The range unit serves one rtake request indivisibly and replies with start and length. -/
  | rangeUnitService (die : Nat)
  -- Events with operands: Scalar instructions (05_scalar_registers.md)
  /-- QUEUE_ENTRY_LANDING (R255): A reserved queue entry lands in the target input queue 4 cc after its reservation is granted. -/
  | queueEntryLanding (core : Nat)
  -- Events with operands: Local memories (06_local_memories.md)
  /-- CSP_BLOCK_ZEROED (R157): A freed CSP block finishes zeroing and rejoins the free list. -/
  | cspBlockZeroed (cl : Nat)
  -- Events with operands: Vector lanes and special functions (07_vector_lanes.md)
  /-- VLP_REQUEST_SERVICE (R180): The pool serves a lane request that has arrived or that lanes freed, and replies 4 cc later. -/
  | vlpRequestService (octet : Nat)
  /-- SFU_RETURN (R190): When every lane of a request is ready, the SFU writes the destination, sets flags and returns the token. -/
  | sfuReturn (quad : Nat)
  -- Events with operands: Ternary matrix engine (08_matrix_engine.md)
  /-- TME_OPERATION_START (R215): The engine starts the next operation when its predecessors allow, or skips it while halted. -/
  | tmeOperationStart (tile : Nat)
  /-- TME_OPERATION_COMPLETE (R217): An operation completes and performs its signal parcel after its writes. -/
  | tmeOperationComplete (tile k : Nat)
  -- Events with operands: Caches (11_l2_cache.md)
  /-- IINV_COMPLETE (R319): An iinv's invalidation completes and its lines are absent. -/
  | iinvComplete (cl : Nat)
  -- Events with operands: Translation and gather windows (12_translation.md)
  /-- TABLE_WALK (R330): A walker takes a queued request, walks the page tables and returns the translation or fault. -/
  | tableWalk (die : Nat)
  -- Events with operands: Copy engines and barriers (13_copy_engines.md)
  /-- COPY_OPERATION_START (R348): A copy engine starts an accepted operation in acceptance order when fewer than four run. -/
  | copyOperationStart (engine : Nat)
  /-- COPY_CHUNK_LANDING (R350): A chunk of up to 512 bytes lands at its target and credits its barrier. -/
  | copyChunkLanding (engine op chunk : Nat)
  /-- COPY_OPERATION_COMPLETE (R351): After the last acknowledgement the operation signals, ORs flags into CCONF and sends a completion message. -/
  | copyOperationComplete (engine op : Nat)
  -- Events with operands: Messages, remote accesses, collectives (14_messages_fabric.md)
  /-- COLLECTIVE_START (R402): A collective engine starts an accepted collective and reads its descriptor. -/
  | collectiveStart (engine : Nat)
  /-- COLLECTIVE_CONTRIBUTION (R405): A contribution reaches the engine for a chunk, is checked and included or refused. -/
  | collectiveContribution (engine op rank chunk : Nat) (data : Option Contrib)
  /-- COLLECTIVE_CHUNK_TIMEOUT (R405): TIMEOUT passes for a chunk and missing ranks become absent. -/
  | collectiveChunkTimeout (engine op chunk : Nat)
  /-- COLLECTIVE_COMPLETE (R408): The collective writes results and bitmaps and sends its completion message. -/
  | collectiveComplete (engine op : Nat)
  -- Events with operands: Fetch, starts and home slices (03, 04, 11)
  /-- ACTIVATION_START (R102): The core selects an eligible channel for a free slot and starts its handler. -/
  | activationStart (core : Nat)
  /-- L2_REQUEST_SERVICE (R298): A home slice serves a read or write to a line, re-encoding and allocating sectors. -/
  | l2RequestService (slice : Nat)
  /-- L2_WRITE_REPLAY (R305): A refused write is replayed 32 cc after its refusal. -/
  | l2WriteReplay (slice k : Nat)
  /-- WRITE_BACK_BUFFER_DRAIN (R304): The write-back buffer writes an entry to LPDDR-6, freeing room. -/
  | writeBackBufferDrain (slice : Nat)
  /-- L2_FILL_RETURN (R307): LPDDR-6 data for a miss returns and the line is filled or served without allocation. -/
  | l2FillReturn (slice k : Nat)
  /-- HOST_CXL_MEM_ACCESS (R496): A host CXL.mem access is served at the home slice with back-invalidate snoops. -/
  | hostCxlMemAccess (addr : Nat) (write : Bool) (bytes : List Byte)
  -- Events with operands: The control plane (16_time_faults.md)
  /-- ENCODER_FRAME (R452): A frame encoder takes a ring slot, encodes one AV1 unit, advances WR and sends a completion. -/
  | encoderFrame (die entry : Nat)
  /-- ENCODER_RD_POLL (R452): Every 10 us a waiting encoder rereads RD. -/
  | encoderRdPoll (die entry : Nat)
  /-- TIME_SYNC_MESSAGE (R438): A synchronisation message disciplines the time base to the domain master. -/
  | timeSyncMessage (master : BitVec 64)
  /-- FABRIC_TRAINING (R400): The Bruxaoz fabric trains and assigns the module number. -/
  | fabricTraining (module : BitVec 10)
  -- Events with operands: Host, boot and management (20_host_platform.md)
  /-- RECOVERY_IMAGE_I3C (R501): A recovery image pushed through the management I3C port is verified and run. -/
  | recoveryImageI3c (image : List Byte)
  /-- RCVLEN_WRITE (R501): A nonzero RCVLEN write starts fetching a recovery image from the host. -/
  | rcvlenWrite (v : BitVec 64)
  /-- HCTAIL_WRITE (R498): A write of HCTAIL makes new command entries available to the queue manager. -/
  | hctailWrite (v : BitVec 64)
  /-- HCRSIZE_WRITE (R497): A write of HCRSIZE sets the ring size and resets HEAD and TAIL, or is ignored. -/
  | hcrsizeWrite (v : BitVec 64)
  /-- HCRBASE_WRITE (R497): A write of HCRBASE sets the command ring base while idle. -/
  | hcrbaseWrite (v : BitVec 64)
  /-- PCAP_WRITE (R497): A write of PCAP sets the power cap or is ignored and sets OVR. -/
  | pcapWrite (v : BitVec 64)
  /-- HOST_REGISTER_WRITE (R17): A host write to an MCB or HIB register without a row of its own is ignored or applied to its RW and W1C fields. -/
  | hostRegisterWrite (hib : Bool) (off : Nat) (v : BitVec 64)
  /-- POWER_SAMPLE (R504): Every millisecond power and temperature are sampled and the clock throttled or the module tripped. -/
  | powerSample (power : BitVec 32) (temp : BitVec 16)
  /-- UNASSIGNED_OPCODE (R72): A head whose MAJ or MIN is unassigned or reserved raises an illegal-instruction trap when it is executed. -/
  | unassignedOpcode (head : Parcel)
  /-- BACK_INVALIDATE_SNOOP_RESPONSE (R496): The host's response to a back-invalidate snoop lets the waiting home slice perform the device write to the line. -/
  | backInvalidateSnoopResponse (line : Nat)
  /-- KEY_TRANSPORT_KEY_PROVISIONING (R502): The system integrator provisions the 256-bit key-transport key once through the management I3C port into one-time fuses. -/
  | keyTransportKeyProvisioning (key : BitVec 256)
  /-- CXL_LINK_TRAINING (R494): The CXL 3.1 host port trains at 64 GT/s or 32 GT/s, after the boot ROM has filled the MCB. -/
  | cxlLinkTraining (fast : Bool)
  -- Events without operands (the slot `cur` or the item `sel` of the state): Activations and channels (04_activations.md)
  /-- FALIGN_TIMEOUT (R121): A falign retires when 64 cc have passed since it issued. -/
  | falignTimeout
  -- Events without operands (the slot `cur` or the item `sel` of the state): Local memories (06_local_memories.md)
  /-- FE_RETRY_ATTEMPT (R161): Every 8 cc a blocked full/empty instruction retries, and past RETRYLIM it marks the waiter and raises fe_wait. -/
  | feRetryAttempt
  /-- MWAIT_DEADLINE (R175): The time base reaches a waiting mwait's deadline and it retires with status 3. -/
  | mwaitDeadline
  -- Events without operands (the slot `cur` or the item `sel` of the state): Translation and gather windows (12_translation.md)
  /-- WALK_QUEUE_RETRY (R330): A cluster whose walk request found the queue full retries 16 cc later. -/
  | walkQueueRetry
  -- Events without operands (the slot `cur` or the item `sel` of the state): Copy engines and barriers (13_copy_engines.md)
  /-- CFREE_ARRIVAL (R378): A cfree message reaches the named tile and signals its semaphore, or is logged as not applied. -/
  | cfreeArrival
  -- Events without operands (the slot `cur` or the item `sel` of the state): Messages, remote accesses, collectives (14_messages_fabric.md)
  /-- MESSAGE_ARRIVAL (R390): A target NI checks an accepted message, lands its payload, applies the arrival rule and enqueues it, or returns it. -/
  | messageArrival
  /-- RETURNED_MESSAGE (R392): A returned message is delivered to the sender as an arrival on MSGCFG.RCH. -/
  | returnedMessage
  /-- ACKNOWLEDGEMENT_ARRIVAL (R395): An acknowledgement frees a journal entry or decrements OUT. -/
  | acknowledgementArrival
  /-- REMOTE_STORE_ARRIVAL (R395): A posted remote store is checked and performed or refused at its target. -/
  | remoteStoreArrival
  /-- JOURNAL_REFUSAL (R396): A refusal marks its entry REFUSED and raises a journal trap or writes an error entry. -/
  | journalRefusal
  /-- REMOTE_LOAD_SERVICE (R397): A remote load request is served at the target and a reply sent. -/
  | remoteLoadService
  /-- REMOTE_LOAD_REPLY (R397): The reply of a remote load writes its destination or raises a remote or data-loss fault. -/
  | remoteLoadReply
  /-- DRIFT_CREDIT_ARRIVAL (R108): A drift credit from a neighbour adds 1 to DCRED, saturating. -/
  | driftCreditArrival
  /-- REMOTE_REPLY_TIMEOUT (R399): An access to another module with no reply within 1 ms ends with data loss. -/
  | remoteReplyTimeout
  -- Events without operands (the slot `cur` or the item `sel` of the state): Fetch, starts and home slices (03, 04, 11)
  /-- FETCH_LINE (R62): A slot fetches a 64-byte line image on entry and decodes its heads. -/
  | fetchLine
  -- Events without operands (the slot `cur` or the item `sel` of the state): The control plane (16_time_faults.md)
  /-- LAUNCH_CHECK (R94): The queue manager reads and checks a launch record and refuses it or admits it. -/
  | launchCheck
  /-- LAUNCH_START (R95): The queue manager starts a ready launch on a free placement and delivers start messages. -/
  | launchStart
  /-- LAUNCH_END (R96): When every core is done the launch releases, frees resources and writes its completion. -/
  | launchEnd
  /-- STREAM_WAIT_ENTRY (R442): A WAIT entry blocks until its stream semaphore reaches the threshold and subtracts it. -/
  | streamWaitEntry
  /-- STREAM_SIGNAL_ENTRY (R442): A SIGNAL entry adds to a stream semaphore. -/
  | streamSignalEntry
  /-- STREAM_MAPPING (R443): An unmapped stream with entries takes or displaces a mapping. -/
  | streamMapping
  /-- INHERITANCE_SEARCH (R444): After 50 us blocked, the queue manager maps a stream holding the awaited SIGNAL at raised priority. -/
  | inheritanceSearch
  /-- CONTRACT_JOB_RELEASE (R447): At each period a contract job is released, re-enabling channels and delivering start messages or logging a miss. -/
  | contractJobRelease
  /-- CONTRACT_BUDGET_OVERRUN (R449): A job that exhausts its budget is switched out and an overrun is logged. -/
  | contractBudgetOverrun
  /-- GANG_SWITCH_OUT (R454): At tap time a partition stops at its stop points and its state is saved. -/
  | gangSwitchOut
  /-- GANG_SWITCH_IN (R457): A partition's state is restored, held messages applied and every core issues from a common tap time. -/
  | gangSwitchIn
  /-- TIME_SYNC_LOSS (R438): After 1 ms without synchronisation LOCK clears and the loss is recorded. -/
  | timeSyncLoss
  /-- TEARDOWN_STEP (R465): A teardown step runs when the in-flight count of the previous step reaches zero. -/
  | teardownStep
  -- Events without operands (the slot `cur` or the item `sel` of the state): Host, boot and management (20_host_platform.md)
  /-- MODULE_RESET (R500): The boot ROM fills the MCB, verifies the flash image and runs it or awaits recovery. -/
  | moduleReset
  /-- CTXNEW (R498): Writes a context descriptor with V = 1. -/
  | ctxnew
  /-- STRNEW (R498): Writes a stream descriptor. -/
  | strnew
  /-- STRRST (R498): Restarts a stopped stream by setting HEAD to TAIL. -/
  | strrst
  /-- APPEND (R498): Appends a stream entry at TAIL. -/
  | append
  /-- SEMSET (R498): Assigns a stream semaphore to a context and sets its value. -/
  | semset
  /-- CANCEL (R498): Cancels the contract of the launch at a stream's head. -/
  | cancel
  /-- TEARDOWN (R498): Starts teardown of a context, completing after its last step. -/
  | teardown
  /-- KEYLOAD (R502): Unwraps a key blob and writes a key-table entry. -/
  | keyload
  /-- ATTEST (R503): Writes a signed attestation report into a host buffer. -/
  | attest
  /-- FWUPD (R498): Verifies a firmware image and writes it to flash. -/
  | fwupd
  /-- ATTEST_COMPLETION (R503): An ATTEST command completes within 2 s, having written its signed report, and its STATUS and DONE are written. -/
  | attestCompletion
  /-- FWUPD_COMPLETION (R498): A FWUPD command completes after it has verified the image and written it to flash, or failed with STATUS 5. -/
  | fwupdCompletion
  deriving DecidableEq, Repr

end Sys2Proof
end

