-- ==== Sys2Proof/WellFormed.lean ====
section
/-!
DEFINITION. Which instructions are well formed: the operand limits that raise an illegal-instruction trap under
order 6 of Table 3.7. A limit that the type of a field already keeps (a queue port below 4, a code of a list) has no check here.
-/

namespace Sys2Proof

/-- The integer element types (R193). -/
def EltTy.isInt : EltTy → Bool
  | .f32 | .bf16 | .f16 => false
  | _ => true

/-- The signed integer types. -/
def EltTy.isSigned : EltTy → Bool
  | .i32 | .i16 | .i8 => true
  | _ => false

/-- The assigned CSR numbers (Table 5.2 and the CSR tables of each chapter; R127). -/
def csrAssigned (n : Nat) : Bool :=
  [0x000, 0x001, 0x002, 0x003, 0x004, 0x008, 0x009, 0x00A, 0x00B, 0x00C, 0x00D, 0x010, 0x011, 0x012, 0x013,
    0x040, 0x041, 0x042, 0x080, 0x081, 0x082, 0x0C0, 0x0C1, 0x0C2].contains n ||
  [0x100, 0x101, 0x102, 0x103, 0x104, 0x105, 0x108, 0x109, 0x10A, 0x10B, 0x140, 0x141, 0x1A0, 0x1A1, 0x1A2,
    0x1C0, 0x1C1, 0x1C2, 0x1E0, 0x1E1, 0x1E2, 0x1E3].contains n ||
  [0x200, 0x201, 0x202, 0x203, 0x204, 0x205, 0x206, 0x207, 0x208].contains n

/-- The CSRs whose fields are all RO or RSV: a write to them is illegal in every mode (R128 check 1). -/
def csrReadOnly (n : Nat) : Bool :=
  [0x000, 0x004, 0x009, 0x00A, 0x00C, 0x00D, 0x041, 0x042, 0x080, 0x0C2, 0x104, 0x140, 0x141, 0x1A0, 0x1A1, 0x1A2,
    0x1C2, 0x1E1, 0x1E2, 0x200, 0x201, 0x202, 0x203, 0x205, 0x206, 0x207].contains n

/-- The numbers 0x108 to 0x10B: the QPORT registers (R256). -/
def csrIsQport (n : Nat) : Bool := 0x108 ≤ n && n ≤ 0x10B

/-- A CSR number that a plain `csrr` names: FPSTAT and QPORT have rows of their own. -/
def csrReadable (n : Nat) : Bool := csrAssigned n && n != 0x001 && !csrIsQport n

/-- A CSR number that a plain `csrw`, `csrs` or `csrc` names: FPSTAT, QPORT, LHST and ENCTAB have rows of their own,
and `csrs` or `csrc` of QPORT is illegal (R256). -/
def csrWritable (n : Nat) : Bool :=
  csrAssigned n && !csrReadOnly n && n != 0x001 && n != 0x105 && n != 0x208 && !csrIsQport n

/-- RM is 0b00 on an integer type (R68, R193). -/
def rmOk (ty : EltTy) (rm : Rm) : Bool := !ty.isInt || rm == .rne

/-- SAT is 0 on a float type (R193). -/
def satOk (ty : EltTy) (sat : Bool) : Bool := ty.isInt || !sat

/-- The types of `vabs` and `vchs`: floats and signed integers (Table 7.5). -/
def absTy (ty : EltTy) : Bool := !ty.isInt || ty.isSigned

/-- The row fields of `mrun` and `mrunq` (R232). -/
def RowSpec.wf (r : RowSpec) : Bool :=
  r.frow.toNat + r.nrow.toNat ≤ 15 && (r.tr || r.sq == 0) && r.sq.toNat ≤ 4

/-- The destination fields of `mdrain` and `mdrs` (R232). -/
def drainOk (d a : Reg) (nrow frow : BitVec 4) (dst : Bool) : Bool :=
  frow.toNat + nrow.toNat ≤ 15 && (if dst then a == 0 && d.val + nrow.toNat ≤ 31 else d == 0)

/-- The options of `cpush`, `cslab` and `cmcast` (R369): CONV 0 to 6, NOTE 0 to 2. -/
def CopyOpt.wf (o : CopyOpt) : Bool := o.conv.toNat ≤ 6 && o.note.toNat ≤ 2

/-- A place that names a cluster: TDX, TDY and ROLE are zero (R67). -/
def placeIsCluster (p : Place) : Bool := p.toNat % 16 == 0

/-- N of a ring instruction: 1 to 256 (R265). -/
def ringN (n : BitVec 9) : Bool := 1 ≤ n.toNat && n.toNat ≤ 256

/-- WHAT of `msave` and `mrest` (R232). -/
def whatOk (w : BitVec 2) : Bool := w.toNat ≤ 2

/-- The operand limits of the instructions (order 6 of Table 3.7). An event is always well formed. The immediate of a full/empty form may be any number:
Table 6.6 calls it a multiple of 8 and names no trap for another, and the alignment of the address is checked (R169): DESIGN CHOICE (log entry 55). -/
def Instr.wf : Instr → Bool
  | .harm _ _ _ b keep _ => !keep || b == 0
  | .ext _ _ _ w1 p => w1.toNat + 1 + p.toNat ≤ 64
  | .extn _ _ _ w1 p => w1.toNat + 1 + p.toNat ≤ 64
  | .ins _ _ _ w1 p => w1.toNat + 1 + p.toNat ≤ 64
  | .csrr _ _ n => csrReadable n.toNat
  | .csrw _ _ _ n => csrWritable n.toNat
  | .csrs _ _ _ n => csrWritable n.toNat
  | .csrc _ _ _ n => csrWritable n.toNat
  | .fpstatAccess _ op _ a => op != .csrr || a == 0
  | .lhstRet _ op _ _ => op != .csrr
  | .enctabWrite _ op _ _ => op != .csrr
  | .amo _ _ _ _ _ _ ord scope => ord != .relaxed || scope == .slot
  | .fence _ _ kind => kind != .relaxed
  | .spal _ _ _ bank _ side => side == 0 || bank == 7
  | .vclaim _ _ _ _ lo => lo.toNat ≤ 256 && lo.toNat % 16 == 0
  | .vreneg _ _ _ want => want.toNat ≤ 256
  | .sfn _ _ _ fn _ rm => rm == .rne || fn == .rcp || fn == .sqrt
  | .vadd _ ty rm _ _ _ sat => rmOk ty rm && satOk ty sat
  | .vsub _ ty rm _ _ _ sat => rmOk ty rm && satOk ty sat
  | .vmul _ ty rm _ _ _ sat => rmOk ty rm && satOk ty sat
  | .vfma _ ty rm _ _ _ _ sat => rmOk ty rm && satOk ty sat
  | .vfms _ ty rm _ _ _ _ sat => rmOk ty rm && satOk ty sat
  | .vabs _ ty _ _ sat => absTy ty && satOk ty sat
  | .vchs _ ty _ _ sat => absTy ty && satOk ty sat
  | .vand _ ty _ _ _ => ty.isInt
  | .vor _ ty _ _ _ => ty.isInt
  | .vxor _ ty _ _ _ => ty.isInt
  | .vshl _ ty _ _ b imm _ => ty.isInt && (!imm || b == 0)
  | .vshr _ ty _ _ b imm _ => ty.isInt && (!imm || b == 0)
  | .vsar _ ty _ _ b imm _ => ty.isInt && (!imm || b == 0)
  | .vcvt _ ty rm _ _ irm _ => if ty.isInt then rm == .rne else irm == .rne
  | .vmxq _ _ d _ => d.val ≤ 30
  | .vmxd _ _ _ _ a => a.val ≤ 30
  | .vred _ ty rm _ _ red => rm == .rne || (!ty.isInt && red == .add)
  | .vmov _ _ d a form =>
    (form == 0 || form == 2 || a.val < 8) && (form == 0 || form == 1 || d.val < 8)
  | .mrun _ _ _ _ row _ => row.wf
  | .mrunq _ d a row fwd _ => row.wf && (if fwd then d != a else d == 0)
  | .mdrain _ d a nrow frow _ dst _ => drainOk d a nrow frow dst
  | .mdrs _ d a nrow frow _ dst _ => drainOk d a nrow frow dst
  | .mclr _ banks _ => banks != 0
  | .mswap _ l set _ => set || !l
  | .mpass _ _ _ _ esz plane _ => plane.toNat < 2 ^ esz.toNat
  | .mcfg _ a _ _ user base => if user then base == 0 else a == 0
  | .msave _ _ what _ => whatOk what
  | .mrest _ _ what _ => whatOk what
  | .qdir _ _ _ dir _ => dir.toNat ≤ 5
  | .qflush _ mask => mask != 0
  | .rbacq _ _ _ n _ => ringN n
  | .rbpub _ _ _ n => ringN n
  | .rbtake _ _ _ n _ => ringN n
  | .rbrel _ _ _ n => ringN n
  | .sisect _ _ fa fb => fa != fb
  | .sunion _ _ fa fb => fa != fb
  | .gbind _ _ _ _ esz _ _ _ cnt => esz.toNat ≤ 4 && cnt != 0
  | .tlbinv _ a b all => !all || (a == 0 && b == 0)
  | .cpush _ _ _ _ place opt glb ring _ => opt.wf && !(opt.tb && ring) && (!glb || place == 0)
  | .cslab _ _ _ _ _ _ place opt unit _ => opt.wf && (!unit || placeIsCluster place)
  | .cmcast _ _ _ _ place opt unit _ => opt.wf && (!unit || placeIsCluster place)
  | .cthr _ _ _ _ _ _ seed _ _ note stoch _ => note.toNat ≤ 2 && (stoch || seed == 0)
  | .cconv _ _ _ _ conv tslot note _ => conv.toNat ≤ 9 && note.toNat ≤ 2 && (7 ≤ conv.toNat || tslot == 0)
  | .ctab _ _ _ _ tfmt => tfmt.toNat ≤ 2
  | .msend _ _ a _ _ _ _ => a.val ≤ 30
  | .mrecv _ d _ _ => d.val ≤ 27
  | .nfence _ r m => r || m
  | .coll _ _ _ _ _ _ kind ty red rm =>
    rmOk ty rm && ((kind == .allReduce || kind == .reduceScatter) || (red == .add && rm == .rne))
  | .hret _ => true
  | .hpost _ _ _ _ _ => true
  | .hen _ _ _ _ _ => true
  | .hdis _ _ _ _ _ => true
  | .hpclr _ _ _ _ _ => true
  | .hprio _ _ _ _ => true
  | .tsread _ _ => true
  | .dsync _ _ _ => true
  | .falign _ => true
  | .falignTimeout => true
  | .rtake _ _ _ _ => true
  | .rangeUnitService _ => true
  | .lnch _ _ _ _ => true
  | .add _ _ _ _ => true
  | .sub _ _ _ _ => true
  | .and _ _ _ _ => true
  | .or _ _ _ _ => true
  | .xor _ _ _ _ => true
  | .andn _ _ _ _ => true
  | .orn _ _ _ _ => true
  | .mov _ _ _ => true
  | .mul _ _ _ _ => true
  | .mulh _ _ _ _ => true
  | .mulhn _ _ _ _ => true
  | .sel _ _ _ _ => true
  | .div _ _ _ _ => true
  | .divn _ _ _ _ => true
  | .rem _ _ _ _ => true
  | .remn _ _ _ _ => true
  | .shl _ _ _ _ => true
  | .shr _ _ _ _ => true
  | .sar _ _ _ _ => true
  | .rotl _ _ _ _ => true
  | .min _ _ _ _ => true
  | .max _ _ _ _ => true
  | .minn _ _ _ _ => true
  | .maxn _ _ _ _ => true
  | .addi _ _ _ _ => true
  | .shli _ _ _ _ => true
  | .shri _ _ _ _ => true
  | .sari _ _ _ _ => true
  | .addpc _ _ _ => true
  | .lui _ _ _ => true
  | .lim _ _ _ => true
  | .cmpi _ _ _ _ _ => true
  | .clz _ _ _ => true
  | .ctz _ _ _ => true
  | .popc _ _ _ => true
  | .bswap _ _ _ => true
  | .sext _ _ _ _ => true
  | .zext _ _ _ _ => true
  | .cmp _ _ _ _ _ => true
  | .gop _ _ _ _ _ _ _ => true
  | .nop _ => true
  | .br _ _ => true
  | .jl _ _ => true
  | .jlr _ _ _ => true
  | .trap _ _ => true
  | .lpset _ _ _ => true
  | .lpsetr _ _ _ => true
  | .lpbrk _ => true
  | .eret _ => true
  | .qportRead _ _ _ => true
  | .qportWrite _ _ _ _ => true
  | .queueEntryLanding _ => true
  | .ld _ _ _ _ _ _ => true
  | .ldn _ _ _ _ _ _ => true
  | .st _ _ _ _ _ _ => true
  | .ldx _ _ _ _ _ => true
  | .ldxSync _ _ _ _ _ _ => true
  | .stx _ _ _ _ _ => true
  | .stxSync _ _ _ _ _ _ => true
  | .amocas _ _ _ _ _ _ => true
  | .ldfe _ _ _ _ _ => true
  | .stfe _ _ _ _ _ => true
  | .ldff _ _ _ _ _ => true
  | .ldre _ _ _ _ _ => true
  | .stsf _ _ _ _ _ => true
  | .feRetryAttempt => true
  | .mon _ _ => true
  | .mwait _ _ _ => true
  | .mwaitDeadline => true
  | .spfr _ _ _ => true
  | .cspBlockZeroed _ => true
  | .fecl _ _ _ _ => true
  | .vrel _ => true
  | .vlpRequestService _ => true
  | .sfuReturn _ => true
  | .vld _ _ _ _ _ _ => true
  | .vst _ _ _ _ _ _ => true
  | .vlds _ _ _ _ _ _ _ => true
  | .vsts _ _ _ _ _ _ _ => true
  | .vmin _ _ _ _ _ => true
  | .vmax _ _ _ _ _ => true
  | .vcmp _ _ _ _ _ _ => true
  | .vsel _ _ _ _ _ _ => true
  | .vclamp _ _ _ _ _ _ => true
  | .vtern _ _ _ _ _ _ => true
  | .vsplat _ _ _ _ => true
  | .vext _ _ _ _ _ => true
  | .vins _ _ _ _ _ => true
  | .mlw _ _ _ _ _ => true
  | .tmeOperationStart _ => true
  | .tmeOperationComplete _ _ => true
  | .swt _ _ _ => true
  | .ssig _ _ _ => true
  | .sset _ _ _ _ => true
  | .srd _ _ _ => true
  | .qctl _ _ _ => true
  | .qstat _ _ _ => true
  | .rbinit _ _ _ _ _ => true
  | .stacq _ _ _ _ _ => true
  | .strel _ _ _ _ => true
  | .sopen _ _ _ _ _ => true
  | .snext _ _ _ => true
  | .sskip _ _ _ _ => true
  | .scrd _ _ _ _ => true
  | .sval _ _ _ _ => true
  | .sdone _ _ _ => true
  | .ssave _ _ _ => true
  | .srest _ _ _ => true
  | .sclose _ _ => true
  | .cwb _ _ _ => true
  | .cinv _ _ _ => true
  | .cwbi _ _ _ => true
  | .iinv _ _ _ => true
  | .iinvComplete _ => true
  | .ibar _ => true
  | .l2pf _ _ _ _ => true
  | .l2zero _ _ => true
  | .gunb _ _ _ => true
  | .gstat _ _ _ => true
  | .tableWalk _ => true
  | .walkQueueRetry => true
  | .cfree _ _ _ => true
  | .cfreeArrival => true
  | .copyOperationStart _ => true
  | .copyChunkLanding _ _ _ => true
  | .copyOperationComplete _ _ => true
  | .tbinit _ _ _ => true
  | .tbarr _ _ _ => true
  | .tbexp _ _ _ _ _ => true
  | .tbwait _ _ _ _ => true
  | .tbtest _ _ _ _ => true
  | .tbguard _ _ _ _ => true
  | .mpeek _ _ _ => true
  | .rst _ _ _ _ _ _ => true
  | .rld _ _ _ _ _ _ => true
  | .jread _ _ _ _ => true
  | .jack _ _ _ => true
  | .messageArrival => true
  | .returnedMessage => true
  | .acknowledgementArrival => true
  | .remoteStoreArrival => true
  | .journalRefusal => true
  | .remoteLoadService => true
  | .remoteLoadReply => true
  | .driftCreditArrival => true
  | .remoteReplyTimeout => true
  | .collectiveStart _ => true
  | .collectiveContribution _ _ _ _ _ => true
  | .collectiveChunkTimeout _ _ _ => true
  | .collectiveComplete _ _ => true
  | .fetchLine => true
  | .activationStart _ => true
  | .l2RequestService _ => true
  | .l2WriteReplay _ _ => true
  | .writeBackBufferDrain _ => true
  | .l2FillReturn _ _ => true
  | .hostCxlMemAccess _ _ _ => true
  | .launchCheck => true
  | .launchStart => true
  | .launchEnd => true
  | .streamWaitEntry => true
  | .streamSignalEntry => true
  | .streamMapping => true
  | .inheritanceSearch => true
  | .contractJobRelease => true
  | .contractBudgetOverrun => true
  | .gangSwitchOut => true
  | .gangSwitchIn => true
  | .encoderFrame _ _ => true
  | .encoderRdPoll _ _ => true
  | .timeSyncMessage _ => true
  | .timeSyncLoss => true
  | .fabricTraining _ => true
  | .teardownStep => true
  | .brk _ _ => true
  | .dbgctlStat _ _ => true
  | .dbgctlHalt _ _ => true
  | .dbgctlRun _ _ => true
  | .dbgctlKill _ _ _ => true
  | .dbgctlSettle _ _ => true
  | .moduleReset => true
  | .recoveryImageI3c _ => true
  | .rcvlenWrite _ => true
  | .hctailWrite _ => true
  | .hcrsizeWrite _ => true
  | .hcrbaseWrite _ => true
  | .pcapWrite _ => true
  | .hostRegisterWrite _ _ _ => true
  | .ctxnew => true
  | .strnew => true
  | .strrst => true
  | .append => true
  | .semset => true
  | .cancel => true
  | .teardown => true
  | .keyload => true
  | .attest => true
  | .fwupd => true
  | .powerSample _ _ => true
  | .unassignedOpcode _ => true
  | .backInvalidateSnoopResponse _ => true
  | .keyTransportKeyProvisioning _ => true
  | .cxlLinkTraining _ => true
  | .attestCompletion => true
  | .fwupdCompletion => true

end Sys2Proof
end

