-- ==== Sys2Proof/Decode.lean ====
section
/-!
DEFINITION. Decoding and encoding of heads and tail parcels (03_instruction_lines.md R59 to R82 and the encoding table
of each chapter). `encode` writes the head and the tail parcels of a well-formed instruction; `decodeParcels` reads a
head with its tail parcels in the order of Table 3.7 (orders 4 to 6) and rejects by name; `decodeLine` finds the heads of
a line (R61); `decodeTableWord` reads a row of the opcode table. A head that is decoded is built field by field
from the encoding tables, and then accepted only when it is well formed and no bit outside its fields is set, that is
when encoding it again gives the same parcels (R66, R70).
-/

namespace Sys2Proof

/-! ## Codes of the operand lists -/

/-- The code of a Size (R71). -/
def Size.code : Size → Nat
  | .b => 0
  | .h => 1
  | .w => 2
  | .d => 3

/-- The Size of a code; a code that no Size has gives the first one, and encoding again then differs. -/
def Size.ofCode : Nat → Size
  | 1 => .h
  | 2 => .w
  | 3 => .d
  | _ => .b

/-- The code of a VSize (R199). -/
def VSize.code : VSize → Nat
  | .b => 0
  | .h => 1
  | .w => 2

/-- The VSize of a code; a code that no VSize has gives the first one, and encoding again then differs. -/
def VSize.ofCode : Nat → VSize
  | 1 => .h
  | 2 => .w
  | _ => .b

/-- The code of a EltTy (Table 3.4). -/
def EltTy.code : EltTy → Nat
  | .f32 => 0
  | .bf16 => 1
  | .f16 => 2
  | .i32 => 3
  | .n32 => 4
  | .i16 => 5
  | .n16 => 6
  | .i8 => 7
  | .n8 => 8

/-- The EltTy of a code; a code that no EltTy has gives the first one, and encoding again then differs. -/
def EltTy.ofCode : Nat → EltTy
  | 1 => .bf16
  | 2 => .f16
  | 3 => .i32
  | 4 => .n32
  | 5 => .i16
  | 6 => .n16
  | 7 => .i8
  | 8 => .n8
  | _ => .f32

/-- The code of a FloatTy (R211, Table 3.4). -/
def FloatTy.code : FloatTy → Nat
  | .f32 => 0
  | .bf16 => 1
  | .f16 => 2

/-- The FloatTy of a code; a code that no FloatTy has gives the first one, and encoding again then differs. -/
def FloatTy.ofCode : Nat → FloatTy
  | 1 => .bf16
  | 2 => .f16
  | _ => .f32

/-- The code of a Rm (Table 2.3). -/
def Rm.code : Rm → Nat
  | .rne => 0
  | .rtz => 1
  | .rdn => 2
  | .rup => 3

/-- The Rm of a code; a code that no Rm has gives the first one, and encoding again then differs. -/
def Rm.ofCode : Nat → Rm
  | 1 => .rtz
  | 2 => .rdn
  | 3 => .rup
  | _ => .rne

/-- The code of a CsrOp (Table 5.6). -/
def CsrOp.code : CsrOp → Nat
  | .csrr => 0
  | .csrw => 1
  | .csrs => 2
  | .csrc => 3

/-- The CsrOp of a code; a code that no CsrOp has gives the first one, and encoding again then differs. -/
def CsrOp.ofCode : Nat → CsrOp
  | 1 => .csrw
  | 2 => .csrs
  | 3 => .csrc
  | _ => .csrr

/-- The code of a GopOp (Table 5.9). -/
def GopOp.code : GopOp → Nat
  | .and => 0
  | .or => 1
  | .xor => 2

/-- The GopOp of a code; a code that no GopOp has gives the first one, and encoding again then differs. -/
def GopOp.ofCode : Nat → GopOp
  | 1 => .or
  | 2 => .xor
  | _ => .and

/-- The code of a AmoOp (Table 6.8). -/
def AmoOp.code : AmoOp → Nat
  | .swap => 0
  | .add => 1
  | .and => 2
  | .or => 3
  | .xor => 4
  | .min => 5
  | .max => 6
  | .minn => 7
  | .maxn => 8

/-- The AmoOp of a code; a code that no AmoOp has gives the first one, and encoding again then differs. -/
def AmoOp.ofCode : Nat → AmoOp
  | 1 => .add
  | 2 => .and
  | 3 => .or
  | 4 => .xor
  | 5 => .min
  | 6 => .max
  | 7 => .minn
  | 8 => .maxn
  | _ => .swap

/-- The code of a MemOrd (R172, R176). -/
def MemOrd.code : MemOrd → Nat
  | .relaxed => 0
  | .acq => 1
  | .rel => 2
  | .ar => 3

/-- The MemOrd of a code; a code that no MemOrd has gives the first one, and encoding again then differs. -/
def MemOrd.ofCode : Nat → MemOrd
  | 1 => .acq
  | 2 => .rel
  | 3 => .ar
  | _ => .relaxed

/-- The code of a Scope (R172). -/
def Scope.code : Scope → Nat
  | .slot => 0
  | .core => 1
  | .tile => 2
  | .cluster => 3
  | .die => 4
  | .module => 5
  | .domain => 6

/-- The Scope of a code; a code that no Scope has gives the first one, and encoding again then differs. -/
def Scope.ofCode : Nat → Scope
  | 1 => .core
  | 2 => .tile
  | 3 => .cluster
  | 4 => .die
  | 5 => .module
  | 6 => .domain
  | _ => .slot

/-- The code of a CmbOp (R202). -/
def CmbOp.code : CmbOp → Nat
  | .set => 0
  | .and => 1
  | .or => 2
  | .xor => 3

/-- The CmbOp of a code; a code that no CmbOp has gives the first one, and encoding again then differs. -/
def CmbOp.ofCode : Nat → CmbOp
  | 1 => .and
  | 2 => .or
  | 3 => .xor
  | _ => .set

/-- The code of a RedOp (R208). -/
def RedOp.code : RedOp → Nat
  | .add => 0
  | .min => 1
  | .max => 2

/-- The RedOp of a code; a code that no RedOp has gives the first one, and encoding again then differs. -/
def RedOp.ofCode : Nat → RedOp
  | 1 => .min
  | 2 => .max
  | _ => .add

/-- The code of a SfnOp (Table 7.9). -/
def SfnOp.code : SfnOp → Nat
  | .exp2 => 0
  | .log2 => 1
  | .rcp => 2
  | .rsqrt => 3
  | .sqrt => 4
  | .sin => 5
  | .cos => 6
  | .tanh => 7
  | .sigmoid => 8
  | .erf => 9

/-- The SfnOp of a code; a code that no SfnOp has gives the first one, and encoding again then differs. -/
def SfnOp.ofCode : Nat → SfnOp
  | 1 => .log2
  | 2 => .rcp
  | 3 => .rsqrt
  | 4 => .sqrt
  | 5 => .sin
  | 6 => .cos
  | 7 => .tanh
  | 8 => .sigmoid
  | 9 => .erf
  | _ => .exp2

/-- The code of a CollKind (Table 14.6). -/
def CollKind.code : CollKind → Nat
  | .allReduce => 0
  | .reduceScatter => 1
  | .allGather => 2
  | .broadcast => 3

/-- The CollKind of a code; a code that no CollKind has gives the first one, and encoding again then differs. -/
def CollKind.ofCode : Nat → CollKind
  | 1 => .reduceScatter
  | 2 => .allGather
  | 3 => .broadcast
  | _ => .allReduce

/-! ## Fields -/

/-- Bit `lo` of `n`. -/
def fB (n lo : Nat) : Bool := n / 2 ^ lo % 2 == 1

/-- The `w` bits of `n` from bit `lo`, as a number. -/
def fN (w n lo : Nat) : Nat := n / 2 ^ lo % 2 ^ w

/-- The `w` bits of `n` from bit `lo`. -/
def fV (w n lo : Nat) : BitVec w := BitVec.ofNat w (n / 2 ^ lo)

/-- A register-like number from bit `lo` of `n`, modulo its range. -/
def fF {k : Nat} [NeZero k] (n lo : Nat) : Fin k := Fin.ofNat k (n / 2 ^ lo)

/-- D of a register parcel: bits [15:11] (R66). -/
def pD (p : Parcel) : Reg := fF p.toNat 11

/-- A of a register parcel: bits [10:6] (R66). -/
def pA (p : Parcel) : Reg := fF p.toNat 6

/-- B of a register parcel: bits [5:1] (R66). -/
def pB (p : Parcel) : Reg := fF p.toNat 1

/-- X of a register parcel: bit [0] (R66). -/
def pX (p : Parcel) : Bool := fB p.toNat 0

/-- Tail parcel `k`, 0 where there is none. -/
def tk (t : List Parcel) (k : Nat) : Parcel := t.getD k 0

/-- A value in two immediate parcels, bits [15:0] first (R66). -/
def imm2 (p q : Parcel) : Nat := p.toNat + 65536 * q.toNat

/-- A value in four immediate parcels, bits [15:0] first (R66). -/
def imm4 (p q r u : Parcel) : Nat := imm2 p q + 4294967296 * imm2 r u

/-- A wait parcel and a signal parcel (R66). -/
def engOf (w u : Parcel) : Eng :=
  ⟨fV 8 w.toNat 8, fV 8 w.toNat 0, fV 8 u.toNat 8, fV 8 u.toNat 0⟩

/-- The wait and signal parcels of a +s format: present when the sync bit is 1 (R69); `k` base parcels stand before. -/
def syncOf (t : List Parcel) (k : Nat) : Option Eng :=
  if pX (tk t 0) then some (engOf (tk t k) (tk t (k + 1))) else none

/-- A register parcel (R66). -/
def rparcel (d a b x : Nat) : Parcel := BitVec.ofNat 16 (2048 * d + 64 * a + 2 * b + x)

/-- Immediate parcel `k` of a value (R66). -/
def par (v k : Nat) : Parcel := BitVec.ofNat 16 (v / 65536 ^ k)

/-- The wait parcel of engine fields (R66). -/
def Eng.wpar (e : Eng) : Parcel := par (e.wt.toNat + 256 * e.wi.toNat) 0

/-- The signal parcel of engine fields (R66). -/
def Eng.spar (e : Eng) : Parcel := par (e.sn.toNat + 256 * e.sj.toNat) 0

/-- The sync parcels of a +s format (R69). -/
def syncParcels : Option Eng → List Parcel
  | none => []
  | some e => [e.wpar, e.spar]

/-- The register parcel of `gop` (Table 5.9). -/
def gopParcel (op : GopOp) (gd : Fin 8) (na : Bool) (ga : Fin 8) (nb : Bool) (gb : Fin 8) : Parcel :=
  par (2 * gb.val + 32 * nb.toNat + 64 * ga.val + 1024 * na.toNat + 2048 * gd.val + 16384 * op.code) 0

/-- A head (R60): MAJ, GI, GN, TL, MIN. -/
def headWord (maj min tl : Nat) (g : Guard) : Parcel :=
  BitVec.ofNat 16 (512 * maj + 64 * g.gi.val + 32 * g.gn.toNat + 4 * tl + min)

/-- A head followed by its tail parcels in tail order; TL is their number. -/
def words (maj min : Nat) (g : Guard) (t : List Parcel) : List Parcel := headWord maj min t.length g :: t

/-- MAJ of a head (R60). -/
def headMaj (h : Parcel) : Nat := h.toNat / 512

/-- MIN of a head (R60). -/
def headMin (h : Parcel) : Nat := h.toNat % 4

/-- TL of a head (R60). -/
def headTl (h : Parcel) : Nat := h.toNat / 4 % 8

/-- GI and GN of a head (R60). -/
def headGuard (h : Parcel) : Guard := ⟨fF h.toNat 6, fB h.toNat 5⟩


/-! ## The encoder -/

/-- The head and the tail parcels, in tail order, of an instruction (Tables 3.6, 4.8, 5.6, 5.9, 6.6, 7.4, 8.9, 9.6,
10.8, 11.6, 12.6, 13.12, 14.10, 16.11). An event has no encoding. -/
def encode : Instr → List Parcel
  | .hret g => words 1 0 g []
  | .hpost g a b ch dec => words 1 1 g [(rparcel 0 a.val b.val 0), (par (dec.toNat + 1024 * ch.toNat) 0)]
  | .harm g d a b keep ch => words 1 2 g [(rparcel d.val a.val b.val 0), (par (ch.toNat + 64 * keep.toNat) 0)]
  | .hen g d a usech ch => words 1 3 g [(rparcel d.val a.val 0 0), (par (ch.toNat + 64 * usech.toNat) 0)]
  | .hdis g d a usech ch => words 2 0 g [(rparcel d.val a.val 0 0), (par (ch.toNat + 64 * usech.toNat) 0)]
  | .hpclr g d a usech ch => words 2 1 g [(rparcel d.val a.val 0 0), (par (ch.toNat + 64 * usech.toNat) 0)]
  | .hprio g d p ch => words 2 2 g [(rparcel d.val 0 0 0), (par (ch.toNat + 64 * p.toNat) 0)]
  | .tsread g d => words 2 3 g [(rparcel d.val 0 0 0)]
  | .dsync g d mask => words 3 0 g [(rparcel d.val 0 0 0), (par (mask.toNat) 0)]
  | .falign g => words 3 1 g []
  | .rtake g d b obj => words 3 2 g [(rparcel d.val 0 b.val 0), (par (obj.toNat) 0)]
  | .lnch g d a b => words 3 3 g [(rparcel d.val a.val b.val 0)]
  | .add g d a b => words 4 0 g [(rparcel d.val a.val b.val 0)]
  | .sub g d a b => words 4 1 g [(rparcel d.val a.val b.val 0)]
  | .and g d a b => words 4 2 g [(rparcel d.val a.val b.val 0)]
  | .or g d a b => words 4 3 g [(rparcel d.val a.val b.val 0)]
  | .xor g d a b => words 5 0 g [(rparcel d.val a.val b.val 0)]
  | .andn g d a b => words 5 1 g [(rparcel d.val a.val b.val 0)]
  | .orn g d a b => words 5 2 g [(rparcel d.val a.val b.val 0)]
  | .mul g d a b => words 6 0 g [(rparcel d.val a.val b.val 0)]
  | .mulh g d a b => words 6 1 g [(rparcel d.val a.val b.val 0)]
  | .mulhn g d a b => words 6 2 g [(rparcel d.val a.val b.val 0)]
  | .sel g d a b => words 6 3 g [(rparcel d.val a.val b.val 0)]
  | .div g d a b => words 7 0 g [(rparcel d.val a.val b.val 0)]
  | .divn g d a b => words 7 1 g [(rparcel d.val a.val b.val 0)]
  | .rem g d a b => words 7 2 g [(rparcel d.val a.val b.val 0)]
  | .remn g d a b => words 7 3 g [(rparcel d.val a.val b.val 0)]
  | .shl g d a b => words 8 0 g [(rparcel d.val a.val b.val 0)]
  | .shr g d a b => words 8 1 g [(rparcel d.val a.val b.val 0)]
  | .sar g d a b => words 8 2 g [(rparcel d.val a.val b.val 0)]
  | .rotl g d a b => words 8 3 g [(rparcel d.val a.val b.val 0)]
  | .min g d a b => words 9 0 g [(rparcel d.val a.val b.val 0)]
  | .max g d a b => words 9 1 g [(rparcel d.val a.val b.val 0)]
  | .minn g d a b => words 9 2 g [(rparcel d.val a.val b.val 0)]
  | .maxn g d a b => words 9 3 g [(rparcel d.val a.val b.val 0)]
  | .mov g d a => words 5 3 g [(rparcel d.val a.val 0 0)]
  | .addi g d a imm => words 10 0 g [(rparcel d.val a.val 0 0), (par (imm.toNat) 0)]
  | .shli g d a n => words 10 1 g [(rparcel d.val a.val 0 0), (par (n.toNat) 0)]
  | .shri g d a n => words 10 2 g [(rparcel d.val a.val 0 0), (par (n.toNat) 0)]
  | .sari g d a n => words 10 3 g [(rparcel d.val a.val 0 0), (par (n.toNat) 0)]
  | .addpc g d t => words 11 0 g [(rparcel d.val 0 0 0), (par (t.toNat) 0), (par (t.toNat) 1)]
  | .lui g d imm => words 11 1 g [(rparcel d.val 0 0 0), (par (imm.toNat) 0)]
  | .lim g d v => words 11 2 g [(rparcel d.val 0 0 0), (par (v.toNat) 0), (par (v.toNat) 1), (par (v.toNat) 2), (par (v.toNat) 3)]
  | .cmpi g j a unsig imm => words 11 3 g [(rparcel j.val a.val 0 unsig.toNat), (par (imm.toNat) 0)]
  | .clz g d a => words 12 0 g [(rparcel d.val a.val 0 0)]
  | .ctz g d a => words 12 1 g [(rparcel d.val a.val 0 0)]
  | .popc g d a => words 12 2 g [(rparcel d.val a.val 0 0)]
  | .bswap g d a => words 12 3 g [(rparcel d.val a.val 0 0)]
  | .ext g d a w1 p => words 13 0 g [(rparcel d.val a.val 0 0), (par (p.toNat + 64 * w1.toNat) 0)]
  | .extn g d a w1 p => words 13 1 g [(rparcel d.val a.val 0 0), (par (p.toNat + 64 * w1.toNat) 0)]
  | .ins g d a w1 p => words 13 2 g [(rparcel d.val a.val 0 0), (par (p.toNat + 64 * w1.toNat) 0)]
  | .sext g d a n1 => words 13 3 g [(rparcel d.val a.val 0 0), (par (n1.toNat) 0)]
  | .zext g d a n1 => words 14 0 g [(rparcel d.val a.val 0 0), (par (n1.toNat) 0)]
  | .cmp g j a b unsig => words 14 1 g [(rparcel j.val a.val b.val unsig.toNat)]
  | .gop g op gd na ga nb gb => words 14 2 g [(gopParcel op gd na ga nb gb)]
  | .nop g => words 14 3 g []
  | .br g t => words 15 0 g [(par (t.toNat) 0), (par (t.toNat) 1)]
  | .jl g t => words 15 1 g [(par (t.toNat) 0), (par (t.toNat) 1)]
  | .jlr g d a => words 15 2 g [(rparcel d.val a.val 0 0)]
  | .trap g code => words 15 3 g [(par (code.toNat) 0)]
  | .lpset g count u => words 16 0 g [(par (count.toNat + 65536 * u.toNat) 0), (par (count.toNat + 65536 * u.toNat) 1)]
  | .lpsetr g a u => words 16 1 g [(rparcel 0 a.val 0 0), (par (u.toNat) 0)]
  | .lpbrk g => words 16 2 g []
  | .eret g => words 16 3 g []
  | .csrr g d csr => words 17 0 g [(rparcel d.val 0 0 0), (par (csr.toNat) 0)]
  | .csrw g d a csr => words 17 1 g [(rparcel d.val a.val 0 0), (par (csr.toNat) 0)]
  | .csrs g d a csr => words 17 2 g [(rparcel d.val a.val 0 0), (par (csr.toNat) 0)]
  | .csrc g d a csr => words 17 3 g [(rparcel d.val a.val 0 0), (par (csr.toNat) 0)]
  | .ld g z d a imm sync => words 18 z.code g ([(rparcel d.val a.val 0 sync.isSome.toNat), (par (imm.toNat) 0)] ++ syncParcels sync)
  | .ldn g z d a imm sync => words 19 z.code g ([(rparcel d.val a.val 0 sync.isSome.toNat), (par (imm.toNat) 0)] ++ syncParcels sync)
  | .st g z d a imm sync => words 20 z.code g ([(rparcel d.val a.val 0 sync.isSome.toNat), (par (imm.toNat) 0)] ++ syncParcels sync)
  | .ldx g z d a b => words 21 z.code g [(rparcel d.val a.val b.val 0)]
  | .stx g z d a b => words 22 z.code g [(rparcel d.val a.val b.val 0)]
  | .ldxSync g z d a b eng => words 21 z.code g [(rparcel d.val a.val b.val 1), eng.wpar, eng.spar]
  | .stxSync g z d a b eng => words 22 z.code g [(rparcel d.val a.val b.val 1), eng.wpar, eng.spar]
  | .amo g dbl d a b op ord scope => words 23 dbl.toNat g [(rparcel d.val a.val b.val 0), (par (op.code + 16 * ord.code + 64 * scope.code) 0)]
  | .amocas g dbl d a b ar => words 23 (2 + dbl.toNat) g [(rparcel d.val a.val b.val ar.toNat)]
  | .ldfe g d a b imm => words 24 0 g [(rparcel d.val a.val b.val 0), (par (imm.toNat) 0)]
  | .stfe g d a b imm => words 24 1 g [(rparcel d.val a.val b.val 0), (par (imm.toNat) 0)]
  | .ldff g d a b imm => words 24 2 g [(rparcel d.val a.val b.val 0), (par (imm.toNat) 0)]
  | .ldre g d a b imm => words 24 3 g [(rparcel d.val a.val b.val 0), (par (imm.toNat) 0)]
  | .stsf g d a b imm => words 25 0 g [(rparcel d.val a.val b.val 0), (par (imm.toNat) 0)]
  | .mon g a => words 25 1 g [(rparcel 0 a.val 0 0)]
  | .mwait g d a => words 25 2 g [(rparcel d.val a.val 0 0)]
  | .fence g scope kind => words 25 3 g [(par (scope.code + 8 * kind.code) 0)]
  | .spal g d a bank fe side => words 26 0 g [(rparcel d.val a.val 0 0), (par (bank.toNat + 8 * fe.toNat + 32 * side.toNat) 0)]
  | .spfr g d a => words 26 1 g [(rparcel d.val a.val 0 0)]
  | .fecl g a b full => words 26 2 g [(rparcel 0 a.val b.val full.toNat)]
  | .vclaim g d a wait min => words 27 0 g [(rparcel d.val a.val 0 0), (par (min.toNat + 512 * wait.toNat) 0)]
  | .vrel g => words 27 1 g []
  | .vreneg g d a want => words 27 2 g [(rparcel d.val a.val 0 0), (par (want.toNat) 0)]
  | .sfn g d a fn fmt rm => words 27 3 g [(rparcel d.val a.val 0 0), (par (fn.code + 16 * fmt.code + 64 * rm.code) 0)]
  | .vld g z d a off sync => words 28 0 g ([(rparcel d.val a.val 0 sync.isSome.toNat), (par (off.toNat + 16384 * z.code) 0)] ++ syncParcels sync)
  | .vst g z d a off sync => words 28 1 g ([(rparcel d.val a.val 0 sync.isSome.toNat), (par (off.toNat + 16384 * z.code) 0)] ++ syncParcels sync)
  | .vlds g z d a b off sync => words 28 2 g ([(rparcel d.val a.val b.val sync.isSome.toNat), (par (off.toNat + 16384 * z.code) 0)] ++ syncParcels sync)
  | .vsts g z d a b off sync => words 28 3 g ([(rparcel d.val a.val b.val sync.isSome.toNat), (par (off.toNat + 16384 * z.code) 0)] ++ syncParcels sync)
  | .vadd g ty rm d a b sat => words 29 0 g [(rparcel d.val a.val b.val 0), (par (sat.toNat + 1024 * rm.code + 4096 * ty.code) 0)]
  | .vsub g ty rm d a b sat => words 29 1 g [(rparcel d.val a.val b.val 0), (par (sat.toNat + 1024 * rm.code + 4096 * ty.code) 0)]
  | .vmul g ty rm d a b sat => words 29 2 g [(rparcel d.val a.val b.val 0), (par (sat.toNat + 1024 * rm.code + 4096 * ty.code) 0)]
  | .vfma g ty rm d a b c sat => words 29 3 g [(rparcel d.val a.val b.val 0), (par (c.val + 32 * sat.toNat + 1024 * rm.code + 4096 * ty.code) 0)]
  | .vfms g ty rm d a b c sat => words 30 0 g [(rparcel d.val a.val b.val 0), (par (c.val + 32 * sat.toNat + 1024 * rm.code + 4096 * ty.code) 0)]
  | .vmin g ty d a b => words 30 1 g [(rparcel d.val a.val b.val 0), (par (4096 * ty.code) 0)]
  | .vmax g ty d a b => words 30 2 g [(rparcel d.val a.val b.val 0), (par (4096 * ty.code) 0)]
  | .vabs g ty d a sat => words 30 3 g [(rparcel d.val a.val 0 0), (par (sat.toNat + 4096 * ty.code) 0)]
  | .vchs g ty d a sat => words 31 0 g [(rparcel d.val a.val 0 0), (par (sat.toNat + 4096 * ty.code) 0)]
  | .vand g ty d a b => words 31 1 g [(rparcel d.val a.val b.val 0), (par (4096 * ty.code) 0)]
  | .vor g ty d a b => words 31 2 g [(rparcel d.val a.val b.val 0), (par (4096 * ty.code) 0)]
  | .vxor g ty d a b => words 31 3 g [(rparcel d.val a.val b.val 0), (par (4096 * ty.code) 0)]
  | .vshl g ty d a b imm n => words 32 0 g [(rparcel d.val a.val b.val 0), (par (n.toNat + 32 * imm.toNat + 4096 * ty.code) 0)]
  | .vshr g ty d a b imm n => words 32 1 g [(rparcel d.val a.val b.val 0), (par (n.toNat + 32 * imm.toNat + 4096 * ty.code) 0)]
  | .vsar g ty d a b imm n => words 32 2 g [(rparcel d.val a.val b.val 0), (par (n.toNat + 32 * imm.toNat + 4096 * ty.code) 0)]
  | .vcmp g ty j a b cmb => words 32 3 g [(rparcel j.val a.val b.val 0), (par (256 * cmb.code + 4096 * ty.code) 0)]
  | .vsel g ty d a b m => words 33 0 g [(rparcel d.val a.val b.val 0), (par (m.val + 4096 * ty.code) 0)]
  | .vcvt g ty rm d a irm src => words 33 1 g [(rparcel d.val a.val 0 0), (par (src.code + 16 * irm.code + 1024 * rm.code + 4096 * ty.code) 0)]
  | .vmxq g ty d a => words 33 2 g [(rparcel d.val a.val 0 0), (par (4096 * ty.code) 0)]
  | .vmxd g ty rm d a => words 33 3 g [(rparcel d.val a.val 0 0), (par (1024 * rm.code + 4096 * ty.code) 0)]
  | .vtern g ty d a b det => words 34 0 g [(rparcel d.val a.val b.val 0), (par (det.toNat + 4096 * ty.code) 0)]
  | .vred g ty rm d a red => words 34 1 g [(rparcel d.val a.val 0 0), (par (red.code + 1024 * rm.code + 4096 * ty.code) 0)]
  | .vsplat g ty d a => words 34 2 g [(rparcel d.val a.val 0 0), (par (4096 * ty.code) 0)]
  | .vext g ty d a b => words 34 3 g [(rparcel d.val a.val b.val 0), (par (4096 * ty.code) 0)]
  | .vins g ty d a b => words 35 0 g [(rparcel d.val a.val b.val 0), (par (4096 * ty.code) 0)]
  | .vmov g ty d a form => words 35 1 g [(rparcel d.val a.val 0 0), (par (form.toNat + 4096 * ty.code) 0)]
  | .vclamp g ty d a b c => words 35 2 g [(rparcel d.val a.val b.val 0), (par (c.val + 4096 * ty.code) 0)]
  | .mlw g a l actv eng => words 36 0 g [(rparcel 0 a.val 0 0), (par (l.toNat + 2 * actv.toNat) 0), eng.wpar, eng.spar]
  | .mrun g d a b row eng => words 36 1 g [(rparcel d.val a.val b.val 0), (par (row.nrow.toNat + 16 * row.frow.toNat + 256 * row.bank.toNat + 512 * row.acc.toNat + 1024 * row.tr.toNat + 2048 * row.sq.toNat) 0), eng.wpar, eng.spar]
  | .mrunq g d a row fwd eng => words 36 2 g [(rparcel d.val a.val 0 0), (par (row.nrow.toNat + 16 * row.frow.toNat + 256 * row.bank.toNat + 512 * row.acc.toNat + 1024 * row.tr.toNat + 2048 * row.sq.toNat + 16384 * fwd.toNat) 0), eng.wpar, eng.spar]
  | .mdrain g d a nrow frow bank dst eng => words 36 3 g [(rparcel d.val a.val 0 0), (par (nrow.toNat + 16 * frow.toNat + 256 * bank.toNat + 512 * dst.toNat) 0), eng.wpar, eng.spar]
  | .mdrs g d a nrow frow bank dst eng => words 37 0 g [(rparcel d.val a.val 0 0), (par (nrow.toNat + 16 * frow.toNat + 256 * bank.toNat + 512 * dst.toNat) 0), eng.wpar, eng.spar]
  | .mclr g banks eng => words 37 1 g [(par (banks.toNat) 0), eng.wpar, eng.spar]
  | .mswap g l set eng => words 37 2 g [(par (l.toNat + 2 * set.toNat) 0), eng.wpar, eng.spar]
  | .mpass g d a nrow esz plane eng => words 37 3 g [(rparcel d.val a.val 0 0), (par (nrow.toNat + 16 * esz.toNat + 64 * plane.toNat) 0), eng.wpar, eng.spar]
  | .mcfg g a mode clrf user base => words 38 0 g [(rparcel 0 a.val 0 0), (par (mode.toNat + 16 * clrf.toNat + 32 * user.toNat + 64 * base.toNat) 0)]
  | .msave g a what eng => words 38 1 g [(rparcel 0 a.val 0 0), (par (what.toNat) 0), eng.wpar, eng.spar]
  | .mrest g a what eng => words 38 2 g [(rparcel 0 a.val 0 0), (par (what.toNat) 0), eng.wpar, eng.spar]
  | .swt g i t => words 39 0 g [(par (t.toNat + 256 * i.toNat) 0)]
  | .ssig g j n => words 39 1 g [(par (n.toNat + 256 * j.toNat) 0)]
  | .sset g d a idx => words 39 2 g [(rparcel d.val a.val 0 0), (par (idx.toNat) 0)]
  | .srd g d idx => words 39 3 g [(rparcel d.val 0 0 0), (par (idx.toNat) 0)]
  | .qctl g q a => words 40 0 g [(rparcel q.val a.val 0 0)]
  | .qstat g d q => words 40 1 g [(rparcel d.val q.val 0 0)]
  | .qdir g d q dir tport => words 40 2 g [(rparcel d.val q.val 0 0), (par (dir.toNat + 8 * tport.toNat) 0)]
  | .qflush g mask => words 40 3 g [(par (mask.toNat) 0)]
  | .rbinit g a b nslot1 slotsz1 => words 41 0 g [(rparcel 0 a.val b.val 0), (par (nslot1.toNat + 256 * slotsz1.toNat) 0)]
  | .rbacq g d a n try_ => words 41 1 g [(rparcel d.val a.val 0 0), (par (n.toNat + 512 * try_.toNat) 0)]
  | .rbpub g a b n => words 41 2 g [(rparcel 0 a.val b.val 0), (par (n.toNat) 0)]
  | .rbtake g d a n try_ => words 41 3 g [(rparcel d.val a.val 0 0), (par (n.toNat + 512 * try_.toNat) 0)]
  | .rbrel g a b n => words 42 0 g [(rparcel 0 a.val b.val 0), (par (n.toNat) 0)]
  | .stacq g d a role try_ => words 42 1 g [(rparcel d.val a.val 0 0), (par (role.toNat + 8 * try_.toNat) 0)]
  | .strel g a b role => words 42 2 g [(rparcel 0 a.val b.val 0), (par (role.toNat) 0)]
  | .sopen g f a b off => words 43 0 g [(rparcel f.val a.val b.val 0), (par (off.toNat) 0)]
  | .snext g d f => words 43 1 g [(rparcel d.val f.val 0 0)]
  | .sisect g d fa fb => words 43 2 g [(rparcel d.val fa.val fb.val 0)]
  | .sunion g d fa fb => words 43 3 g [(rparcel d.val fa.val fb.val 0)]
  | .sskip g d f b => words 44 0 g [(rparcel d.val f.val b.val 0)]
  | .scrd g d f b => words 44 1 g [(rparcel d.val f.val b.val 0)]
  | .sval g d f sgn => words 44 2 g [(rparcel d.val f.val 0 0), (par (sgn.toNat) 0)]
  | .sdone g gd f => words 44 3 g [(rparcel gd.val f.val 0 0)]
  | .ssave g f a => words 45 0 g [(rparcel f.val a.val 0 0)]
  | .srest g f a => words 45 1 g [(rparcel f.val a.val 0 0)]
  | .sclose g f => words 45 2 g [(rparcel f.val 0 0 0)]
  | .cwb g a b => words 46 0 g [(rparcel 0 a.val b.val 0)]
  | .cinv g a b => words 46 1 g [(rparcel 0 a.val b.val 0)]
  | .cwbi g a b => words 46 2 g [(rparcel 0 a.val b.val 0)]
  | .iinv g a b => words 46 3 g [(rparcel 0 a.val b.val 0)]
  | .ibar g => words 47 0 g []
  | .l2pf g a n1 cdc => words 47 1 g [(rparcel 0 a.val 0 0), (par (n1.toNat + 256 * cdc.toNat) 0)]
  | .l2zero g a => words 47 2 g [(rparcel 0 a.val 0 0)]
  | .gbind g d a b esz iw isgn bytes cnt => words 48 0 g [(rparcel d.val a.val b.val 0), (par (esz.toNat + 8 * iw.toNat + 32 * isgn.toNat + 64 * bytes.toNat + 256 * cnt.toNat) 0), (par (esz.toNat + 8 * iw.toNat + 32 * isgn.toNat + 64 * bytes.toNat + 256 * cnt.toNat) 1)]
  | .gunb g d a => words 48 1 g [(rparcel d.val a.val 0 0)]
  | .gstat g d a => words 48 2 g [(rparcel d.val a.val 0 0)]
  | .tlbinv g a b all => words 48 3 g [(rparcel 0 a.val b.val all.toNat)]
  | .cpush g d a b place opt glb ring eng => words 49 0 g [(rparcel d.val a.val b.val 0), place, (par (opt.conv.toNat + 16 * glb.toNat + 32 * opt.snap.toNat + 64 * opt.tb.toNat + 128 * opt.arr.toNat + 256 * ring.toNat + 512 * opt.note.toNat) 0), eng.wpar, eng.spar]
  | .cslab g d a b g1 g2 place opt unit eng => words 49 1 g [(rparcel d.val a.val b.val 0), (rparcel g1.val g2.val 0 0), place, (par (opt.conv.toNat + 32 * opt.snap.toNat + 64 * opt.tb.toNat + 128 * opt.arr.toNat + 256 * unit.toNat + 512 * opt.note.toNat) 0), eng.wpar, eng.spar]
  | .cmcast g d a b place opt unit eng => words 49 2 g [(rparcel d.val a.val b.val 0), place, (par (opt.conv.toNat + 32 * opt.snap.toNat + 64 * opt.tb.toNat + 128 * opt.arr.toNat + 256 * unit.toNat + 512 * opt.note.toNat) 0), eng.wpar, eng.spar]
  | .cthr g d a b gr pr seed tb arr note stoch eng => words 49 3 g [(rparcel d.val a.val b.val 0), (rparcel gr.val pr.val seed.val 0), (par (64 * tb.toNat + 128 * arr.toNat + 512 * note.toNat + 2048 * stoch.toNat) 0), eng.wpar, eng.spar]
  | .cconv g d a b conv tslot note eng => words 50 0 g [(rparcel d.val a.val b.val 0), (par (conv.toNat + 16 * tslot.toNat + 256 * note.toNat) 0), eng.wpar, eng.spar]
  | .ctab g d a tslot tfmt => words 50 1 g [(rparcel d.val a.val 0 0), (par (tslot.toNat + 16 * tfmt.toNat) 0)]
  | .cfree g a place => words 50 2 g [(rparcel 0 a.val 0 0), place]
  | .tbinit g a n => words 50 3 g [(rparcel 0 a.val 0 0), (par (n.toNat) 0)]
  | .tbarr g d a => words 51 0 g [(rparcel d.val a.val 0 0)]
  | .tbexp g d a b arr => words 51 1 g [(rparcel d.val a.val b.val arr.toNat)]
  | .tbwait g d a b => words 51 2 g [(rparcel d.val a.val b.val 0)]
  | .tbtest g d a b => words 51 3 g [(rparcel d.val a.val b.val 0)]
  | .tbguard g d a b => words 52 0 g [(rparcel d.val a.val b.val 0)]
  | .msend g d a b place ch dec => words 53 0 g [(rparcel d.val a.val b.val 0), place, (par (dec.toNat + 1024 * ch.toNat) 0)]
  | .mrecv g d a b => words 53 1 g [(rparcel d.val a.val b.val 0)]
  | .mpeek g d a => words 53 2 g [(rparcel d.val a.val 0 0)]
  | .rst g z d a place ord => words 53 3 g [(rparcel d.val a.val 0 0), place, (par (z.code + 4 * ord.toNat) 0)]
  | .rld g z d a place zx => words 54 0 g [(rparcel d.val a.val 0 0), place, (par (z.code + 4 * zx.toNat) 0)]
  | .jread g d a b => words 54 1 g [(rparcel d.val a.val b.val 0)]
  | .jack g d a => words 54 2 g [(rparcel d.val a.val 0 0)]
  | .nfence g rst msg => words 54 3 g [(par (rst.toNat + 2 * msg.toNat) 0)]
  | .coll g d a b c e kind ty red rm => words 55 0 g [(rparcel d.val a.val b.val 0), (rparcel c.val e.val 0 0), (par (kind.code + 8 * ty.code + 128 * red.code + 512 * rm.code) 0)]
  | .brk g code => words 56 0 g [(par (code.toNat) 0)]
  | .fpstatAccess g op d a => words 17 op.code g [(rparcel d.val a.val 0 0), (par (1) 0)]
  | .lhstRet g op d a => words 17 op.code g [(rparcel d.val a.val 0 0), (par (0x105) 0)]
  | .enctabWrite g op d a => words 17 op.code g [(rparcel d.val a.val 0 0), (par (0x208) 0)]
  | .qportRead g d q => words 17 0 g [(rparcel d.val 0 0 0), (par (0x108+q.val) 0)]
  | .qportWrite g d a q => words 17 1 g [(rparcel d.val a.val 0 0), (par (0x108+q.val) 0)]
  | .dbgctlStat g d => words 56 1 g [(rparcel d.val 0 0 0), (par (0) 0)]
  | .dbgctlHalt g d => words 56 1 g [(rparcel d.val 0 0 0), (par (1) 0)]
  | .dbgctlRun g d => words 56 1 g [(rparcel d.val 0 0 0), (par (2) 0)]
  | .dbgctlKill g d a => words 56 1 g [(rparcel d.val a.val 0 0), (par (3) 0)]
  | .dbgctlSettle g d => words 56 1 g [(rparcel d.val 0 0 0), (par (4) 0)]
  | .rangeUnitService _ => []
  | .queueEntryLanding _ => []
  | .cspBlockZeroed _ => []
  | .vlpRequestService _ => []
  | .sfuReturn _ => []
  | .tmeOperationStart _ => []
  | .tmeOperationComplete _ _ => []
  | .iinvComplete _ => []
  | .tableWalk _ => []
  | .copyOperationStart _ => []
  | .copyChunkLanding _ _ _ => []
  | .copyOperationComplete _ _ => []
  | .collectiveStart _ => []
  | .collectiveContribution _ _ _ _ _ => []
  | .collectiveChunkTimeout _ _ _ => []
  | .collectiveComplete _ _ => []
  | .activationStart _ => []
  | .l2RequestService _ => []
  | .l2WriteReplay _ _ => []
  | .writeBackBufferDrain _ => []
  | .l2FillReturn _ _ => []
  | .hostCxlMemAccess _ _ _ => []
  | .encoderFrame _ _ => []
  | .encoderRdPoll _ _ => []
  | .timeSyncMessage _ => []
  | .fabricTraining _ => []
  | .recoveryImageI3c _ => []
  | .rcvlenWrite _ => []
  | .hctailWrite _ => []
  | .hcrsizeWrite _ => []
  | .hcrbaseWrite _ => []
  | .pcapWrite _ => []
  | .hostRegisterWrite _ _ _ => []
  | .powerSample _ _ => []
  | .unassignedOpcode _ => []
  | .backInvalidateSnoopResponse _ => []
  | .keyTransportKeyProvisioning _ => []
  | .cxlLinkTraining _ => []
  | .falignTimeout => []
  | .feRetryAttempt => []
  | .mwaitDeadline => []
  | .walkQueueRetry => []
  | .cfreeArrival => []
  | .messageArrival => []
  | .returnedMessage => []
  | .acknowledgementArrival => []
  | .remoteStoreArrival => []
  | .journalRefusal => []
  | .remoteLoadService => []
  | .remoteLoadReply => []
  | .driftCreditArrival => []
  | .remoteReplyTimeout => []
  | .fetchLine => []
  | .launchCheck => []
  | .launchStart => []
  | .launchEnd => []
  | .streamWaitEntry => []
  | .streamSignalEntry => []
  | .streamMapping => []
  | .inheritanceSearch => []
  | .contractJobRelease => []
  | .contractBudgetOverrun => []
  | .gangSwitchOut => []
  | .gangSwitchIn => []
  | .timeSyncLoss => []
  | .teardownStep => []
  | .moduleReset => []
  | .ctxnew => []
  | .strnew => []
  | .strrst => []
  | .append => []
  | .semset => []
  | .cancel => []
  | .teardown => []
  | .keyload => []
  | .attest => []
  | .fwupd => []
  | .attestCompletion => []
  | .fwupdCompletion => []

/-! ## The decoder -/

/-- The formats of Table 3.5 that the opcode map uses: the number of base tail parcels, and whether the format is
marked +s. -/
structure Format where
  base : Nat
  sync : Bool
  deriving DecidableEq, Repr

/-- The formats of one row of Table 3.6, by MIN; `none` is a cell marked —. -/
def formatRow : Nat → List (Option Format)
  | 1 => [some ⟨0, false⟩, some ⟨2, false⟩, some ⟨2, false⟩, some ⟨2, false⟩]
  | 2 => [some ⟨2, false⟩, some ⟨2, false⟩, some ⟨2, false⟩, some ⟨1, false⟩]
  | 3 => [some ⟨2, false⟩, some ⟨0, false⟩, some ⟨2, false⟩, some ⟨1, false⟩]
  | 4 => [some ⟨1, false⟩, some ⟨1, false⟩, some ⟨1, false⟩, some ⟨1, false⟩]
  | 5 => [some ⟨1, false⟩, some ⟨1, false⟩, some ⟨1, false⟩, some ⟨1, false⟩]
  | 6 => [some ⟨1, false⟩, some ⟨1, false⟩, some ⟨1, false⟩, some ⟨1, false⟩]
  | 7 => [some ⟨1, false⟩, some ⟨1, false⟩, some ⟨1, false⟩, some ⟨1, false⟩]
  | 8 => [some ⟨1, false⟩, some ⟨1, false⟩, some ⟨1, false⟩, some ⟨1, false⟩]
  | 9 => [some ⟨1, false⟩, some ⟨1, false⟩, some ⟨1, false⟩, some ⟨1, false⟩]
  | 10 => [some ⟨2, false⟩, some ⟨2, false⟩, some ⟨2, false⟩, some ⟨2, false⟩]
  | 11 => [some ⟨3, false⟩, some ⟨2, false⟩, some ⟨5, false⟩, some ⟨2, false⟩]
  | 12 => [some ⟨1, false⟩, some ⟨1, false⟩, some ⟨1, false⟩, some ⟨1, false⟩]
  | 13 => [some ⟨2, false⟩, some ⟨2, false⟩, some ⟨2, false⟩, some ⟨2, false⟩]
  | 14 => [some ⟨2, false⟩, some ⟨1, false⟩, some ⟨1, false⟩, some ⟨0, false⟩]
  | 15 => [some ⟨2, false⟩, some ⟨2, false⟩, some ⟨1, false⟩, some ⟨1, false⟩]
  | 16 => [some ⟨2, false⟩, some ⟨2, false⟩, some ⟨0, false⟩, some ⟨0, false⟩]
  | 17 => [some ⟨2, false⟩, some ⟨2, false⟩, some ⟨2, false⟩, some ⟨2, false⟩]
  | 18 => [some ⟨2, true⟩, some ⟨2, true⟩, some ⟨2, true⟩, some ⟨2, true⟩]
  | 19 => [some ⟨2, true⟩, some ⟨2, true⟩, some ⟨2, true⟩, some ⟨2, true⟩]
  | 20 => [some ⟨2, true⟩, some ⟨2, true⟩, some ⟨2, true⟩, some ⟨2, true⟩]
  | 21 => [some ⟨1, true⟩, some ⟨1, true⟩, some ⟨1, true⟩, some ⟨1, true⟩]
  | 22 => [some ⟨1, true⟩, some ⟨1, true⟩, some ⟨1, true⟩, some ⟨1, true⟩]
  | 23 => [some ⟨2, false⟩, some ⟨2, false⟩, some ⟨1, false⟩, some ⟨1, false⟩]
  | 24 => [some ⟨2, false⟩, some ⟨2, false⟩, some ⟨2, false⟩, some ⟨2, false⟩]
  | 25 => [some ⟨2, false⟩, some ⟨1, false⟩, some ⟨1, false⟩, some ⟨1, false⟩]
  | 26 => [some ⟨2, false⟩, some ⟨1, false⟩, some ⟨1, false⟩, none]
  | 27 => [some ⟨2, false⟩, some ⟨0, false⟩, some ⟨2, false⟩, some ⟨2, false⟩]
  | 28 => [some ⟨2, true⟩, some ⟨2, true⟩, some ⟨2, true⟩, some ⟨2, true⟩]
  | 29 => [some ⟨2, false⟩, some ⟨2, false⟩, some ⟨2, false⟩, some ⟨2, false⟩]
  | 30 => [some ⟨2, false⟩, some ⟨2, false⟩, some ⟨2, false⟩, some ⟨2, false⟩]
  | 31 => [some ⟨2, false⟩, some ⟨2, false⟩, some ⟨2, false⟩, some ⟨2, false⟩]
  | 32 => [some ⟨2, false⟩, some ⟨2, false⟩, some ⟨2, false⟩, some ⟨2, false⟩]
  | 33 => [some ⟨2, false⟩, some ⟨2, false⟩, some ⟨2, false⟩, some ⟨2, false⟩]
  | 34 => [some ⟨2, false⟩, some ⟨2, false⟩, some ⟨2, false⟩, some ⟨2, false⟩]
  | 35 => [some ⟨2, false⟩, some ⟨2, false⟩, some ⟨2, false⟩, none]
  | 36 => [some ⟨4, false⟩, some ⟨4, false⟩, some ⟨4, false⟩, some ⟨4, false⟩]
  | 37 => [some ⟨4, false⟩, some ⟨3, false⟩, some ⟨3, false⟩, some ⟨4, false⟩]
  | 38 => [some ⟨2, false⟩, some ⟨4, false⟩, some ⟨4, false⟩, none]
  | 39 => [some ⟨1, false⟩, some ⟨1, false⟩, some ⟨2, false⟩, some ⟨2, false⟩]
  | 40 => [some ⟨1, false⟩, some ⟨1, false⟩, some ⟨2, false⟩, some ⟨1, false⟩]
  | 41 => [some ⟨2, false⟩, some ⟨2, false⟩, some ⟨2, false⟩, some ⟨2, false⟩]
  | 42 => [some ⟨2, false⟩, some ⟨2, false⟩, some ⟨2, false⟩, none]
  | 43 => [some ⟨2, false⟩, some ⟨1, false⟩, some ⟨1, false⟩, some ⟨1, false⟩]
  | 44 => [some ⟨1, false⟩, some ⟨1, false⟩, some ⟨2, false⟩, some ⟨1, false⟩]
  | 45 => [some ⟨1, false⟩, some ⟨1, false⟩, some ⟨1, false⟩, none]
  | 46 => [some ⟨1, false⟩, some ⟨1, false⟩, some ⟨1, false⟩, some ⟨1, false⟩]
  | 47 => [some ⟨0, false⟩, some ⟨2, false⟩, some ⟨1, false⟩, none]
  | 48 => [some ⟨3, false⟩, some ⟨1, false⟩, some ⟨1, false⟩, some ⟨1, false⟩]
  | 49 => [some ⟨5, false⟩, some ⟨6, false⟩, some ⟨5, false⟩, some ⟨5, false⟩]
  | 50 => [some ⟨4, false⟩, some ⟨2, false⟩, some ⟨2, false⟩, some ⟨2, false⟩]
  | 51 => [some ⟨1, false⟩, some ⟨1, false⟩, some ⟨1, false⟩, some ⟨1, false⟩]
  | 52 => [some ⟨1, false⟩, none, none, none]
  | 53 => [some ⟨3, false⟩, some ⟨1, false⟩, some ⟨1, false⟩, some ⟨3, false⟩]
  | 54 => [some ⟨3, false⟩, some ⟨1, false⟩, some ⟨1, false⟩, some ⟨1, false⟩]
  | 55 => [some ⟨3, false⟩, none, none, none]
  | 56 => [some ⟨1, false⟩, some ⟨2, false⟩, none, none]
  | _ => []

/-- The format of (MAJ, MIN); `none` when it is unassigned or reserved (R72). -/
def formatOf (maj min : Nat) : Option Format := (formatRow maj).getD min none

/-- The instructions of MAJ 1 (Table 3.6), from MIN, the guard and the tail parcels. -/
def build1 (m : Nat) (g : Guard) (t : List Parcel) : Instr :=
  match m with
  | 0 => .hret g
  | 1 => .hpost g (pA (tk t 0)) (pB (tk t 0)) (fV 6 (tk t 1).toNat 10) (fV 10 (tk t 1).toNat 0)
  | 2 => .harm g (pD (tk t 0)) (pA (tk t 0)) (pB (tk t 0)) (fB (tk t 1).toNat 6) (fV 6 (tk t 1).toNat 0)
  | _ => .hen g (pD (tk t 0)) (pA (tk t 0)) (fB (tk t 1).toNat 6) (fV 6 (tk t 1).toNat 0)

/-- The instructions of MAJ 2 (Table 3.6), from MIN, the guard and the tail parcels. -/
def build2 (m : Nat) (g : Guard) (t : List Parcel) : Instr :=
  match m with
  | 0 => .hdis g (pD (tk t 0)) (pA (tk t 0)) (fB (tk t 1).toNat 6) (fV 6 (tk t 1).toNat 0)
  | 1 => .hpclr g (pD (tk t 0)) (pA (tk t 0)) (fB (tk t 1).toNat 6) (fV 6 (tk t 1).toNat 0)
  | 2 => .hprio g (pD (tk t 0)) (fV 3 (tk t 1).toNat 6) (fV 6 (tk t 1).toNat 0)
  | _ => .tsread g (pD (tk t 0))

/-- The instructions of MAJ 3 (Table 3.6), from MIN, the guard and the tail parcels. -/
def build3 (m : Nat) (g : Guard) (t : List Parcel) : Instr :=
  match m with
  | 0 => .dsync g (pD (tk t 0)) (fV 4 (tk t 1).toNat 0)
  | 1 => .falign g
  | 2 => .rtake g (pD (tk t 0)) (pB (tk t 0)) (fV 4 (tk t 1).toNat 0)
  | _ => .lnch g (pD (tk t 0)) (pA (tk t 0)) (pB (tk t 0))

/-- The instructions of MAJ 4 (Table 3.6), from MIN, the guard and the tail parcels. -/
def build4 (m : Nat) (g : Guard) (t : List Parcel) : Instr :=
  match m with
  | 0 => .add g (pD (tk t 0)) (pA (tk t 0)) (pB (tk t 0))
  | 1 => .sub g (pD (tk t 0)) (pA (tk t 0)) (pB (tk t 0))
  | 2 => .and g (pD (tk t 0)) (pA (tk t 0)) (pB (tk t 0))
  | _ => .or g (pD (tk t 0)) (pA (tk t 0)) (pB (tk t 0))

/-- The instructions of MAJ 5 (Table 3.6), from MIN, the guard and the tail parcels. -/
def build5 (m : Nat) (g : Guard) (t : List Parcel) : Instr :=
  match m with
  | 0 => .xor g (pD (tk t 0)) (pA (tk t 0)) (pB (tk t 0))
  | 1 => .andn g (pD (tk t 0)) (pA (tk t 0)) (pB (tk t 0))
  | 2 => .orn g (pD (tk t 0)) (pA (tk t 0)) (pB (tk t 0))
  | _ => .mov g (pD (tk t 0)) (pA (tk t 0))

/-- The instructions of MAJ 6 (Table 3.6), from MIN, the guard and the tail parcels. -/
def build6 (m : Nat) (g : Guard) (t : List Parcel) : Instr :=
  match m with
  | 0 => .mul g (pD (tk t 0)) (pA (tk t 0)) (pB (tk t 0))
  | 1 => .mulh g (pD (tk t 0)) (pA (tk t 0)) (pB (tk t 0))
  | 2 => .mulhn g (pD (tk t 0)) (pA (tk t 0)) (pB (tk t 0))
  | _ => .sel g (pD (tk t 0)) (pA (tk t 0)) (pB (tk t 0))

/-- The instructions of MAJ 7 (Table 3.6), from MIN, the guard and the tail parcels. -/
def build7 (m : Nat) (g : Guard) (t : List Parcel) : Instr :=
  match m with
  | 0 => .div g (pD (tk t 0)) (pA (tk t 0)) (pB (tk t 0))
  | 1 => .divn g (pD (tk t 0)) (pA (tk t 0)) (pB (tk t 0))
  | 2 => .rem g (pD (tk t 0)) (pA (tk t 0)) (pB (tk t 0))
  | _ => .remn g (pD (tk t 0)) (pA (tk t 0)) (pB (tk t 0))

/-- The instructions of MAJ 8 (Table 3.6), from MIN, the guard and the tail parcels. -/
def build8 (m : Nat) (g : Guard) (t : List Parcel) : Instr :=
  match m with
  | 0 => .shl g (pD (tk t 0)) (pA (tk t 0)) (pB (tk t 0))
  | 1 => .shr g (pD (tk t 0)) (pA (tk t 0)) (pB (tk t 0))
  | 2 => .sar g (pD (tk t 0)) (pA (tk t 0)) (pB (tk t 0))
  | _ => .rotl g (pD (tk t 0)) (pA (tk t 0)) (pB (tk t 0))

/-- The instructions of MAJ 9 (Table 3.6), from MIN, the guard and the tail parcels. -/
def build9 (m : Nat) (g : Guard) (t : List Parcel) : Instr :=
  match m with
  | 0 => .min g (pD (tk t 0)) (pA (tk t 0)) (pB (tk t 0))
  | 1 => .max g (pD (tk t 0)) (pA (tk t 0)) (pB (tk t 0))
  | 2 => .minn g (pD (tk t 0)) (pA (tk t 0)) (pB (tk t 0))
  | _ => .maxn g (pD (tk t 0)) (pA (tk t 0)) (pB (tk t 0))

/-- The instructions of MAJ 10 (Table 3.6), from MIN, the guard and the tail parcels. -/
def build10 (m : Nat) (g : Guard) (t : List Parcel) : Instr :=
  match m with
  | 0 => .addi g (pD (tk t 0)) (pA (tk t 0)) (fV 16 (tk t 1).toNat 0)
  | 1 => .shli g (pD (tk t 0)) (pA (tk t 0)) (fV 6 (tk t 1).toNat 0)
  | 2 => .shri g (pD (tk t 0)) (pA (tk t 0)) (fV 6 (tk t 1).toNat 0)
  | _ => .sari g (pD (tk t 0)) (pA (tk t 0)) (fV 6 (tk t 1).toNat 0)

/-- The instructions of MAJ 11 (Table 3.6), from MIN, the guard and the tail parcels. -/
def build11 (m : Nat) (g : Guard) (t : List Parcel) : Instr :=
  match m with
  | 0 => .addpc g (pD (tk t 0)) (fV 32 (imm2 (tk t 1) (tk t 2)) 0)
  | 1 => .lui g (pD (tk t 0)) (fV 16 (tk t 1).toNat 0)
  | 2 => .lim g (pD (tk t 0)) (fV 64 (imm4 (tk t 1) (tk t 2) (tk t 3) (tk t 4)) 0)
  | _ => .cmpi g (Fin.ofNat 4 (pD (tk t 0)).val) (pA (tk t 0)) (pX (tk t 0)) (fV 16 (tk t 1).toNat 0)

/-- The instructions of MAJ 12 (Table 3.6), from MIN, the guard and the tail parcels. -/
def build12 (m : Nat) (g : Guard) (t : List Parcel) : Instr :=
  match m with
  | 0 => .clz g (pD (tk t 0)) (pA (tk t 0))
  | 1 => .ctz g (pD (tk t 0)) (pA (tk t 0))
  | 2 => .popc g (pD (tk t 0)) (pA (tk t 0))
  | _ => .bswap g (pD (tk t 0)) (pA (tk t 0))

/-- The instructions of MAJ 13 (Table 3.6), from MIN, the guard and the tail parcels. -/
def build13 (m : Nat) (g : Guard) (t : List Parcel) : Instr :=
  match m with
  | 0 => .ext g (pD (tk t 0)) (pA (tk t 0)) (fV 6 (tk t 1).toNat 6) (fV 6 (tk t 1).toNat 0)
  | 1 => .extn g (pD (tk t 0)) (pA (tk t 0)) (fV 6 (tk t 1).toNat 6) (fV 6 (tk t 1).toNat 0)
  | 2 => .ins g (pD (tk t 0)) (pA (tk t 0)) (fV 6 (tk t 1).toNat 6) (fV 6 (tk t 1).toNat 0)
  | _ => .sext g (pD (tk t 0)) (pA (tk t 0)) (fV 6 (tk t 1).toNat 0)

/-- The instructions of MAJ 14 (Table 3.6), from MIN, the guard and the tail parcels. -/
def build14 (m : Nat) (g : Guard) (t : List Parcel) : Instr :=
  match m with
  | 0 => .zext g (pD (tk t 0)) (pA (tk t 0)) (fV 6 (tk t 1).toNat 0)
  | 1 => .cmp g (Fin.ofNat 4 (pD (tk t 0)).val) (pA (tk t 0)) (pB (tk t 0)) (pX (tk t 0))
  | 2 => .gop g (GopOp.ofCode (fN 2 (tk t 0).toNat 14)) (fF (tk t 0).toNat 11) (fB (tk t 0).toNat 10) (fF (tk t 0).toNat 6) (fB (tk t 0).toNat 5) (fF (tk t 0).toNat 1)
  | _ => .nop g

/-- The instructions of MAJ 15 (Table 3.6), from MIN, the guard and the tail parcels. -/
def build15 (m : Nat) (g : Guard) (t : List Parcel) : Instr :=
  match m with
  | 0 => .br g (fV 32 (imm2 (tk t 0) (tk t 1)) 0)
  | 1 => .jl g (fV 32 (imm2 (tk t 0) (tk t 1)) 0)
  | 2 => .jlr g (pD (tk t 0)) (pA (tk t 0))
  | _ => .trap g (fV 16 (tk t 0).toNat 0)

/-- The instructions of MAJ 16 (Table 3.6), from MIN, the guard and the tail parcels. -/
def build16 (m : Nat) (g : Guard) (t : List Parcel) : Instr :=
  match m with
  | 0 => .lpset g (fV 16 (imm2 (tk t 0) (tk t 1)) 0) (fV 16 (imm2 (tk t 0) (tk t 1)) 16)
  | 1 => .lpsetr g (pA (tk t 0)) (fV 16 (tk t 1).toNat 0)
  | 2 => .lpbrk g
  | _ => .eret g

/-- The instructions of MAJ 17 (Table 3.6), from MIN, the guard and the tail parcels. -/
def build17 (m : Nat) (g : Guard) (t : List Parcel) : Instr :=
  let c := (tk t 1).toNat
  if c = 0x001 then .fpstatAccess g (CsrOp.ofCode m) (pD (tk t 0)) (pA (tk t 0))
  else if c = 0x105 ∧ m ≠ 0 then .lhstRet g (CsrOp.ofCode m) (pD (tk t 0)) (pA (tk t 0))
  else if c = 0x208 ∧ m ≠ 0 then .enctabWrite g (CsrOp.ofCode m) (pD (tk t 0)) (pA (tk t 0))
  else if c / 4 = 0x42 ∧ m = 0 then .qportRead g (pD (tk t 0)) (Fin.ofNat 4 c)
  else if c / 4 = 0x42 ∧ m = 1 then .qportWrite g (pD (tk t 0)) (pA (tk t 0)) (Fin.ofNat 4 c)
  else match m with
    | 0 => .csrr g (pD (tk t 0)) (fV 12 c 0)
    | 1 => .csrw g (pD (tk t 0)) (pA (tk t 0)) (fV 12 c 0)
    | 2 => .csrs g (pD (tk t 0)) (pA (tk t 0)) (fV 12 c 0)
    | _ => .csrc g (pD (tk t 0)) (pA (tk t 0)) (fV 12 c 0)

/-- The instructions of MAJ 18 (Table 3.6), from MIN, the guard and the tail parcels. -/
def build18 (m : Nat) (g : Guard) (t : List Parcel) : Instr :=
  .ld g (Size.ofCode m) (pD (tk t 0)) (pA (tk t 0)) (fV 16 (tk t 1).toNat 0) (syncOf t 2)

/-- The instructions of MAJ 19 (Table 3.6), from MIN, the guard and the tail parcels. -/
def build19 (m : Nat) (g : Guard) (t : List Parcel) : Instr :=
  .ldn g (Size.ofCode m) (pD (tk t 0)) (pA (tk t 0)) (fV 16 (tk t 1).toNat 0) (syncOf t 2)

/-- The instructions of MAJ 20 (Table 3.6), from MIN, the guard and the tail parcels. -/
def build20 (m : Nat) (g : Guard) (t : List Parcel) : Instr :=
  .st g (Size.ofCode m) (pD (tk t 0)) (pA (tk t 0)) (fV 16 (tk t 1).toNat 0) (syncOf t 2)

/-- The instructions of MAJ 21 (Table 3.6), from MIN, the guard and the tail parcels. -/
def build21 (m : Nat) (g : Guard) (t : List Parcel) : Instr :=
  if pX (tk t 0) then .ldxSync g (Size.ofCode m) (pD (tk t 0)) (pA (tk t 0)) (pB (tk t 0)) (engOf (tk t 1) (tk t 2))
  else .ldx g (Size.ofCode m) (pD (tk t 0)) (pA (tk t 0)) (pB (tk t 0))

/-- The instructions of MAJ 22 (Table 3.6), from MIN, the guard and the tail parcels. -/
def build22 (m : Nat) (g : Guard) (t : List Parcel) : Instr :=
  if pX (tk t 0) then .stxSync g (Size.ofCode m) (pD (tk t 0)) (pA (tk t 0)) (pB (tk t 0)) (engOf (tk t 1) (tk t 2))
  else .stx g (Size.ofCode m) (pD (tk t 0)) (pA (tk t 0)) (pB (tk t 0))

/-- The instructions of MAJ 23 (Table 3.6), from MIN, the guard and the tail parcels. -/
def build23 (m : Nat) (g : Guard) (t : List Parcel) : Instr :=
  match m with
  | 0 | 1 => .amo g (m % 2 == 1) (pD (tk t 0)) (pA (tk t 0)) (pB (tk t 0)) (AmoOp.ofCode (fN 4 (tk t 1).toNat 0)) (MemOrd.ofCode (fN 2 (tk t 1).toNat 4)) (Scope.ofCode (fN 3 (tk t 1).toNat 6))
  | _ => .amocas g (m % 2 == 1) (pD (tk t 0)) (pA (tk t 0)) (pB (tk t 0)) (pX (tk t 0))

/-- The instructions of MAJ 24 (Table 3.6), from MIN, the guard and the tail parcels. -/
def build24 (m : Nat) (g : Guard) (t : List Parcel) : Instr :=
  match m with
  | 0 => .ldfe g (pD (tk t 0)) (pA (tk t 0)) (pB (tk t 0)) (fV 16 (tk t 1).toNat 0)
  | 1 => .stfe g (pD (tk t 0)) (pA (tk t 0)) (pB (tk t 0)) (fV 16 (tk t 1).toNat 0)
  | 2 => .ldff g (pD (tk t 0)) (pA (tk t 0)) (pB (tk t 0)) (fV 16 (tk t 1).toNat 0)
  | _ => .ldre g (pD (tk t 0)) (pA (tk t 0)) (pB (tk t 0)) (fV 16 (tk t 1).toNat 0)

/-- The instructions of MAJ 25 (Table 3.6), from MIN, the guard and the tail parcels. -/
def build25 (m : Nat) (g : Guard) (t : List Parcel) : Instr :=
  match m with
  | 0 => .stsf g (pD (tk t 0)) (pA (tk t 0)) (pB (tk t 0)) (fV 16 (tk t 1).toNat 0)
  | 1 => .mon g (pA (tk t 0))
  | 2 => .mwait g (pD (tk t 0)) (pA (tk t 0))
  | _ => .fence g (Scope.ofCode (fN 3 (tk t 0).toNat 0)) (MemOrd.ofCode (fN 2 (tk t 0).toNat 3))

/-- The instructions of MAJ 26 (Table 3.6), from MIN, the guard and the tail parcels. -/
def build26 (m : Nat) (g : Guard) (t : List Parcel) : Instr :=
  match m with
  | 0 => .spal g (pD (tk t 0)) (pA (tk t 0)) (fV 3 (tk t 1).toNat 0) (fV 2 (tk t 1).toNat 3) (fV 2 (tk t 1).toNat 5)
  | 1 => .spfr g (pD (tk t 0)) (pA (tk t 0))
  | _ => .fecl g (pA (tk t 0)) (pB (tk t 0)) (pX (tk t 0))

/-- The instructions of MAJ 27 (Table 3.6), from MIN, the guard and the tail parcels. -/
def build27 (m : Nat) (g : Guard) (t : List Parcel) : Instr :=
  match m with
  | 0 => .vclaim g (pD (tk t 0)) (pA (tk t 0)) (fB (tk t 1).toNat 9) (fV 9 (tk t 1).toNat 0)
  | 1 => .vrel g
  | 2 => .vreneg g (pD (tk t 0)) (pA (tk t 0)) (fV 9 (tk t 1).toNat 0)
  | _ => .sfn g (pD (tk t 0)) (pA (tk t 0)) (SfnOp.ofCode (fN 4 (tk t 1).toNat 0)) (FloatTy.ofCode (fN 2 (tk t 1).toNat 4)) (Rm.ofCode (fN 2 (tk t 1).toNat 6))

/-- The instructions of MAJ 28 (Table 3.6), from MIN, the guard and the tail parcels. -/
def build28 (m : Nat) (g : Guard) (t : List Parcel) : Instr :=
  match m with
  | 0 => .vld g (VSize.ofCode (fN 2 (tk t 1).toNat 14)) (pD (tk t 0)) (pA (tk t 0)) (fV 14 (tk t 1).toNat 0) (syncOf t 2)
  | 1 => .vst g (VSize.ofCode (fN 2 (tk t 1).toNat 14)) (pD (tk t 0)) (pA (tk t 0)) (fV 14 (tk t 1).toNat 0) (syncOf t 2)
  | 2 => .vlds g (VSize.ofCode (fN 2 (tk t 1).toNat 14)) (pD (tk t 0)) (pA (tk t 0)) (pB (tk t 0)) (fV 14 (tk t 1).toNat 0) (syncOf t 2)
  | _ => .vsts g (VSize.ofCode (fN 2 (tk t 1).toNat 14)) (pD (tk t 0)) (pA (tk t 0)) (pB (tk t 0)) (fV 14 (tk t 1).toNat 0) (syncOf t 2)

/-- The instructions of MAJ 29 (Table 3.6), from MIN, the guard and the tail parcels. -/
def build29 (m : Nat) (g : Guard) (t : List Parcel) : Instr :=
  match m with
  | 0 => .vadd g (EltTy.ofCode (fN 4 (tk t 1).toNat 12)) (Rm.ofCode (fN 2 (tk t 1).toNat 10)) (pD (tk t 0)) (pA (tk t 0)) (pB (tk t 0)) (fB (tk t 1).toNat 0)
  | 1 => .vsub g (EltTy.ofCode (fN 4 (tk t 1).toNat 12)) (Rm.ofCode (fN 2 (tk t 1).toNat 10)) (pD (tk t 0)) (pA (tk t 0)) (pB (tk t 0)) (fB (tk t 1).toNat 0)
  | 2 => .vmul g (EltTy.ofCode (fN 4 (tk t 1).toNat 12)) (Rm.ofCode (fN 2 (tk t 1).toNat 10)) (pD (tk t 0)) (pA (tk t 0)) (pB (tk t 0)) (fB (tk t 1).toNat 0)
  | _ => .vfma g (EltTy.ofCode (fN 4 (tk t 1).toNat 12)) (Rm.ofCode (fN 2 (tk t 1).toNat 10)) (pD (tk t 0)) (pA (tk t 0)) (pB (tk t 0)) (fF (tk t 1).toNat 0) (fB (tk t 1).toNat 5)

/-- The instructions of MAJ 30 (Table 3.6), from MIN, the guard and the tail parcels. -/
def build30 (m : Nat) (g : Guard) (t : List Parcel) : Instr :=
  match m with
  | 0 => .vfms g (EltTy.ofCode (fN 4 (tk t 1).toNat 12)) (Rm.ofCode (fN 2 (tk t 1).toNat 10)) (pD (tk t 0)) (pA (tk t 0)) (pB (tk t 0)) (fF (tk t 1).toNat 0) (fB (tk t 1).toNat 5)
  | 1 => .vmin g (EltTy.ofCode (fN 4 (tk t 1).toNat 12)) (pD (tk t 0)) (pA (tk t 0)) (pB (tk t 0))
  | 2 => .vmax g (EltTy.ofCode (fN 4 (tk t 1).toNat 12)) (pD (tk t 0)) (pA (tk t 0)) (pB (tk t 0))
  | _ => .vabs g (EltTy.ofCode (fN 4 (tk t 1).toNat 12)) (pD (tk t 0)) (pA (tk t 0)) (fB (tk t 1).toNat 0)

/-- The instructions of MAJ 31 (Table 3.6), from MIN, the guard and the tail parcels. -/
def build31 (m : Nat) (g : Guard) (t : List Parcel) : Instr :=
  match m with
  | 0 => .vchs g (EltTy.ofCode (fN 4 (tk t 1).toNat 12)) (pD (tk t 0)) (pA (tk t 0)) (fB (tk t 1).toNat 0)
  | 1 => .vand g (EltTy.ofCode (fN 4 (tk t 1).toNat 12)) (pD (tk t 0)) (pA (tk t 0)) (pB (tk t 0))
  | 2 => .vor g (EltTy.ofCode (fN 4 (tk t 1).toNat 12)) (pD (tk t 0)) (pA (tk t 0)) (pB (tk t 0))
  | _ => .vxor g (EltTy.ofCode (fN 4 (tk t 1).toNat 12)) (pD (tk t 0)) (pA (tk t 0)) (pB (tk t 0))

/-- The instructions of MAJ 32 (Table 3.6), from MIN, the guard and the tail parcels. -/
def build32 (m : Nat) (g : Guard) (t : List Parcel) : Instr :=
  match m with
  | 0 => .vshl g (EltTy.ofCode (fN 4 (tk t 1).toNat 12)) (pD (tk t 0)) (pA (tk t 0)) (pB (tk t 0)) (fB (tk t 1).toNat 5) (fV 5 (tk t 1).toNat 0)
  | 1 => .vshr g (EltTy.ofCode (fN 4 (tk t 1).toNat 12)) (pD (tk t 0)) (pA (tk t 0)) (pB (tk t 0)) (fB (tk t 1).toNat 5) (fV 5 (tk t 1).toNat 0)
  | 2 => .vsar g (EltTy.ofCode (fN 4 (tk t 1).toNat 12)) (pD (tk t 0)) (pA (tk t 0)) (pB (tk t 0)) (fB (tk t 1).toNat 5) (fV 5 (tk t 1).toNat 0)
  | _ => .vcmp g (EltTy.ofCode (fN 4 (tk t 1).toNat 12)) (Fin.ofNat 4 (pD (tk t 0)).val) (pA (tk t 0)) (pB (tk t 0)) (CmbOp.ofCode (fN 2 (tk t 1).toNat 8))

/-- The instructions of MAJ 33 (Table 3.6), from MIN, the guard and the tail parcels. -/
def build33 (m : Nat) (g : Guard) (t : List Parcel) : Instr :=
  match m with
  | 0 => .vsel g (EltTy.ofCode (fN 4 (tk t 1).toNat 12)) (pD (tk t 0)) (pA (tk t 0)) (pB (tk t 0)) (fF (tk t 1).toNat 0)
  | 1 => .vcvt g (EltTy.ofCode (fN 4 (tk t 1).toNat 12)) (Rm.ofCode (fN 2 (tk t 1).toNat 10)) (pD (tk t 0)) (pA (tk t 0)) (Rm.ofCode (fN 2 (tk t 1).toNat 4)) (EltTy.ofCode (fN 4 (tk t 1).toNat 0))
  | 2 => .vmxq g (FloatTy.ofCode (fN 4 (tk t 1).toNat 12)) (pD (tk t 0)) (pA (tk t 0))
  | _ => .vmxd g (FloatTy.ofCode (fN 4 (tk t 1).toNat 12)) (Rm.ofCode (fN 2 (tk t 1).toNat 10)) (pD (tk t 0)) (pA (tk t 0))

/-- The instructions of MAJ 34 (Table 3.6), from MIN, the guard and the tail parcels. -/
def build34 (m : Nat) (g : Guard) (t : List Parcel) : Instr :=
  match m with
  | 0 => .vtern g (FloatTy.ofCode (fN 4 (tk t 1).toNat 12)) (pD (tk t 0)) (pA (tk t 0)) (pB (tk t 0)) (fB (tk t 1).toNat 0)
  | 1 => .vred g (EltTy.ofCode (fN 4 (tk t 1).toNat 12)) (Rm.ofCode (fN 2 (tk t 1).toNat 10)) (pD (tk t 0)) (pA (tk t 0)) (RedOp.ofCode (fN 2 (tk t 1).toNat 0))
  | 2 => .vsplat g (EltTy.ofCode (fN 4 (tk t 1).toNat 12)) (pD (tk t 0)) (pA (tk t 0))
  | _ => .vext g (EltTy.ofCode (fN 4 (tk t 1).toNat 12)) (pD (tk t 0)) (pA (tk t 0)) (pB (tk t 0))

/-- The instructions of MAJ 35 (Table 3.6), from MIN, the guard and the tail parcels. -/
def build35 (m : Nat) (g : Guard) (t : List Parcel) : Instr :=
  match m with
  | 0 => .vins g (EltTy.ofCode (fN 4 (tk t 1).toNat 12)) (pD (tk t 0)) (pA (tk t 0)) (pB (tk t 0))
  | 1 => .vmov g (EltTy.ofCode (fN 4 (tk t 1).toNat 12)) (pD (tk t 0)) (pA (tk t 0)) (fV 2 (tk t 1).toNat 0)
  | _ => .vclamp g (EltTy.ofCode (fN 4 (tk t 1).toNat 12)) (pD (tk t 0)) (pA (tk t 0)) (pB (tk t 0)) (fF (tk t 1).toNat 0)

/-- The instructions of MAJ 36 (Table 3.6), from MIN, the guard and the tail parcels. -/
def build36 (m : Nat) (g : Guard) (t : List Parcel) : Instr :=
  match m with
  | 0 => .mlw g (pA (tk t 0)) (fB (tk t 1).toNat 0) (fB (tk t 1).toNat 1) (engOf (tk t 2) (tk t 3))
  | 1 => .mrun g (pD (tk t 0)) (pA (tk t 0)) (pB (tk t 0)) ⟨(fV 4 (tk t 1).toNat 0), (fV 4 (tk t 1).toNat 4), (fB (tk t 1).toNat 8), (fB (tk t 1).toNat 9), (fB (tk t 1).toNat 10), (fV 3 (tk t 1).toNat 11)⟩ (engOf (tk t 2) (tk t 3))
  | 2 => .mrunq g (Fin.ofNat 4 (pD (tk t 0)).val) (Fin.ofNat 4 (pA (tk t 0)).val) ⟨(fV 4 (tk t 1).toNat 0), (fV 4 (tk t 1).toNat 4), (fB (tk t 1).toNat 8), (fB (tk t 1).toNat 9), (fB (tk t 1).toNat 10), (fV 3 (tk t 1).toNat 11)⟩ (fB (tk t 1).toNat 14) (engOf (tk t 2) (tk t 3))
  | _ => .mdrain g (pD (tk t 0)) (pA (tk t 0)) (fV 4 (tk t 1).toNat 0) (fV 4 (tk t 1).toNat 4) (fB (tk t 1).toNat 8) (fB (tk t 1).toNat 9) (engOf (tk t 2) (tk t 3))

/-- The instructions of MAJ 37 (Table 3.6), from MIN, the guard and the tail parcels. -/
def build37 (m : Nat) (g : Guard) (t : List Parcel) : Instr :=
  match m with
  | 0 => .mdrs g (pD (tk t 0)) (pA (tk t 0)) (fV 4 (tk t 1).toNat 0) (fV 4 (tk t 1).toNat 4) (fB (tk t 1).toNat 8) (fB (tk t 1).toNat 9) (engOf (tk t 2) (tk t 3))
  | 1 => .mclr g (fV 2 (tk t 0).toNat 0) (engOf (tk t 1) (tk t 2))
  | 2 => .mswap g (fB (tk t 0).toNat 0) (fB (tk t 0).toNat 1) (engOf (tk t 1) (tk t 2))
  | _ => .mpass g (pD (tk t 0)) (pA (tk t 0)) (fV 4 (tk t 1).toNat 0) (fV 2 (tk t 1).toNat 4) (fV 3 (tk t 1).toNat 6) (engOf (tk t 2) (tk t 3))

/-- The instructions of MAJ 38 (Table 3.6), from MIN, the guard and the tail parcels. -/
def build38 (m : Nat) (g : Guard) (t : List Parcel) : Instr :=
  match m with
  | 0 => .mcfg g (pA (tk t 0)) (fB (tk t 1).toNat 0) (fB (tk t 1).toNat 4) (fB (tk t 1).toNat 5) (fV 10 (tk t 1).toNat 6)
  | 1 => .msave g (pA (tk t 0)) (fV 2 (tk t 1).toNat 0) (engOf (tk t 2) (tk t 3))
  | _ => .mrest g (pA (tk t 0)) (fV 2 (tk t 1).toNat 0) (engOf (tk t 2) (tk t 3))

/-- The instructions of MAJ 39 (Table 3.6), from MIN, the guard and the tail parcels. -/
def build39 (m : Nat) (g : Guard) (t : List Parcel) : Instr :=
  match m with
  | 0 => .swt g (fV 8 (tk t 0).toNat 8) (fV 8 (tk t 0).toNat 0)
  | 1 => .ssig g (fV 8 (tk t 0).toNat 8) (fV 8 (tk t 0).toNat 0)
  | 2 => .sset g (pD (tk t 0)) (pA (tk t 0)) (fV 8 (tk t 1).toNat 0)
  | _ => .srd g (pD (tk t 0)) (fV 8 (tk t 1).toNat 0)

/-- The instructions of MAJ 40 (Table 3.6), from MIN, the guard and the tail parcels. -/
def build40 (m : Nat) (g : Guard) (t : List Parcel) : Instr :=
  match m with
  | 0 => .qctl g (Fin.ofNat 4 (pD (tk t 0)).val) (pA (tk t 0))
  | 1 => .qstat g (pD (tk t 0)) (Fin.ofNat 4 (pA (tk t 0)).val)
  | 2 => .qdir g (pD (tk t 0)) (Fin.ofNat 4 (pA (tk t 0)).val) (fV 3 (tk t 1).toNat 0) (fV 2 (tk t 1).toNat 3)
  | _ => .qflush g (fV 4 (tk t 0).toNat 0)

/-- The instructions of MAJ 41 (Table 3.6), from MIN, the guard and the tail parcels. -/
def build41 (m : Nat) (g : Guard) (t : List Parcel) : Instr :=
  match m with
  | 0 => .rbinit g (pA (tk t 0)) (pB (tk t 0)) (fV 8 (tk t 1).toNat 0) (fV 8 (tk t 1).toNat 8)
  | 1 => .rbacq g (pD (tk t 0)) (pA (tk t 0)) (fV 9 (tk t 1).toNat 0) (fB (tk t 1).toNat 9)
  | 2 => .rbpub g (pA (tk t 0)) (pB (tk t 0)) (fV 9 (tk t 1).toNat 0)
  | _ => .rbtake g (pD (tk t 0)) (pA (tk t 0)) (fV 9 (tk t 1).toNat 0) (fB (tk t 1).toNat 9)

/-- The instructions of MAJ 42 (Table 3.6), from MIN, the guard and the tail parcels. -/
def build42 (m : Nat) (g : Guard) (t : List Parcel) : Instr :=
  match m with
  | 0 => .rbrel g (pA (tk t 0)) (pB (tk t 0)) (fV 9 (tk t 1).toNat 0)
  | 1 => .stacq g (pD (tk t 0)) (pA (tk t 0)) (fV 3 (tk t 1).toNat 0) (fB (tk t 1).toNat 3)
  | _ => .strel g (pA (tk t 0)) (pB (tk t 0)) (fV 3 (tk t 1).toNat 0)

/-- The instructions of MAJ 43 (Table 3.6), from MIN, the guard and the tail parcels. -/
def build43 (m : Nat) (g : Guard) (t : List Parcel) : Instr :=
  match m with
  | 0 => .sopen g (Fin.ofNat 8 (pD (tk t 0)).val) (pA (tk t 0)) (pB (tk t 0)) (fV 16 (tk t 1).toNat 0)
  | 1 => .snext g (pD (tk t 0)) (Fin.ofNat 8 (pA (tk t 0)).val)
  | 2 => .sisect g (pD (tk t 0)) (Fin.ofNat 8 (pA (tk t 0)).val) (Fin.ofNat 8 (pB (tk t 0)).val)
  | _ => .sunion g (pD (tk t 0)) (Fin.ofNat 8 (pA (tk t 0)).val) (Fin.ofNat 8 (pB (tk t 0)).val)

/-- The instructions of MAJ 44 (Table 3.6), from MIN, the guard and the tail parcels. -/
def build44 (m : Nat) (g : Guard) (t : List Parcel) : Instr :=
  match m with
  | 0 => .sskip g (pD (tk t 0)) (Fin.ofNat 8 (pA (tk t 0)).val) (pB (tk t 0))
  | 1 => .scrd g (pD (tk t 0)) (Fin.ofNat 8 (pA (tk t 0)).val) (pB (tk t 0))
  | 2 => .sval g (pD (tk t 0)) (Fin.ofNat 8 (pA (tk t 0)).val) (fB (tk t 1).toNat 0)
  | _ => .sdone g (Fin.ofNat 8 (pD (tk t 0)).val) (Fin.ofNat 8 (pA (tk t 0)).val)

/-- The instructions of MAJ 45 (Table 3.6), from MIN, the guard and the tail parcels. -/
def build45 (m : Nat) (g : Guard) (t : List Parcel) : Instr :=
  match m with
  | 0 => .ssave g (Fin.ofNat 8 (pD (tk t 0)).val) (pA (tk t 0))
  | 1 => .srest g (Fin.ofNat 8 (pD (tk t 0)).val) (pA (tk t 0))
  | _ => .sclose g (Fin.ofNat 8 (pD (tk t 0)).val)

/-- The instructions of MAJ 46 (Table 3.6), from MIN, the guard and the tail parcels. -/
def build46 (m : Nat) (g : Guard) (t : List Parcel) : Instr :=
  match m with
  | 0 => .cwb g (pA (tk t 0)) (pB (tk t 0))
  | 1 => .cinv g (pA (tk t 0)) (pB (tk t 0))
  | 2 => .cwbi g (pA (tk t 0)) (pB (tk t 0))
  | _ => .iinv g (pA (tk t 0)) (pB (tk t 0))

/-- The instructions of MAJ 47 (Table 3.6), from MIN, the guard and the tail parcels. -/
def build47 (m : Nat) (g : Guard) (t : List Parcel) : Instr :=
  match m with
  | 0 => .ibar g
  | 1 => .l2pf g (pA (tk t 0)) (fV 8 (tk t 1).toNat 0) (fB (tk t 1).toNat 8)
  | _ => .l2zero g (pA (tk t 0))

/-- The instructions of MAJ 48 (Table 3.6), from MIN, the guard and the tail parcels. -/
def build48 (m : Nat) (g : Guard) (t : List Parcel) : Instr :=
  match m with
  | 0 => .gbind g (pD (tk t 0)) (pA (tk t 0)) (pB (tk t 0)) (fV 3 (imm2 (tk t 1) (tk t 2)) 0) (fV 2 (imm2 (tk t 1) (tk t 2)) 3) (fB (imm2 (tk t 1) (tk t 2)) 5) (fB (imm2 (tk t 1) (tk t 2)) 6) (fV 24 (imm2 (tk t 1) (tk t 2)) 8)
  | 1 => .gunb g (pD (tk t 0)) (pA (tk t 0))
  | 2 => .gstat g (pD (tk t 0)) (pA (tk t 0))
  | _ => .tlbinv g (pA (tk t 0)) (pB (tk t 0)) (pX (tk t 0))

/-- The instructions of MAJ 49 (Table 3.6), from MIN, the guard and the tail parcels. -/
def build49 (m : Nat) (g : Guard) (t : List Parcel) : Instr :=
  match m with
  | 0 => .cpush g (pD (tk t 0)) (pA (tk t 0)) (pB (tk t 0)) (tk t 1) ⟨(fV 4 (tk t 2).toNat 0), (fB (tk t 2).toNat 5), (fB (tk t 2).toNat 6), (fB (tk t 2).toNat 7), (fV 2 (tk t 2).toNat 9)⟩ (fB (tk t 2).toNat 4) (fB (tk t 2).toNat 8) (engOf (tk t 3) (tk t 4))
  | 1 => .cslab g (pD (tk t 0)) (pA (tk t 0)) (pB (tk t 0)) (pD (tk t 1)) (pA (tk t 1)) (tk t 2) ⟨(fV 4 (tk t 3).toNat 0), (fB (tk t 3).toNat 5), (fB (tk t 3).toNat 6), (fB (tk t 3).toNat 7), (fV 2 (tk t 3).toNat 9)⟩ (fB (tk t 3).toNat 8) (engOf (tk t 4) (tk t 5))
  | 2 => .cmcast g (pD (tk t 0)) (pA (tk t 0)) (pB (tk t 0)) (tk t 1) ⟨(fV 4 (tk t 2).toNat 0), (fB (tk t 2).toNat 5), (fB (tk t 2).toNat 6), (fB (tk t 2).toNat 7), (fV 2 (tk t 2).toNat 9)⟩ (fB (tk t 2).toNat 8) (engOf (tk t 3) (tk t 4))
  | _ => .cthr g (pD (tk t 0)) (pA (tk t 0)) (pB (tk t 0)) (pD (tk t 1)) (pA (tk t 1)) (pB (tk t 1)) (fB (tk t 2).toNat 6) (fB (tk t 2).toNat 7) (fV 2 (tk t 2).toNat 9) (fB (tk t 2).toNat 11) (engOf (tk t 3) (tk t 4))

/-- The instructions of MAJ 50 (Table 3.6), from MIN, the guard and the tail parcels. -/
def build50 (m : Nat) (g : Guard) (t : List Parcel) : Instr :=
  match m with
  | 0 => .cconv g (pD (tk t 0)) (pA (tk t 0)) (pB (tk t 0)) (fV 4 (tk t 1).toNat 0) (fV 4 (tk t 1).toNat 4) (fV 2 (tk t 1).toNat 8) (engOf (tk t 2) (tk t 3))
  | 1 => .ctab g (pD (tk t 0)) (pA (tk t 0)) (fV 4 (tk t 1).toNat 0) (fV 2 (tk t 1).toNat 4)
  | 2 => .cfree g (pA (tk t 0)) (tk t 1)
  | _ => .tbinit g (pA (tk t 0)) (fV 16 (tk t 1).toNat 0)

/-- The instructions of MAJ 51 (Table 3.6), from MIN, the guard and the tail parcels. -/
def build51 (m : Nat) (g : Guard) (t : List Parcel) : Instr :=
  match m with
  | 0 => .tbarr g (pD (tk t 0)) (pA (tk t 0))
  | 1 => .tbexp g (pD (tk t 0)) (pA (tk t 0)) (pB (tk t 0)) (pX (tk t 0))
  | 2 => .tbwait g (pD (tk t 0)) (pA (tk t 0)) (pB (tk t 0))
  | _ => .tbtest g (pD (tk t 0)) (pA (tk t 0)) (pB (tk t 0))

/-- The instructions of MAJ 52 (Table 3.6), from MIN, the guard and the tail parcels. -/
def build52 (_ : Nat) (g : Guard) (t : List Parcel) : Instr :=
  .tbguard g (pD (tk t 0)) (pA (tk t 0)) (pB (tk t 0))

/-- The instructions of MAJ 53 (Table 3.6), from MIN, the guard and the tail parcels. -/
def build53 (m : Nat) (g : Guard) (t : List Parcel) : Instr :=
  match m with
  | 0 => .msend g (pD (tk t 0)) (pA (tk t 0)) (pB (tk t 0)) (tk t 1) (fV 6 (tk t 2).toNat 10) (fV 10 (tk t 2).toNat 0)
  | 1 => .mrecv g (pD (tk t 0)) (pA (tk t 0)) (pB (tk t 0))
  | 2 => .mpeek g (pD (tk t 0)) (pA (tk t 0))
  | _ => .rst g (Size.ofCode (fN 2 (tk t 2).toNat 0)) (pD (tk t 0)) (pA (tk t 0)) (tk t 1) (fB (tk t 2).toNat 2)

/-- The instructions of MAJ 54 (Table 3.6), from MIN, the guard and the tail parcels. -/
def build54 (m : Nat) (g : Guard) (t : List Parcel) : Instr :=
  match m with
  | 0 => .rld g (Size.ofCode (fN 2 (tk t 2).toNat 0)) (pD (tk t 0)) (pA (tk t 0)) (tk t 1) (fB (tk t 2).toNat 2)
  | 1 => .jread g (pD (tk t 0)) (pA (tk t 0)) (pB (tk t 0))
  | 2 => .jack g (pD (tk t 0)) (pA (tk t 0))
  | _ => .nfence g (fB (tk t 0).toNat 0) (fB (tk t 0).toNat 1)

/-- The instructions of MAJ 55 (Table 3.6), from MIN, the guard and the tail parcels. -/
def build55 (_ : Nat) (g : Guard) (t : List Parcel) : Instr :=
  .coll g (pD (tk t 0)) (pA (tk t 0)) (pB (tk t 0)) (pD (tk t 1)) (pA (tk t 1)) (CollKind.ofCode (fN 3 (tk t 2).toNat 0)) (EltTy.ofCode (fN 4 (tk t 2).toNat 3)) (RedOp.ofCode (fN 2 (tk t 2).toNat 7)) (Rm.ofCode (fN 2 (tk t 2).toNat 9))

/-- The instructions of MAJ 56 (Table 3.6), from MIN, the guard and the tail parcels. -/
def build56 (m : Nat) (g : Guard) (t : List Parcel) : Instr :=
  match m with
  | 0 => .brk g (fV 16 (tk t 0).toNat 0)
  | _ => match (tk t 1).toNat with
    | 1 => .dbgctlHalt g (pD (tk t 0))
    | 2 => .dbgctlRun g (pD (tk t 0))
    | 3 => .dbgctlKill g (pD (tk t 0)) (pA (tk t 0))
    | 4 => .dbgctlSettle g (pD (tk t 0))
    | _ => .dbgctlStat g (pD (tk t 0))

/-- The builders of Table 3.6, MAJ 1 first. -/
def builders : List (Nat → Guard → List Parcel → Instr) :=
  [build1, build2, build3, build4, build5, build6, build7, build8] ++
  [build9, build10, build11, build12, build13, build14, build15, build16] ++
  [build17, build18, build19, build20, build21, build22, build23, build24] ++
  [build25, build26, build27, build28, build29, build30, build31, build32] ++
  [build33, build34, build35, build36, build37, build38, build39, build40] ++
  [build41, build42, build43, build44, build45, build46, build47, build48] ++
  [build49, build50, build51, build52, build53, build54, build55, build56]

/-- What the decoder makes of a head and its tail parcels. -/
inductive Decoded where
  /-- A well-formed instruction. -/
  | ok (i : Instr)
  /-- Order 4 of Table 3.7: MAJ or MIN unassigned or reserved (R72). -/
  | unassigned
  /-- Order 5: the tail length does not match the format (R69), malformed-line code 1. -/
  | badLength
  /-- Order 6: a field, register number, place or type word is not permitted (R66, R67, R68, R70). -/
  | illegal
  deriving DecidableEq, Repr

/-- The tail length that a format permits, given the first tail parcel (R69). -/
def lengthOf (f : Format) (t : List Parcel) : Nat :=
  if f.sync && pX (tk t 0) then f.base + 2 else f.base

/-- Orders 4 to 6 of Table 3.7 for a head with its TL tail parcels in tail order. -/
def decodeParcels (h : Parcel) (t : List Parcel) : Decoded :=
  match formatOf (headMaj h) (headMin h), builders[headMaj h - 1]? with
  | some f, some b =>
    if t.length = lengthOf f t ∧ headTl h = t.length then
      let i := b (headMin h) (headGuard h) t
      if i.wf && decide (encode i = h :: t) then .ok i else .illegal
    else .badLength
  | _, _ => .unassigned

/-! ## Instruction lines -/

/-- What a line holds (R61): its heads with their tail parcels in tail order, or the detail code of `line_fault`. -/
inductive Line where
  | heads (hs : List (Parcel × List Parcel))
  | fault (code : Nat)
  deriving DecidableEq, Repr

/-- Tail parcels of a head whose tail parcel 0 is parcel `base` of the line (R59). -/
def lineTails (ps : List Parcel) (base : Nat) (l : Nat) : List Parcel :=
  (List.range l).map fun k => ps.getD (base - k) 0

/-- The decode loop of R61, from head `i` with `u` tail parcels before it; `fuel` bounds the loop by the 33 heads that
a line can be asked for. -/
def decodeLineFrom (ps : List Parcel) : Nat → Nat → Nat → List (Parcel × List Parcel) → Line
  | 0, _, _, acc => .heads acc.reverse
  | fuel + 1, i, u, acc =>
    if i + u = 32 then .heads acc.reverse
    else
      let h := ps.getD i 0
      if headMaj h = 0 then
        if h = 0 then .heads acc.reverse else .fault 3
      else if i + 1 + u + headTl h > 32 then .fault 2
      else decodeLineFrom ps fuel (i + 1) (u + headTl h) ((h, lineTails ps (31 - u) (headTl h)) :: acc)

/-- R61: the heads of a line of 32 parcels. -/
def decodeLine (ps : List Parcel) : Line := decodeLineFrom ps 33 0 0 []

/-- The parcels of a 64-byte line, little-endian (R59). -/
def parcelsOf : List Byte → List Parcel
  | a :: b :: r => (b ++ a) :: parcelsOf r
  | _ => []

/-- The tail parcels of a line in descending parcel order, and the heads in ascending order (R59). -/
def packLine (is : List (List Parcel)) : List Parcel :=
  let hs := is.map fun w => w.headD 0
  let ts := (is.map fun w => w.tail).flatten
  hs ++ List.replicate (32 - hs.length - ts.length) 0 ++ ts.reverse

/-- R65: the PC that a target names, `w` bits of line offset above the 5-bit head index. -/
def targetPc (pc : Word) (t : Nat) (w : Nat) : Word :=
  let off : BitVec 58 := (BitVec.ofNat w (t / 32)).signExtend 58
  ((pc.extractLsb' 6 58 + off) ++ BitVec.ofNat 5 t) ++ (0#1)

/-! ## Rows of the opcode table -/

/-- The parcels of a row of the opcode table. The table numbers a row of one parcel by the head alone, and a row
of 32 bits with the head in its high half (log entry 1); every later parcel is zero. -/
def tableParcels (nbits w : Nat) : Parcel × List Parcel :=
  let h : Parcel := BitVec.ofNat 16 (if nbits ≤ 16 then w else w / 2 ^ (nbits - 16))
  let given : List Parcel := if nbits ≤ 16 then [] else (List.range (nbits / 16 - 1)).map fun k =>
    BitVec.ofNat 16 (w / 2 ^ (nbits - 32 - 16 * k))
  (h, ((given ++ List.replicate 7 0).take (headTl h)))

/-- The instruction that the decoder reads from a row of the opcode table. -/
def decodeTableWord (nbits w : Nat) : Option Instr :=
  match decodeParcels (tableParcels nbits w).1 (tableParcels nbits w).2 with
  | .ok i => some i
  | _ => none

end Sys2Proof
end

