-- ==== Sys2Proof/Machine/Bits.lean ====
section
/-!
DEFINITION. Bit and byte helpers: byte order (R4), two's complement (R7, Table 0.2), and lists of bytes.
-/

namespace Sys2Proof.Machine

/-- The two's complement value of the low `w` bits of `n`. -/
def sx (w n : Nat) : Int :=
  let m := n % 2 ^ w
  if m < 2 ^ (w - 1) then (m : Int) else (m : Int) - (2 ^ w : Nat)

/-- An integer modulo 2^w (wrap32, wrap64 and assignment to a field; R7). -/
def wrapN (w : Nat) (i : Int) : Nat := (i % ((2 ^ w : Nat) : Int)).toNat

/-- An integer as a 64-bit word. -/
def word (i : Int) : Word := BitVec.ofNat 64 (wrapN 64 i)

/-- A number as a 64-bit word. -/
def wordN (n : Nat) : Word := BitVec.ofNat 64 n

/-- A Bool as a bit. -/
def b2n (b : Bool) : Nat := b.toNat

/-- The `n` low bytes of a number, least significant first (R4). -/
def bytesOf : Nat → Nat → List Byte
  | 0, _ => []
  | n + 1, v => BitVec.ofNat 8 v :: bytesOf n (v / 256)

/-- The number whose bytes, least significant first, these are (R4). -/
def ofBytes : List Byte → Nat
  | [] => 0
  | b :: t => b.toNat + 256 * ofBytes t

/-- The first `n` bytes of a list, 0 where there is none. -/
def firstB : Nat → List Byte → List Byte
  | 0, _ => []
  | n + 1, [] => 0 :: firstB n []
  | n + 1, b :: t => b :: firstB n t

/-- `n` bytes of a list from offset `o`, 0 where there is none. -/
def sliceB (l : List Byte) (o n : Nat) : List Byte := firstB n (l.drop o)

/-- The number in `n` bytes of a list from offset `o`. -/
def leAt (l : List Byte) (o n : Nat) : Nat := ofBytes (sliceB l o n)

/-- Quotient rounded up. -/
def ceilDiv (a b : Nat) : Nat := (a + b - 1) / b

/-- Clamps an integer to a range. -/
def clampI (lo hi x : Int) : Int := if x < lo then lo else if hi < x then hi else x

/-- Replaces element `i` of a list. -/
def lset {α : Type} (l : List α) (i : Nat) (a : α) : List α := l.set i a

/-- Removes element `i` of a list. -/
def ldel {α : Type} (l : List α) (i : Nat) : List α := l.eraseIdx i

/-- One step of the reflected CRC-32C of polynomial 0x1EDC6F41 (R51), bit by bit. -/
def crcBits : Nat → BitVec 32 → BitVec 32
  | 0, c => c
  | n + 1, c => if c.getLsbD 0 then crcBits n ((c >>> 1) ^^^ 0x82F63B78#32) else crcBits n (c >>> 1)

/-- CRC-32C over bytes in order, from a running value. -/
def crcGo (c : BitVec 32) (bs : List Byte) : BitVec 32 :=
  bs.foldl (fun c b => crcBits 8 (c ^^^ b.setWidth 32)) c

/-- CRC-32C of bytes in order (R51). -/
def crc32c (bs : List Byte) : BitVec 32 := ~~~ (crcGo 0xFFFFFFFF#32 bs)

end Sys2Proof.Machine
end

