-- ==== Sys2Proof/Config.lean ====
section
/-!
DEFINITION. What an implementation fixes and the specification leaves open. Every constant without a body is a
free value: nothing in Lean evaluates it, so a statement about it holds for every value (log entry 4).
-/

namespace Sys2Proof.Config

/-! ## Free values -/

/-- Which of several enabled steps happens next (R3): applied to the counter `free` of the state. -/
opaque pick : Nat → Nat

/-- Core-clock cycles that pass with a step, less one. The manual's cycle counts are left out (log entry 6). -/
opaque tickCc : Nat → Nat

/-- Nanoseconds that pass with a step. -/
opaque tickNs : Nat → Nat

/-- A free choice among permitted outcomes (R3), by the counter `free`. -/
opaque choose : Nat → Bool

/-- FP32 bits of a special function at an operand for which Table 7.9 gives only a bound (R211): the choice is fixed for every
operand and run. It counts where it lies within the bound. -/
opaque sfnBits : SfnOp → BitVec 32 → BitVec 32

/-- SUB of a data-loss fault at an entry of an input queue, which Table 16.5 does not give (log entry 8). -/
opaque portLossSub : BitVec 8

/-- Whether word 0 of an `hpost` arrival carries the place of the receiving core: R387 says so, R115 gives zext(imm) (log entry 48). -/
opaque hpostPlace : Bool

/-- A scale byte of an MXINT8 row whose scales were not recorded at acceptance (R236, R245), by the counter `free` and its place in the row (log entry 55). -/
opaque missingScale : Nat → Nat → Byte

/-- The line that an instruction-cache fill replaces (R314 gives no order): an index into the lines held. -/
opaque icacheVictim : Nat → Nat

/-! ## Functions that other standards name and that the model leaves free -/

/-- The 96 bytes of seeds from which the key pair of a 32-byte value is generated (R503 names the value alone). -/
opaque keySeeds : List Byte → BitVec 768

/-- The randomness of a signature (FIPS 205), by the counter `free`. -/
opaque signRandom : Nat → BitVec 256

/-- The certificate of an alias public key, from the key and the signature that the identity key makes of it (R503 gives no layout). -/
opaque aliasCertificate : List Byte → List Byte → List Byte

/-- The certificate of the identity key, signed by the vendor, as it stands in flash (R503). -/
opaque identityCertificate : List Byte

/-- What R453 leaves open of an AV1 sequence, by the descriptor of its stream: the level and the tier, the bits in which the sizes are written less 12, the coding tools, and
the colour range, chroma position and film grain. -/
structure Av1Sequence where
  level : BitVec 5
  tier  : Bool
  wide  : Fin 5
  high  : Fin 5
  tools : List Bool
  range : Bool
  place : BitVec 2
  deltas : Bool
  grain : Bool
  deriving DecidableEq, Repr, Inhabited

/-- The free choices of a sequence (R453). -/
opaque av1Sequence : List Byte → Av1Sequence

/-- The coded frame behind its type (R453): a function of the frames since the last key frame, the descriptor and the frame number. -/
opaque av1Frame : List Byte → List Byte → Nat → BitVec 4 × List Byte

/-- What a memory of another module answers (R324, R398): its byte at a domain physical address, by the counter. -/
opaque remoteByte : Nat → Nat → Byte

/-! ## The part -/

/-- A full part has 32 clusters in a row: 1,024 clusters, 2,048 slices, 96 channels (R16, R26). -/
def clustersX : Nat := 32

/-- The fuses of the part (R11, R27): the clusters that are enabled, a bit to each, by die. -/
opaque fusedClen : Vector (BitVec 64) 16

/-- The home slices that are enabled, a bit to each, by die (R27). -/
opaque fusedSlcen : Vector (BitVec 128) 16

/-- The LPDDR-6 controllers that are enabled, a bit to each, by I/O die (R27). -/
opaque fusedChen : Vector (BitVec 12) 8

/-- The lanes that are enabled, a bit to each, by Bruxaoz port (R27). -/
opaque fusedBxlane : Vector (BitVec 8) 18

/-- Cores of a cluster (R14). -/
def coresPerCluster : Nat := 16

/-- Module memory of one LPDDR-6 channel: 16 GiB (R31). -/
def channelBytes : Nat := 2 ^ 34

/-- Hash of the vendor key in the fuses, 32 bytes (R500). -/
opaque fusedVendorKeyHash : List Byte

/-- The SVN of the rollback counter as the part was made (R500). -/
opaque fusedSvn : Nat

/-- The contents of the serial flash as the part was made, absent where they cannot be read (R500). -/
opaque flashImage : Option (List Byte)

/-- The module's unique secret in the fuses (R503). -/
opaque uniqueSecret : List Byte

end Sys2Proof.Config
end

