-- ==== Sys2Proof/Machine/State.lean ====
section
/-!
DEFINITION. The state of a TNX-9600 module, as plain data: the slots, cores, tiles, quads, octets, clusters, dies, home slices and
management of chapters 1 to 20, the memory of every level in one canonical list, and what is in flight between units.
-/

namespace Sys2Proof.Machine

/-! ## Tables -/

/-- A table of items by number; an item that is not listed has the default value that its reader names. -/
abbrev Tbl (α : Type) := List (Nat × α)

/-- The item of number `k`. -/
def tget {α : Type} (d : α) : Tbl α → Nat → α
  | [], _ => d
  | (i, a) :: t, k => if i = k then a else tget d t k

/-- Sets the item of number `k`, keeping the numbers rising. -/
def tset {α : Type} : Tbl α → Nat → α → Tbl α
  | [], k, v => [(k, v)]
  | (i, a) :: t, k, v =>
    if k < i then (k, v) :: (i, a) :: t
    else if i = k then (k, v) :: t
    else (i, a) :: tset t k v

/-- Removes item `k`. -/
def tdel {α : Type} (t : Tbl α) (k : Nat) : Tbl α := t.filter fun p => p.1 != k

/-! ## Memory -/

/-- Memory of every level: bytes by key, keys strictly rising, no byte equal to 0, which is what an unlisted key reads
as (log entry 3). Keys below 2^52 are domain physical addresses (the home image of global memory, R423); the local
memories, the cluster scratchpads and host memory stand above (see `tcmKey`, `wsKey`, `cspKey`, `hostKey`). -/
abbrev Memory := List Host.Cell

/-- F and W of a full/empty word (R159). -/
structure FeBits where
  f : Bool
  w : Bool
  deriving DecidableEq, Repr

/-! ## Traps and waits -/

/-- Access kinds (R328, Table 16.5): SUB 0 to 3. -/
inductive Access where
  | read | write | fetch | atomic
  deriving DecidableEq, Repr

/-- A trap of a slot: its cause, SUB and INFO (Table 16.5), the faulting address of the record, and bytes 32 to 39 of
the record (Table 16.6); `simg` are the bytes of the stream image that the record carries (R280), none when it carries none. -/
structure Trap where
  cause : Nat
  sub   : Nat
  info  : BitVec 32
  addr  : Word
  aux   : Word
  simg  : List Byte
  deriving DecidableEq, Repr

/-- Why a slot does not issue (R103). A slot blocked by one of these executes the head at its PC again when the reason may
have gone; `walk`, `sfu`, `lanes`, `range` and `reply` wait for an event that ends the wait. -/
inductive Wait where
  /-- ready -/
  | none
  /-- a wait parcel of index and threshold (R248); it is satisfied by the semaphore file in age order -/
  | sem (idx thr age : Nat)
  /-- a read of an empty input queue of port `q` (R256) -/
  | port (q : Nat)
  /-- a push to queue `key` that finds no reservation, waiting since `age` (R255) -/
  | push (key age : Nat)
  /-- a ring or stage request of kind `kind` on the header at memory key `key`, waiting since `age` (R260, R263) -/
  | ring (key kind age : Nat)
  /-- a full/empty retry, after `n` failed attempts; the next attempt is an event 8 cc later (R161) -/
  | fe (n : Nat) (due : Nat)
  /-- `mwait` with a deadline in ns, 0 for none (R175) -/
  | monitor (deadline : Nat)
  /-- `tbwait` on the barrier at a memory key for a phase other than `ph`, its status to s[d] (R381) -/
  | barrier (key : Nat) (d : Reg) (ph : Nat)
  /-- a request to the SFU (R190) -/
  | sfu
  /-- a request to the vector lane pool (R180) -/
  | lanes
  /-- a request to the range unit (R122); `afresh` where the slot has been switched out since, and fetches its next line (R62) -/
  | range (afresh : Bool)
  /-- an outstanding reply of a remote load into s[d] of a size in bytes, zero-extended or not (R397), the parcels
  of its head, and the address in the neighbour aperture -/
  | reply (d : Reg) (size : Nat) (zx : Bool) (eng : Option Eng) (va : Word)
  /-- an access to another module at an address, whose reply is awaited until a time base value (R399) -/
  | remote (due : Nat) (va : Word)
  /-- drift credits (R120) -/
  | drift
  /-- `falign`, issued at a cycle (R121) -/
  | align (cc : Nat)
  /-- a table walk (R330) -/
  | walk
  /-- the walk queue was full; retries 16 cc later (R330) -/
  | walkFull (due : Nat)
  /-- `ctab`, whose load is in its engine (R377) -/
  | table
  /-- a read of `n` bytes of a guarded region at a memory key, parked since `age` (R359); `tries` are the failed attempts of a full/empty retry -/
  | parked (age key n tries : Nat)
  /-- a full engine inbox, journal, message allowance, unperformed writes, invalidation or settling engines: the head
  tests its condition again each time it is executed -/
  | poll
  /-- the window stores or the `l2zero` of the head have been sent to their home slices; it retires, with its signal, when they are performed
  (R321, R337) -/
  | performs (eng : Option Eng)
  /-- the slot has been stopped by a fatal fault (R462), a teardown (R465) or a kill of its own context (R471) -/
  | stopped
  deriving DecidableEq, Repr

/-- Why a read of an engine has to be tried again: it parked on a guard at an age (R359); another module's reply to a read of an address is awaited until a time base value
(R399); it waits for a table walk, or found the walk queue full (R330); or its walk has ended without a translation of a 64 KiB page. -/
inductive EngWait where
  | none
  | parked (age key n : Nat)
  | reply (va : Word) (due : Nat)
  | walk
  | full (due : Nat)
  | walked (page cause : Nat)
  deriving DecidableEq, Repr

/-! ## Gather windows -/

/-- A window descriptor (R336). -/
structure Window where
  bound : Bool
  idx   : Word
  base  : Word
  esz   : BitVec 3
  iw    : BitVec 2
  isgn  : Bool
  bytes : Bool
  cnt   : BitVec 24
  deriving DecidableEq, Repr

/-! ## Thread slots -/

/-- Monitor of a slot (R164, Table 6.5); `key` is the memory key of the watched sector, of 64 bytes. -/
structure Monitor where
  sector : BitVec 58
  key    : Nat
  armed  : Bool
  hit    : Bool
  rearm  : Bool
  deriving DecidableEq, Repr

/-- A claim of lanes (R179, R181): G lanes, the 32 vector registers and the 8 masks by lane; `id` tells one claim of a
slot from another (the model's own). -/
structure Claim where
  id : Nat
  g : Nat
  v : Vector (List (BitVec 32)) 32
  m : Vector (List Bool) 8
  deriving DecidableEq, Repr

/-- Kinds of fibre (R271). -/
inductive FibreKind where
  | dense | compressed | bitmap | singleton
  deriving DecidableEq, Repr

/-- A stream register (R273, Table 10.3). -/
structure StreamReg where
  opened : Bool
  kind   : FibreKind
  esz    : BitVec 8
  dim    : BitVec 32
  posa   : Word
  crda   : Word
  vala   : Word
  parent : Word
  fc     : Word
  fend   : Word
  win    : List (BitVec 32 × Word)
  lastc  : BitVec 32
  lv     : Bool
  dc     : BitVec 32
  dp     : Word
  dv     : Bool
  deriving DecidableEq, Repr

/-- A thread slot (R124, R129, R131, R164, R179, R183, R264, R273, R279, R339, R368, R468). -/
structure Slot where
  s       : Vector Word 32
  g       : Vector Bool 8
  pc      : Word
  /-- the image of the line held, 32 parcels, or empty when the line is to be fetched (R62) -/
  line    : List Parcel
  /-- the channel of the activation that runs, or none when the slot is free (R102) -/
  chan    : Option Nat
  fpstat  : BitVec 6
  intrap  : Bool
  ppriv   : Bool
  priv    : Bool
  lai     : Bool
  lao     : Bool
  lco     : BitVec 32
  lci     : BitVec 32
  lbo     : Word
  leo     : Word
  lbi     : Word
  lei     : Word
  /-- the cycle at which the activation started, moved on by the cycles it was switched out (R128) -/
  startCc : Nat
  epc     : Word
  ecause  : Word
  eaddr   : Word
  escr    : Word
  retrylim : BitVec 16
  mon     : Monitor
  vseed   : Word
  vcoord  : Word
  claim   : Claim
  f       : Vector StreamReg 8
  sfdet   : Word
  gfinfo  : Word
  cbar    : BitVec 24
  /-- the store queue (R154, R156, R423): stores that have retired and are not yet performed at the memory or have not entered the CDC, oldest
  first, as memory key, KEYID and bytes -/
  sq      : List (Nat × Nat × List Byte)
  lhvec   : Word
  lhpc    : Word
  lhval   : Word
  lhact   : Bool
  /-- DSTEP.STEP (R466) -/
  step    : Bool
  wait    : Wait
  /-- the index and the threshold that the wait parcel of the head at the PC has taken (R250) -/
  taken   : Option (Nat × Nat)
  /-- the PC is an LE whose line is fetched to find its successor (R147, n = 0) -/
  skip    : Bool
  /-- the head for which a single-step trap is owed once the successor is found (R466, R147) -/
  stepOwed : Option Word
  /-- the number of the activation that runs (the model's own) -/
  act     : Nat
  /-- `msend` messages of the slot not yet acknowledged or returned (R418) -/
  msgsOut : Nat
  /-- the 64 KiB page and the cause of the fault of a walk that ended without a translation, for the head that is executed
  again (R328) -/
  walkRes : Option (Nat × Nat)
  /-- the head that retired last (the model's own), which a journal refusal names (R461) -/
  last    : Word
  /-- the windows that the head at the PC has found bound and whose access is not complete: it completes under that binding (R343) -/
  wins    : List (Nat × Window)
  /-- the block from which the range form at the PC goes on after a walk (R318) -/
  block   : Nat
  /-- SFDET of the stream access whose reply is awaited (R279, R399) -/
  fetch   : Option Word
  /-- last time base read by the slot (R23) -/
  lastTs  : Word
  /-- the number of the last request that the release or range form at the PC waits for (R318, R430) -/
  rel     : Option Nat
  /-- a trap whose record is stored once a table walk has ended, with its FPC and EPC (R330, R460) -/
  entry   : Option (Trap × Word × Word)
  /-- the address that the head at the PC reads in another module, and the time base value up to which it awaits the reply (R399) -/
  reply   : Option (Word × Nat)
  deriving DecidableEq, Repr

/-! ## Cores -/

/-- Where a channel's latch came from (Table 4.6, s6 [8:6]). -/
inductive LatchSource where
  | message | post | start | armed
  deriving DecidableEq, Repr

/-- Header words 0 to 3 and a payload address: an argument latch (R97) or an inbox entry (R390). -/
structure Args where
  w0  : Word
  w1  : Word
  w2  : Word
  w3  : Word
  pay : Word
  deriving DecidableEq, Repr

/-- An entry of an inbox (R390), and whether it arrived on the request or the ordered VC (R391). -/
structure InMsg where
  args : Args
  req  : Bool
  deriving DecidableEq, Repr

/-- An entry of the handler table with its argument latch (R97). -/
structure Channel where
  haddr  : Word
  count  : BitVec 32
  reload : BitVec 32
  regs   : List Nat
  prio   : BitVec 3
  merge  : Bool
  busy   : Bool
  pend   : Bool
  en     : Bool
  latch  : Args
  src    : LatchSource
  deriving DecidableEq, Repr

/-- An entry of a queue port: data and the control bit C (R253). -/
structure PortEntry where
  data : Word
  c    : Bool
  deriving DecidableEq, Repr

/-- An input queue of a core (R253, R255): its entries, and the entries reserved and not yet landed, with the pushing
core, oldest reservation first. -/
structure PortQueue where
  entries : List PortEntry
  landing : List (Nat × PortEntry)
  deriving DecidableEq, Repr

/-- State of a journal entry (R395). -/
inductive JState where
  | free | posted | refused
  deriving DecidableEq, Repr

/-- An entry of a posted-store journal (R395): the target by its place parcel, and the activation that posted it;
`held` is a refusal not yet raised (R396). -/
structure JEntry where
  st    : JState
  cause : Nat
  slot  : Nat
  act   : Nat
  place : Place
  off   : Nat
  size  : Size
  data  : Word
  ord   : Bool
  held  : Bool
  deriving DecidableEq, Repr

/-- A core (R97, R103, R108, R253, R264, R368, R391, R395, R409). -/
structure CoreSt where
  chans  : Tbl Channel
  /-- the barrel pointer (R103) -/
  ptr    : Nat
  p      : BitVec 32
  dcred  : Vector (BitVec 16) 4
  q      : Vector PortQueue 4
  linkdir : BitVec 32
  inbox  : List InMsg
  journal : Tbl JEntry
  rch    : BitVec 6
  kch    : BitVec 6
  /-- MSGSTAT.OUT -/
  out    : Nat
  /-- CCONF (Table 13.9): CCH and the flags NV OF SAT -/
  cch    : BitVec 6
  cflags : BitVec 3
  cseq   : BitVec 16
  deriving DecidableEq, Repr

/-! ## Tiles -/

/-- A tile: its semaphore file and SEMST (R246, R264); the latest kind of update of the current cycle whose waits have not been tested (0 none, 1 an `sset` of the staging
core, 2 of the compute core, 3 a signal), and the cores of these updates (R248). -/
structure Tile where
  sem      : Tbl (BitVec 16)
  semSat   : Bool
  semFirst : BitVec 8
  upd      : Nat
  acted    : List Nat
  deriving DecidableEq, Repr

/-! ## Matrix engines -/

/-- A weight latch (R213, R237): LOADED, LOADING, the WS address and CHECK of its record, its BEATMAP, ONEH, the lowest
column that is not one-hot, and the 4,096 trit bytes of the record. -/
structure Latch where
  loaded  : Bool
  loading : Bool
  addr    : Nat
  check   : BitVec 32
  beatmap : BitVec 5
  oneh    : Bool
  badcol  : Nat
  data    : List Byte
  deriving DecidableEq, Repr

/-- A cell of an accumulator bank (R213): the signed value a and the NaN marker nf. -/
structure Cell where
  a  : BitVec 48
  nf : Bool
  deriving DecidableEq, Repr

/-- What a matrix operation does (R237 to R245). Operands in memory are keys; rows are given by NROW, the number less
one. `run` holds the address of the elements, the stride, and the address of the scales where MODE makes it read them or may still do so; `runq` the input port and, once started,
the bound target of the forward port. -/
inductive TmeKind where
  | load (l : Bool) (key addr : Nat)
  | run (va stride : Word) (scales : Option Word) (row : RowSpec)
  | runq (q : Fin 4) (fwd : Option (Fin 4)) (row : RowSpec)
  | drain (reset : Bool) (nrow frow : Nat) (bank : Bool) (v : Option Reg) (key : Nat)
  | clear (banks : BitVec 2)
  | swap
  | pass (dst src nrow esz plane : Nat)
  | cfg (clrf : Bool)
  | save (what key : Nat)
  | rest (what key : Nat)
  deriving DecidableEq, Repr

/-- What the acceptance of an operation does to MODE, BASE and ACT (R228, R237, R241, R243). -/
inductive TmeSet where
  | none
  | cfg (mode : Bool) (base : BitVec 10)
  | act (l : Bool)
  | flip
  deriving DecidableEq, Repr

/-- MODE (MXINT8), BASE and ACT (latch B) as the next accepted operation finds them (R228). -/
structure TmeConf where
  mode : Bool
  base : BitVec 10
  act  : Bool
  deriving DecidableEq, Repr

/-- An accepted operation (R214): its SEQ, MAJ and MIN, the issuing slot and its claim, MODE, BASE and the active latch fixed at
acceptance, its effect on them, its parcels; whether it has started, the rows or pieces done, the entries of a partial `mrunq` row, an
entry to be forwarded with the bound target, the age at which it began to wait for room there (R255), the ranges (key, length) that `spfr` has
freed since (R178), the words of its operands (key div 8) that it has read already (R216), and why a read of it waits. -/
structure TmeOp where
  seq     : BitVec 16
  maj     : Nat
  min     : Nat
  slot    : Nat
  claim   : Nat
  kind    : TmeKind
  conf    : TmeConf
  sets    : TmeSet
  eng     : Eng
  started : Bool
  rows    : Nat
  got     : List Word
  fwd     : Option (Nat × Option Word)
  age     : Nat
  freed   : List (Nat × Nat)
  seen    : Tbl (List Byte)
  wait    : EngWait
  deriving DecidableEq, Repr

/-- A ternary matrix engine (Table 8.1, Table 8.7); cells by 16 bank + row, 64 to a row. `resume` are the latches that a restored engine still has to
reload (R230). -/
structure Tme where
  la    : Latch
  lb    : Latch
  conf  : TmeConf
  acc   : Tbl (List Cell)
  movf  : Bool
  halt  : Bool
  fcode : Nat
  detail : Nat
  fseq  : BitVec 16
  ops   : List TmeOp
  seq   : BitVec 16
  qrows : Nat
  fch   : BitVec 6
  resume : List Bool
  deriving DecidableEq, Repr

/-! ## Copy engines -/

/-- A conversion-table slot of a copy engine (R362): the context that last loaded it, its format, its 256 entries. -/
structure TabSlot where
  owner : Nat
  fmt   : Nat
  data  : List (BitVec 16)
  deriving DecidableEq, Repr

/-- Where a copy reads (R354): the memory key of its first byte, or a global virtual address. -/
inductive CopySrc where
  | key (k : Nat)
  | glob (va : Word)
  deriving DecidableEq, Repr

/-- Where a copy writes (R354): global memory, the own aperture, a rectangle of W × H cores or clusters from a first one at an
offset of the local aperture, or a ring in the cluster of a core. -/
inductive CopyDst where
  | glob (va : Word)
  | own (key : Nat)
  | rect (unit : Bool) (first w h off : Nat)
  | ring (core off : Nat)
  deriving DecidableEq, Repr

/-- What a copy operation does (R372 to R377): a copy of rows (one row for `cpush`, `cmcast` and `cconv`), with BLK rows to a target in
turn; a weight-tile record; or the load of a table slot for a slot's s[D], from blocks of 64 bytes (physical address, KEYID) when the
table is global. -/
inductive CopyKind where
  | rows (blk : Nat)
  | record (tag : Nat) (alpha : Nat) (i0 : BitVec 32) (stoch : Option Word)
  | table (tslot fmt : Nat) (blocks : List (Nat × Nat)) (d : Reg)
  deriving DecidableEq, Repr

/-- A copy operation (R347): its SEQ, MAJ and MIN, the issuing slot with its launch, context and mode, its operands, the snapshot or the record
that it sends, the source bytes that it has read by chunk, the table slot as it stood at the start, and its progress: when it started, the acquired ring slot, the chunks that have
landed, the conditions met (code, target, address), whether one of them ends the whole copy, the conversion flags NV OF SAT, the ranges freed
since, the global bytes written, the landings of it that are not credited yet because their writes are not performed (R358), why a read or a write of it waits, and its reads
that have parked: age, key and length (R359). -/
structure CopyOp where
  id     : Nat
  seq    : BitVec 16
  maj    : Nat
  min    : Nat
  slot   : Nat
  launch : Nat
  ctx    : Nat
  priv   : Bool
  kind   : CopyKind
  src    : CopySrc
  len    : Nat
  stride : Nat
  nrows  : Nat
  conv   : Nat
  tslot  : Nat
  scale  : BitVec 32
  dst    : CopyDst
  tb     : Bool
  arr    : Bool
  bar    : Nat
  note   : Nat
  eng    : Eng
  data   : Option (List Byte)
  cache  : Tbl (List Byte)
  table  : Option (Option TabSlot)
  started : Bool
  age    : Nat
  ring   : Option Nat
  landed : List Nat
  conds  : List (Nat × Nat × Word)
  halted : Bool
  flags  : BitVec 3
  freed  : List (Nat × Nat)
  dests  : List (Nat × Nat)
  credits : List Nat
  wait   : EngWait
  parked : List (Nat × Nat × Nat)
  deriving DecidableEq, Repr

/-- A copy engine (R346), numbered 4 die + engine: its operations in acceptance order, those in progress among them, and its table slots. -/
structure CopyEngine where
  ops  : List CopyOp
  tabs : Tbl TabSlot
  deriving DecidableEq, Repr

/-! ## Collective engines -/

/-- A chunk of a collective at the engine (R405): the time base of its first contribution, that contribution without its bytes, the
contributions included by rank, whether the own one was refused, and whether no more are taken. -/
structure CollChunk where
  first  : Nat
  head   : Option Contrib
  got    : List (Nat × List Byte)
  refused : Bool
  closed : Bool
  deriving DecidableEq, Repr

/-- A collective (R402 to R408): the issuing slot with its launch, context and mode, the operands of `coll`, the descriptor once it is read,
its chunks, the CODE and address of a condition met, the global ranges written once the results have been sent to their homes, with the flags of the nodes that were
evaluated (R407), and why a read or a write of it waits. -/
structure CollOp where
  id     : Nat
  slot   : Nat
  launch : Nat
  ctx    : Nat
  priv   : Bool
  kind   : CollKind
  ty     : EltTy
  red    : RedOp
  rm     : Rm
  dst    : Word
  src    : Word
  len    : Nat
  desc   : Word
  status : Word
  started : Bool
  nrank  : Nat
  rank   : Nat
  chunk  : Nat
  timeout : Nat
  tag    : Nat
  root   : Nat
  parts  : Tbl CollChunk
  code   : Nat
  fva    : Word
  wrote  : Option (List (Nat × Nat))
  flags  : BitVec 6
  wait   : EngWait
  deriving DecidableEq, Repr

/-- A contribution of another rank that has reached an engine before the own collective has started (R405): the collective, 0 for the next of its TAG to
start, the rank, the chunk and the time base of its arrival. -/
structure EarlyPart where
  op    : Nat
  rank  : Nat
  chunk : Nat
  time  : Nat
  part  : Contrib
  deriving DecidableEq, Repr

/-! ## Lane pools and special-function units -/

/-- A request to a vector lane pool (R180): a claim of `want` lanes, at least `m`, of a slot for s[D]; a renegotiation that keeps `k`
lanes and wants `w`; or `n` lanes given back. -/
inductive LaneReq where
  | claim (slot : Nat) (d : Reg) (want m : Nat) (wait : Bool)
  | reneg (slot : Nat) (d : Reg) (k w : Nat)
  | back (n : Nat)
  deriving DecidableEq, Repr

/-- A vector lane pool of 256 lanes (R180): free lanes, requests that have arrived, and blocking requests that wait. -/
structure Pool where
  free    : Nat
  reqs    : List LaneReq
  blocked : List LaneReq
  deriving DecidableEq, Repr

/-- A request in the queue of an SFU (R190): the slot, the instruction, and the sources of the lanes, absent where a lane is
inactive. -/
structure SfuReq where
  slot : Nat
  d    : Reg
  fn   : SfnOp
  fmt  : FloatTy
  rm   : Rm
  src  : List (Option (BitVec 32))
  deriving DecidableEq, Repr

/-! ## Clusters -/

/-- An entry of the allocation table of a cluster (R157): base block, blocks, BANK, SIDE, FE, origin, owning launch. -/
structure CspAlloc where
  base   : Nat
  blocks : Nat
  bank   : Nat
  side   : Nat
  fe     : Nat
  spal   : Bool
  owner  : Nat
  deriving DecidableEq, Repr

/-- A line of a cluster data cache (R312): its 512-byte line address (pa div 512), the KEYID of its requests, a valid
bit per 64-byte sector, a dirty bit per byte, and its bytes. -/
structure CdcLine where
  la    : Nat
  key   : Nat
  valid : BitVec 8
  dirty : BitVec 512
  data  : List Host.Cell
  deriving DecidableEq, Repr

/-- A leaf held in a TLB (R329): context, page number of the size, size bits, address, KEYID, permissions U X W RD. -/
structure TlbEntry where
  ctx  : Nat
  size : Nat
  vpn  : Nat
  pa   : Nat
  key  : Nat
  u    : Bool
  x    : Bool
  w    : Bool
  rd   : Bool
  deriving DecidableEq, Repr

/-- A line of an instruction cache (R314): the line's physical address div 64, and its 64 bytes. -/
structure ILine where
  la   : Nat
  data : List Byte
  deriving DecidableEq, Repr

/-- An `iinv` not yet completed (R319): the slot that issued it, and the runs of blocks (first pa div 64, count) that it
covers. -/
structure Iinv where
  slot   : Nat
  blocks : List (Nat × Nat)
  deriving DecidableEq, Repr

/-- A guarded region (R359): its first key and length, the key of its barrier and the recorded PHASE. -/
structure GuardEntry where
  key     : Nat
  len     : Nat
  barrier : Nat
  phase   : Nat
  deriving DecidableEq, Repr

/-- A held source (R355): the ranges (first key, length) of one operation, and the operation's number. -/
structure SourceEntry where
  ranges : List (Nat × Nat)
  op     : Nat
  deriving DecidableEq, Repr

/-- A cluster (R157, R312, R314, R319, R329, R355, R359). -/
structure Cluster where
  /-- the launch that the cluster runs (R445) -/
  launch  : Option Nat
  allocs  : List CspAlloc
  /-- blocks freed and not yet zeroed (R157): base and count -/
  zeroing : List (Nat × Nat)
  /-- blocks of a save area that the queue manager has reserved (R456) -/
  reserved : Bool
  /-- WS ranges held by switched-out launches: owner, first offset, end (R456) -/
  wsHeld  : List (Nat × Nat × Nat)
  /-- where the WS instances of the launch that runs start (R157, R456) -/
  wsBase  : Nat
  cdc     : List CdcLine
  icache  : List ILine
  iinvs   : List Iinv
  tlb     : List TlbEntry
  guards  : List GuardEntry
  sources : List SourceEntry
  /-- lines of `l2pf` that are still to be prefetched: slot, address, mode, and whether into the CDC too (R320) -/
  fetches : List (Nat × Word × Bool × Bool)
  deriving DecidableEq, Repr

/-- A request to the walkers of a die (R330): the cluster, its context, an address of the page, the slots and the operations of engines (by their agent
numbers) that wait with their access kind and mode, and whether a `tlbinv` has reached the cluster meanwhile (R345). -/
structure WalkReq where
  cl    : Nat
  ctx   : Nat
  va    : Word
  slots : List (Nat × Access × Bool)
  dead  : Bool
  deriving DecidableEq, Repr

/-- An `rtake` request at a range unit (R109, R122): its slot and launch, D, B and the object. -/
structure RangeReq where
  slot   : Nat
  launch : Nat
  d      : Reg
  b      : Reg
  obj    : Nat
  deriving DecidableEq, Repr

/-- A die (R109, R330): walk requests, and `rtake` requests in arrival order. -/
structure Die where
  walks  : List WalkReq
  ranges : List RangeReq
  deriving DecidableEq, Repr

/-! ## Home slices -/

/-- A line resident in a slice (R297, R301, R302): its line address, the KEYID of its tag, whether it is dirty, its header, the bytes that
stand in its sectors (64 to a sector pointer), and, of a dirty line, the bytes that LPDDR-6 still holds.
The list of a slice's lines is in order of use, the latest first. -/
structure L2Line where
  la    : Nat
  key   : Nat
  dirty : Bool
  hdr   : BitVec 32
  data  : List Byte
  low   : List Byte
  deriving DecidableEq, Repr

/-- What a request asks of a slice (R298): a read, a prefetch (R320), a write of part of a line or of all its 512 bytes, the
zeroing of a line (R321), or an atomic that has been refused and that its slot replays (R305). -/
inductive L2Kind where
  | read | fetch | part | full | zero | atomic
  deriving DecidableEq, Repr

/-- A request to a slice (R298): its line, its KEYID, the agent that makes it (see `whoCdc`), the bytes that it writes, by offset in
the line, its number in the order of requests, and, of an engine, its virtual address. -/
structure L2Req where
  la    : Nat
  key   : Nat
  kind  : L2Kind
  who   : Nat
  data  : List (Nat × Byte)
  no    : Nat
  va    : Word
  deriving DecidableEq, Repr

/-- An entry of a write-back buffer (R304): the line address, the KEYID of its tag, the 512 bytes to be written, and the bytes that LPDDR-6
holds until then. -/
structure WbEntry where
  la   : Nat
  key  : Nat
  data : List Byte
  low  : List Byte
  deriving DecidableEq, Repr

/-- A write to a line of another module that has not been acknowledged (R398, R399): its physical address, the agent that makes it, its context,
the time base value at which it counts as lost, of an engine its virtual address, and its number in the order of requests. -/
structure AwayWrite where
  pa  : Nat
  who : Nat
  ctx : Nat
  due : Nat
  va  : Word
  no  : Nat
  deriving DecidableEq, Repr

/-- An error entry that a unit other than a slot has caused and that has not yet been written (R310, R399, R463): context, TYPE, CODE, the time
of detection, ADDR, UNIT and AUX; `sent` once its bytes are written and WR is still to be advanced. -/
structure OwedEntry where
  ctx  : Nat
  type : Nat
  code : Nat
  time : Nat
  addr : Word
  unit : Word
  aux  : Word
  sent : Bool
  deriving DecidableEq, Repr

/-- A home slice (R296 to R311). -/
structure Slice where
  lines   : List L2Line
  freeSec : Nat
  reserve : Nat
  /-- requests that are on their way or stand at the slice: prefetches, and writes that have been sent, or wait for a snoop or behind another write -/
  reqs    : List L2Req
  /-- the refusal queue, head first (R305) -/
  refused : List L2Req
  /-- fills outstanding at LPDDR-6 (R307) -/
  fills   : List L2Req
  /-- the write-back buffer, oldest first (R304) -/
  wbuf    : List WbEntry
  expand  : BitVec 64
  expevict : BitVec 64
  rsvuse  : BitVec 64
  zlines  : BitVec 64
  refusedN : BitVec 64
  deriving DecidableEq, Repr

/-! ## Keys -/

/-- An entry of the key table (R332): valid, owner context, and the two AES-256 keys (data high, tweak low). -/
structure KeyEntry where
  v     : Bool
  owner : Nat
  keys  : BitVec 512
  deriving DecidableEq, Repr

/-! ## Messages in flight -/

/-- A message on the mesh (R384, R387), by the launch that it belongs to. Cores and slots are module numbers. -/
inductive Flight where
  /-- a message that slot `slot` sent by `msend`: target core, ORD, DEC and CH in word 0, the payload -/
  | user (slot dst launch : Nat) (ord : Bool) (args : Args) (payload : List Byte)
  /-- a returned message on its way to its sender (R392) -/
  | back (slot launch : Nat) (args : Args)
  /-- the acknowledgement of an `msend` message of a slot (R390) -/
  | ack (slot launch : Nat)
  /-- a completion, fault or credit message of an engine or of the queue manager to a core; `eng` tells one engine's messages
  apart, `dests` are the global ranges (physical address, length) to invalidate before it is seen (R393); `held` is 0, or the age at which it began to wait for an inbox entry (R391) -/
  | engine (dst launch eng : Nat) (args : Args) (dests : List (Nat × Nat)) (held : Nat)
  /-- a start message (R95) -/
  | start (dst launch : Nat) (args : Args)
  /-- a posted remote store (R395) -/
  | store (src dst launch entry : Nat) (ord : Bool) (off : Nat) (bytes : List Byte)
  /-- its acknowledgement -/
  | storeAck (src launch entry : Nat)
  /-- its refusal with a code of Table 14.4 -/
  | storeRefused (src launch entry code : Nat)
  /-- the refusal of a posted store whose launch has ended (R396): context, slot, journal entry, code and address -/
  | late (ctx slot entry code : Nat) (va : Word)
  /-- a request of a remote load of a slot (R397); `age` is 0, or the age at which its read parked (R359) -/
  | load (slot dst launch off size age : Nat)
  /-- its reply: a code of Table 14.4, 0 for success, and the value -/
  | loadReply (slot launch code : Nat) (value : Word)
  /-- a drift credit for direction d of a core (R108) -/
  | credit (dst launch : Nat) (d : Fin 4)
  /-- a `cfree` message: the named core, semaphore and increment (R378); `none` names no core of the grid -/
  | cfree (dst launch ctx sem inc : Nat)
  deriving DecidableEq, Repr

/-! ## Launches and the control plane -/

/-- An allocation entry of a launch record (Table 4.2): KIND (0 tcm, 1 ws, 2 csp), BANK, FE, SIZE. -/
structure AllocEntry where
  kind : Nat
  bank : Nat
  fe   : Nat
  size : Nat
  deriving DecidableEq, Repr

/-- A channel entry of a launch record (Table 4.2). -/
structure ChanEntry where
  haddr  : Word
  count  : BitVec 32
  reload : BitVec 32
  ch     : Nat
  prio   : Nat
  cores  : Nat
  regs   : List Nat
  deriving DecidableEq, Repr

/-- A start message of a launch record (Table 4.2). -/
structure StartEntry where
  x    : Nat
  y    : Nat
  core : Nat
  w0   : Word
  w1   : Word
  w2   : Word
  w3   : Word
  deriving DecidableEq, Repr

/-- A range object (R109). -/
structure RangeObj where
  n    : Nat
  e    : Nat
  dv   : Nat
  minc : Nat
  deriving DecidableEq, Repr

/-- A real-time contract (R446, R447): period, budget, deadline in ns. -/
structure Contract where
  period   : Nat
  budget   : Nat
  deadline : Nat
  deriving DecidableEq, Repr

/-- A launch record as read (R90). -/
structure Record where
  femon  : Bool
  rtc    : Bool
  fixed  : Bool
  k      : Nat
  pw     : Nat
  ph     : Nat
  px     : Nat
  py     : Nat
  scope  : Scope
  contract : Contract
  allocs : List AllocEntry
  chans  : List ChanEntry
  segs   : List (Word × Nat × Nat)
  sems   : List (Nat × Nat)
  ranges : List RangeObj
  starts : List StartEntry
  deriving DecidableEq, Repr

/-- A launch that the queue manager has accepted (R95, R446): its stream, context and mode, its record, the placement's
north-west cluster and the state of its contract. Launches are told apart by a number of their own. -/
structure Launch where
  stream  : Nat
  ctx     : Nat
  priv    : Bool
  record  : Record
  x       : Nat
  y       : Nat
  /-- the range objects as they stand (R109) -/
  ranges  : List RangeObj
  /-- the time base at launch go, R0 (R447) -/
  r0      : Nat
  /-- the job j that runs or ran last (R447), and the next release -/
  job     : Nat
  rel     : Nat
  /-- the job has ended (R96) and its next release is awaited -/
  jobDone : Bool
  /-- nanoseconds of the budget consumed (R448), and the time base at its last switch-in -/
  used    : Nat
  since   : Nat
  /-- the job has consumed its budget without ending (R449) -/
  overrun : Bool
  cancelled : Bool
  /-- the partition is switched out (R454) -/
  out     : Bool
  deriving DecidableEq, Repr

/-- A mapped stream (R443): HEAD and TAIL, whether it is stopped (R442), the record of a checked LAUNCH entry with the placement
of an admitted contract (R446) and its cancellation, the launch that runs, the time base at which a blocked WAIT was found or last
searched for (R444), and the order in which the stream became idle. -/
structure MStream where
  head    : Nat
  tail    : Nat
  stopped : Bool
  ready   : Option Record
  placed  : Option (Nat × Nat)
  cancel  : Bool
  launch  : Option Nat
  blocked : Option Nat
  idle    : Option Nat
  deriving DecidableEq, Repr

/-- What a gang switch saves of a partition (R456): slots, cores, tiles, pools and matrix engines, the operations of copy engines with
their engines, the table slots of the context (engine, slot), TCM with its full and empty bits, guards, held sources and WS bases by
cluster, the messages of the launch that fell out of the mesh and those that have arrived since, in order (R455), and the cycle at which it stopped. -/
structure Saved where
  slots   : Tbl Slot
  cores   : Tbl CoreSt
  tiles   : Tbl Tile
  pools   : Tbl Pool
  tmes    : Tbl Tme
  copies  : List (Nat × CopyOp)
  tabs    : List (Nat × Nat × TabSlot)
  mem     : Memory
  fe      : Tbl FeBits
  guards  : Tbl (List GuardEntry)
  sources : Tbl (List SourceEntry)
  bases   : Tbl Nat
  fallen  : Tbl Flight
  held    : List Flight
  at'     : Nat
  deriving DecidableEq, Repr

/-- The queue manager (R440 to R449, R498): mapped streams; unmapped streams with entries, in the order of their first unmapped
submission; the round-robin pointer of each priority with the launches that the stream there has started since the pointer came, 256 once its turn is over; the owners of stream semaphores; saved
partitions by launch; commands taken and not yet complete (ring address, 64 bytes), those that complete later; stopped streams that are
not mapped; inherited priorities by stream, each with its semaphore (R444); and why the reads for a stream wait, by stream (R399). -/
structure Qm where
  streams : Tbl MStream
  subs    : List Nat
  turn    : Tbl (Nat × Nat)
  owners  : Tbl Nat
  saved   : Tbl Saved
  cmds    : List (Nat × List Byte)
  late    : List (Nat × List Byte)
  stops   : List Nat
  boosts  : Tbl (Nat × Nat)
  waits   : Tbl EngWait
  deriving DecidableEq, Repr

/-! ## Encoders -/

/-- A unit that an encoder has made (R452): its bytes, whether it is a key frame, the PTS, and when RD is read again; once it is sent, WR before it, the
physical address and KEYID of WR with the ranges written, whether WR has been advanced, and whether a write of it was lost. -/
structure EncUnit where
  bytes : List Byte
  key   : Bool
  pts   : Word
  due   : Nat
  off   : Nat
  sent  : Option (Nat × Nat × List (Nat × Nat))
  adv   : Bool
  lost  : Bool
  deriving DecidableEq, Repr

/-- A stream of an encoder (R450, R453): its descriptor, the number of the next frame, the frames since the last key frame, a unit that waits for room, and
why a read for it waits. -/
structure EncStream where
  valid  : Bool
  desc   : List Byte
  count  : Nat
  frames : List Byte
  pend   : Option EncUnit
  wait   : EngWait
  deriving DecidableEq, Repr

/-- A frame encoder (R450): its streams by table entry, the entry that is next in the round robin, and whether the table is to be read
again. -/
structure Encoder where
  streams : Tbl EncStream
  next    : Nat
  stale   : Bool
  deriving DecidableEq, Repr

/-! ## Host interface and management plane -/

/-- The host interface block (Table 20.1), and the signals of the two MSI-X vectors so far. -/
structure Hib where
  bcode   : BitVec 8
  trip    : Bool
  capx    : Bool
  ovr     : Bool
  recov   : Bool
  ready   : Bool
  hcrbase : Word
  log2n   : BitVec 4
  tail    : BitVec 32
  head    : BitVec 32
  rcvaddr : Word
  rcvlen  : BitVec 32
  pwr     : BitVec 32
  tmax    : BitVec 16
  cap     : BitVec 14
  msix0   : Nat
  msix1   : Nat
  deriving DecidableEq, Repr

/-- The management plane (R437, R438, R494 to R504): the image in flash, absent while it is the one that the part was made with; the SVN
to which the rollback counter has been raised; the key-transport key; SVN and body hash of the firmware that runs; the core clock in steps of
100 MHz; the rate of the trained CXL link; whether the fabric has trained, whether the module has locked once, the time base at the last
synchronisation message, and the losses recorded; the draw that gave the signature of the alias key its randomness (R503); lines that the host may hold in its caches, and lines with a snoop outstanding (R496). -/
structure Mgmt where
  flash    : Option (List Byte)
  rollback : Nat
  ktk      : Option (BitVec 256)
  fw       : Option (Nat × BitVec 256)
  clk      : Nat
  cxl      : Option Bool
  fabric   : Bool
  locked   : Bool
  lastSync : Nat
  losses   : Nat
  draw     : Nat
  held     : List Nat
  snoops   : List Nat
  deriving DecidableEq, Repr

/-! ## The machine -/

/-- Faults: the steps that the machine cannot take. -/
inductive Fault where
  /-- The core rails have been removed by the thermal trip (R504) and nothing but a module reset can follow.
  Raised by `step`. Safe: the machine stops where the manual says that it stops. -/
  | coreRailsRemoved
  deriving DecidableEq, Repr

/-- Refusals: instructions without a meaning. -/
inductive Refusal where
  /-- An instruction that the model gives no meaning yet, by its mnemonic. Raised by the arms of `exec`. Safe: the machine
  stops where the hardware goes on. -/
  | notModelled (mnemonic : String)
  deriving DecidableEq, Repr

/-- The state of the module. -/
structure State where
  mem      : Memory
  /-- the 8-byte words (memory key div 8) that hold an uncorrectable error (R310, R464); only the world outside makes one
  (log entry 8) -/
  lost     : List Nat
  /-- F and W by memory key div 8 -/
  fe       : Tbl FeBits
  slots    : Tbl Slot
  cores    : Tbl CoreSt
  tiles    : Tbl Tile
  /-- vector lane pools by octet, and queues of the SFUs by quad -/
  pools    : Tbl Pool
  sfus     : Tbl (List SfuReq)
  /-- ternary matrix engines by tile -/
  tmes     : Tbl Tme
  /-- copy engines by number, and collective engines by I/O die -/
  copies   : Tbl CopyEngine
  colls    : Tbl (List CollOp)
  /-- contributions that wait for the start of their collective, by engine, in the order of arrival (R405) -/
  early    : Tbl (List EarlyPart)
  clusters : Tbl Cluster
  dies     : Tbl Die
  launches : Tbl Launch
  slices   : Tbl Slice
  /-- writes to other modules that await their acknowledgement (R399) -/
  away     : List AwayWrite
  /-- error entries that are owed, in the order of detection (R463) -/
  owed     : List OwedEntry
  /-- lines resident in a slice or in its write-back buffer: the KEYID of the tag (R333) -/
  live     : Tbl Nat
  /-- the keys under which LPDDR-6 holds a line; not listed: plain text (R333) -/
  lineKey  : Tbl (BitVec 512)
  /-- the key table by KEYID (R332) -/
  keys     : Tbl KeyEntry
  /-- window descriptors by 256 context + window (R336) -/
  windows  : Tbl Window
  /-- CLEN by die: a bit per cluster (R27) -/
  clen     : Vector (BitVec 64) 16
  /-- SLCENH and SLCENL by die: a bit per slice (R27) -/
  slcen    : Vector (BitVec 128) 16
  /-- CHEN by I/O die: a bit per controller (R27) -/
  chen     : Vector (BitVec 12) 8
  /-- BXLANE masks by port (R27) -/
  bxlane   : Vector (BitVec 8) 18
  /-- PLACEID.MODULE (R20) -/
  module   : BitVec 10
  /-- the time base, ns (R437) -/
  tb       : Nat
  /-- core-clock cycles since module reset -/
  cc       : Nat
  /-- messages in flight, by number in the order in which they were injected -/
  net      : Tbl Flight
  /-- SPRUE (R409) -/
  sprue    : BitVec 32
  /-- DBGSTAT.ENGHALT by context (R468) -/
  enghalt  : Tbl Bool
  /-- the teardown step of Table 16.8 that is next, by context -/
  tear     : Tbl Nat
  /-- contexts whose teardown has completed (R463, R465) -/
  torn     : Tbl Bool
  /-- TBSTAT.LOCK and TBSTAT.MASTER (R468) -/
  tbLock   : Bool
  tbMaster : Bool
  /-- contexts whose engines have all been seen stopped since ENGHALT was set (R467) -/
  engStop  : Tbl Bool
  /-- ENCTAB.ADDR, pa [51:6] (R468) -/
  encTab   : BitVec 46
  /-- frame encoders by die -/
  encs     : Tbl Encoder
  qm       : Qm
  hib      : Hib
  mgmt     : Mgmt
  /-- the slot whose head or event is executed (the model's own) -/
  cur      : Nat
  /-- the item that an event without operands concerns (the model's own) -/
  sel      : Nat
  /-- the number of free values drawn so far (the model's own) -/
  free     : Nat
  /-- a counter that orders requests in time (the model's own) -/
  age      : Nat
  /-- events from outside the module, in the order in which they happen (the model's own) -/
  inputs   : List Instr
  /-- the boot event has run (the model's own) -/
  booted   : Bool
  deriving DecidableEq, Repr

/-! ## Reset -/

/-- A closed stream register (R273). -/
def StreamReg.init : StreamReg :=
  ⟨false, .dense, 0, 0, 0, 0, 0, 0, 0, 0, [], 0, false, 0, 0, false⟩

/-- No claim (R179). -/
def Claim.none : Claim := ⟨0, 0, Vector.replicate 32 [], Vector.replicate 8 []⟩

/-- A disarmed monitor (R164). -/
def Monitor.init : Monitor := ⟨0, 0, false, false, false⟩

/-- A free slot. The values are those of Table 4.6 and of the Reset columns of its CSRs; where the manual gives none for
module reset, zero (log entry 2). -/
def Slot.init : Slot where
  s := Vector.replicate 32 0
  g := Vector.replicate 8 false
  pc := 0
  line := []
  chan := none
  fpstat := 0
  intrap := false
  ppriv := false
  priv := false
  lai := false
  lao := false
  lco := 0
  lci := 0
  lbo := 0
  leo := 0
  lbi := 0
  lei := 0
  startCc := 0
  epc := 0
  ecause := 0
  eaddr := 0
  escr := 0
  retrylim := 64
  mon := Monitor.init
  vseed := 0
  vcoord := 0
  claim := Claim.none
  f := Vector.replicate 8 StreamReg.init
  sfdet := 0
  gfinfo := 0
  cbar := 0
  sq := []
  lhvec := 0
  lhpc := 0
  lhval := 0
  lhact := false
  step := false
  wait := .none
  taken := none
  skip := false
  stepOwed := none
  act := 0
  msgsOut := 0
  walkRes := none
  last := 0
  wins := []
  block := 0
  fetch := none
  lastTs := 0
  rel := none
  entry := none
  reply := none

/-- A channel that no entry names (R95 step 2): disabled, COUNT 1, RELOAD 1, PRIO 0. -/
def Channel.init : Channel := ⟨0, 1, 1, [], 0, false, false, false, false, ⟨0, 0, 0, 0, 0⟩, .armed⟩

/-- A core at reset: input queues empty, LINKDIR and the counts zero (R253, R264, R108; log entry 2). -/
def CoreSt.init : CoreSt where
  chans := []
  ptr := 0
  p := 0
  dcred := Vector.replicate 4 0
  q := Vector.replicate 4 ⟨[], []⟩
  linkdir := 0
  inbox := []
  journal := []
  rch := 0
  kch := 0
  out := 0
  cch := 0
  cflags := 0
  cseq := 0

/-- A free journal entry. -/
def JEntry.init : JEntry := ⟨.free, 0, 0, 0, 0, 0, .b, 0, false, false⟩

/-- A tile at reset: semaphores zero (R246, R264). -/
def Tile.init : Tile := ⟨[], false, 0, 0, []⟩

/-- An empty latch (Table 8.1). -/
def Latch.init : Latch := ⟨false, false, 0, 0, 0, false, 0, []⟩

/-- A cell of zero. -/
def Cell.zero : Cell := ⟨0, false⟩

/-- An engine at reset (Table 8.1). -/
def Tme.init : Tme := ⟨Latch.init, Latch.init, ⟨false, 0, false⟩, [], false, false, 0, 0, 0, [], 0, 0, 0, []⟩

/-- A copy engine at reset: no operation, no table loaded. -/
def CopyEngine.init : CopyEngine := ⟨[], []⟩

/-- A pool at reset: every lane free (R180). -/
def Pool.init : Pool := ⟨256, [], []⟩

/-- A cluster at reset: no launch, CSP free, caches and TLB empty (R157; log entry 2). -/
def Cluster.init : Cluster := ⟨none, [], [], false, [], 0, [], [], [], [], [], [], []⟩

/-- A die at reset: no requests. -/
def Die.init : Die := ⟨[], []⟩

/-- A slice at reset: nothing resident, 16 sectors in the reserve, the rest free (R303, Table 11.5). -/
def Slice.init : Slice := ⟨[], 16368, 16, [], [], [], [], 0, 0, 0, 0, 0⟩

/-- An entry of the key table that is not valid (log entry 2). -/
def KeyEntry.init : KeyEntry := ⟨false, 0, 0⟩

/-- An unbound window. -/
def Window.init : Window := ⟨false, 0, 0, 0, 0, false, false, 0⟩

/-- A stream that has just been mapped. -/
def MStream.init : MStream := ⟨0, 0, false, none, none, false, none, none, none⟩

/-- The queue manager before any command (log entry 2). -/
def Qm.init : Qm := ⟨[], [], [], [], [], [], [], [], [], []⟩

/-- A stream of an encoder that is not valid. -/
def EncStream.init : EncStream := ⟨false, [], 0, [], none, .none⟩

/-- An encoder without streams. -/
def Encoder.init : Encoder := ⟨[], 0, false⟩

/-- The HIB at reset (Table 20.1): LOG2N 4, CAP 10,000, every other field zero. -/
def Hib.init : Hib := ⟨0, false, false, false, false, false, 0, 4, 0, 0, 0, 0, 0, 0, 10000, 0, 0⟩

/-- The management plane of a part that has not booted: the clock at 1.8 GHz (R504), nothing provisioned, trained or held. -/
def Mgmt.init : Mgmt := ⟨none, 0, none, none, 18, none, false, false, 0, 0, 0, [], []⟩

/-- The machine right after module reset: nothing runs, the memory lists nothing, and the boot event is the first to happen
(R500, R437). The enable registers stand at the Reset column of 01, the values of a full part, until the boot ROM fills them from fuses (R17). -/
def State.reset : State where
  mem := []
  lost := []
  fe := []
  slots := []
  cores := []
  tiles := []
  pools := []
  sfus := []
  tmes := []
  copies := []
  colls := []
  early := []
  clusters := []
  dies := []
  launches := []
  slices := []
  away := []
  owed := []
  live := []
  lineKey := []
  keys := []
  windows := []
  clen := Vector.replicate 16 (BitVec.allOnes 64)
  slcen := Vector.replicate 16 (BitVec.allOnes 128)
  chen := Vector.replicate 8 (BitVec.allOnes 12)
  bxlane := Vector.replicate 18 (BitVec.allOnes 8)
  module := 0
  tb := 0
  cc := 0
  net := []
  sprue := 0
  enghalt := []
  tear := []
  torn := []
  tbLock := false
  tbMaster := false
  engStop := []
  encTab := 0
  encs := []
  qm := Qm.init
  hib := Hib.init
  mgmt := Mgmt.init
  cur := 0
  sel := 0
  free := 0
  age := 0
  inputs := []
  booted := false

end Sys2Proof.Machine
end

