-- ==== Sys2Proof/Machine/Base.lean ====
section
/-!
DEFINITION. The named accessors of the state: the numbers of units (R12, R14, R460), the registers of a slot, guards and flags,
and memory of every level with its writes observed by the monitors (R165).
-/

namespace Sys2Proof.Machine

/-! ## Numbers of units -/

/-- The core of slot n = 64 (32 y + x) + 4 core + slot (R460). -/
def coreOf (slot : Nat) : Nat := slot / 4

/-- The tile of a slot (R14). -/
def tileOf (slot : Nat) : Nat := slot / 8

/-- The quad of a slot (R14). -/
def quadOf (slot : Nat) : Nat := slot / 16

/-- The octet of a slot (R14). -/
def octetOf (slot : Nat) : Nat := slot / 32

/-- The cluster 32 y + x of a slot. -/
def clusterOf (slot : Nat) : Nat := slot / 64

/-- x of a cluster. -/
def clX (cl : Nat) : Nat := cl % 32

/-- y of a cluster. -/
def clY (cl : Nat) : Nat := cl / 32 % 32

/-- The die of a cluster (R12): dies are 4 across, 8 by 8 clusters each. -/
def dieOf (cl : Nat) : Nat := 4 * (clY cl / 8) + clX cl / 8

/-- The index of a cluster within its die (R12). -/
def localIdx (cl : Nat) : Nat := 8 * (clY cl % 8) + clX cl % 8

/-- The core of a slot is a compute core: odd (R14). -/
def isCompute (core : Nat) : Bool := core % 2 == 1

/-! ## Keys of memory -/

/-- Key of a TCM byte of a core. -/
def tcmKey (core off : Nat) : Nat := 2 ^ 52 + core * 2 ^ 16 + off

/-- Key of a WS byte of a tile. -/
def wsKey (tile off : Nat) : Nat := 2 ^ 53 + tile * 2 ^ 21 + off

/-- Key of a CSP byte of a cluster. -/
def cspKey (cl off : Nat) : Nat := 2 ^ 54 + cl * 2 ^ 23 + off

/-- Key of a byte of host memory (R498). -/
def hostKey (a : Nat) : Nat := 2 ^ 64 + a

/-! ## Memory -/

/-- The byte at a key; 0 where nothing is listed (log entry 3). -/
def Memory.get : Memory → Nat → Byte
  | [], _ => 0#8
  | (i, b) :: m, k => if i = k then b else Memory.get m k

/-- Writes a byte and keeps the canonical form: keys rising, no zero byte listed. -/
def Memory.put : Memory → Nat → Byte → Memory
  | [], k, b => if b = 0#8 then [] else [(k, b)]
  | (i, c) :: m, k, b =>
    if k < i then (if b = 0#8 then (i, c) :: m else (k, b) :: (i, c) :: m)
    else if i = k then (if b = 0#8 then m else (k, b) :: m)
    else (i, c) :: Memory.put m k b

/-- The canonical form of memory: keys strictly rising and no byte zero. -/
def Memory.wf : Memory → Bool
  | [] => true
  | [(_, b)] => b != 0#8
  | (i, b) :: (j, c) :: m => i < j && b != 0#8 && Memory.wf ((j, c) :: m)

/-- `n` bytes from a key. -/
def Memory.bytes (m : Memory) (k n : Nat) : List Byte := (List.range n).map fun i => m.get (k + i)

/-- Writes bytes from a key upward. -/
def Memory.puts : Memory → Nat → List Byte → Memory
  | m, _, [] => m
  | m, k, b :: t => Memory.puts (Memory.put m k b) (k + 1) t

/-- The little-endian number of `n` bytes (R4). -/
def Memory.num (m : Memory) (k n : Nat) : Nat := ofBytes (m.bytes k n)

namespace State

/-! ## Slots, cores and the other units -/

/-- Slot `n`. -/
def slot (s : State) (n : Nat) : Slot := tget Slot.init s.slots n

/-- Replaces slot `n`. -/
def setSlot (s : State) (n : Nat) (l : Slot) : State := { s with slots := tset s.slots n l }

/-- The executing slot. -/
def sl (s : State) : Slot := s.slot s.cur

/-- Replaces the executing slot. -/
def setSl (s : State) (l : Slot) : State := s.setSlot s.cur l

/-- Core `n`. -/
def core (s : State) (n : Nat) : CoreSt := tget CoreSt.init s.cores n

/-- Replaces core `n`. -/
def setCore (s : State) (n : Nat) (c : CoreSt) : State := { s with cores := tset s.cores n c }

/-- The executing slot's core number. -/
def myCore (s : State) : Nat := coreOf s.cur

/-- The executing slot's tile number. -/
def myTile (s : State) : Nat := tileOf s.cur

/-- The executing slot's cluster number. -/
def myCl (s : State) : Nat := clusterOf s.cur

/-- Tile `n`. -/
def tile (s : State) (n : Nat) : Tile := tget Tile.init s.tiles n

/-- Replaces tile `n`. -/
def setTile (s : State) (n : Nat) (t : Tile) : State := { s with tiles := tset s.tiles n t }

/-- Cluster `n`. -/
def cluster (s : State) (n : Nat) : Cluster := tget Cluster.init s.clusters n

/-- Replaces cluster `n`. -/
def setCluster (s : State) (n : Nat) (c : Cluster) : State := { s with clusters := tset s.clusters n c }

/-- Die `n`. -/
def die (s : State) (n : Nat) : Die := tget Die.init s.dies n

/-- Replaces die `n`. -/
def setDie (s : State) (n : Nat) (d : Die) : State := { s with dies := tset s.dies n d }

/-- The matrix engine of a tile. -/
def tme (s : State) (n : Nat) : Tme := tget Tme.init s.tmes n

/-- Replaces the matrix engine of a tile. -/
def setTme (s : State) (n : Nat) (e : Tme) : State := { s with tmes := tset s.tmes n e }

/-- Copy engine `n`. -/
def copyEng (s : State) (n : Nat) : CopyEngine := tget CopyEngine.init s.copies n

/-- Replaces copy engine `n`. -/
def setCopyEng (s : State) (n : Nat) (e : CopyEngine) : State := { s with copies := tset s.copies n e }

/-- The launch of number `u`. -/
def launch? (s : State) (u : Nat) : Option Launch := (s.launches.find? fun p => p.1 == u).map (·.2)

/-- Replaces launch `u`. -/
def setLaunch (s : State) (u : Nat) (l : Launch) : State := { s with launches := tset s.launches u l }

/-- The launch that a cluster runs. -/
def launchAt (s : State) (cl : Nat) : Option Launch := (s.cluster cl).launch.bind s.launch?

/-- The number of the launch of the executing slot's cluster; 0 when it runs none. -/
def myLaunch (s : State) : Nat := ((s.cluster s.myCl).launch).getD 0

/-- The context of a cluster's launch; 0 when it runs none. -/
def ctxAt (s : State) (cl : Nat) : Nat := (s.launchAt cl).elim 0 (·.ctx)

/-- The context of the executing slot. -/
def ctx (s : State) : Nat := s.ctxAt s.myCl

/-! ## Registers of the executing slot -/

/-- s[r]; s0 reads zero (R124). -/
def getS (s : State) (r : Reg) : Word := if r = 0 then 0 else s.sl.s[r]

/-- Writes s[r]; a write to s0 is discarded (R124). -/
def setS (s : State) (r : Reg) (v : Word) : State :=
  if r = 0 then s else s.setSl { s.sl with s := s.sl.s.set r v }

/-- g[i]; g0 reads one (R124). -/
def getG (s : State) (i : Fin 8) : Bool := i == 0 || s.sl.g[i]

/-- Writes g[i]; a write to g0 is discarded (R124). -/
def setG (s : State) (i : Fin 8) (v : Bool) : State :=
  if i = 0 then s else s.setSl { s.sl with g := s.sl.g.set i v }

/-- Whether the guard of a head is true (R74). -/
def guardTrue (s : State) (g : Guard) : Bool := s.getG g.gi != g.gn

/-- Writes s[r] of slot `n`, where an event delivers a result. -/
def setSAt (s : State) (n : Nat) (r : Reg) (v : Word) : State :=
  if r = 0 then s else s.setSlot n { s.slot n with s := (s.slot n).s.set r v }

/-- Sets FPSTAT flags of the executing slot (R39). -/
def addFlags (s : State) (f : BitVec 6) : State := s.setSl { s.sl with fpstat := s.sl.fpstat ||| f }

/-! ## Free values and order -/

/-- Draws a free value: the counter moves on. -/
def draw (s : State) : State := { s with free := s.free + 1 }

/-- Moves the order counter on. -/
def older (s : State) : State := { s with age := s.age + 1 }

/-! ## Memory of the module -/

/-- Whether a write of `n` bytes at a key touches the sector of a monitor. -/
def hits (m : Monitor) (k n : Nat) : Bool := m.armed && decide (m.key < k + n) && decide (k < m.key + 64)

/-- Sets HIT of every monitor whose sector a write of `n` bytes at `k` touches (R165). -/
def noteWrite (s : State) (k n : Nat) : State :=
  { s with slots := s.slots.map fun p =>
      (p.1, if hits p.2.mon k n then { p.2 with mon := { p.2.mon with hit := true } } else p.2) }

/-- Bytes from a key. -/
def read (s : State) (k n : Nat) : List Byte := s.mem.bytes k n

/-- A little-endian number of `n` bytes at a key. -/
def num (s : State) (k n : Nat) : Nat := s.mem.num k n

/-- Writes bytes at a key, observed by the monitors; a word that is written whole holds no error. -/
def write (s : State) (k : Nat) (bs : List Byte) : State :=
  ({ s with mem := s.mem.puts k bs,
            lost := s.lost.filter fun w => !(decide (k ≤ 8 * w) && decide (8 * w + 8 ≤ k + bs.length)) }).noteWrite k bs.length

/-- Whether a read of `n` bytes at a key meets an uncorrectable error. -/
def lostIn (s : State) (k n : Nat) : Bool := s.lost.any fun w => decide (8 * w < k + n) && decide (k < 8 * w + 8)

/-- Writes the `n` low bytes of a number at a key. -/
def writeNum (s : State) (k n v : Nat) : State := s.write k (bytesOf n v)

/-- F and W of the full/empty word at a key. -/
def feAt (s : State) (k : Nat) : FeBits := tget ⟨false, false⟩ s.fe (k / 8)

/-- Sets F and W of the word at a key. -/
def setFe (s : State) (k : Nat) (b : FeBits) : State := { s with fe := tset s.fe (k / 8) b }

end State
end Sys2Proof.Machine
end

