-- ==== Sys2Proof/Machine/Crypto.lean ====
section
/-!
DEFINITION. The functions that the manual takes from other standards and that one text fixes: SHA-256 (FIPS 180-4), AES-256 (FIPS 197),
XTS-AES-256 (IEEE 1619, R333) and the unwrapping of AES key wrap (SP 800-38F, R502).
-/

namespace Sys2Proof.Machine

/-! ## SHA-256 -/

/-- The 64 constants of SHA-256. -/
def shaK : List (BitVec 32) :=
  [0x428a2f98, 0x71374491, 0xb5c0fbcf, 0xe9b5dba5, 0x3956c25b, 0x59f111f1, 0x923f82a4, 0xab1c5ed5] ++
  [0xd807aa98, 0x12835b01, 0x243185be, 0x550c7dc3, 0x72be5d74, 0x80deb1fe, 0x9bdc06a7, 0xc19bf174] ++
  [0xe49b69c1, 0xefbe4786, 0x0fc19dc6, 0x240ca1cc, 0x2de92c6f, 0x4a7484aa, 0x5cb0a9dc, 0x76f988da] ++
  [0x983e5152, 0xa831c66d, 0xb00327c8, 0xbf597fc7, 0xc6e00bf3, 0xd5a79147, 0x06ca6351, 0x14292967] ++
  [0x27b70a85, 0x2e1b2138, 0x4d2c6dfc, 0x53380d13, 0x650a7354, 0x766a0abb, 0x81c2c92e, 0x92722c85] ++
  [0xa2bfe8a1, 0xa81a664b, 0xc24b8b70, 0xc76c51a3, 0xd192e819, 0xd6990624, 0xf40e3585, 0x106aa070] ++
  [0x19a4c116, 0x1e376c08, 0x2748774c, 0x34b0bcb5, 0x391c0cb3, 0x4ed8aa4a, 0x5b9cca4f, 0x682e6ff3] ++
  [0x748f82ee, 0x78a5636f, 0x84c87814, 0x8cc70208, 0x90befffa, 0xa4506ceb, 0xbef9a3f7, 0xc67178f2]

/-- The initial hash value. -/
def shaInit : List (BitVec 32) :=
  [0x6a09e667, 0xbb67ae85, 0x3c6ef372, 0xa54ff53a, 0x510e527f, 0x9b05688c, 0x1f83d9ab, 0x5be0cd19]

/-- A big-endian number. -/
def beNum (bs : List Byte) : Nat := bs.foldl (fun n b => 256 * n + b.toNat) 0

/-- A number in `n` big-endian bytes. -/
def beBytes (n v : Nat) : List Byte := (bytesOf n v).reverse

/-- The message schedule of a block, newest word first. -/
def shaSchedule (blk : List Byte) : List (BitVec 32) :=
  (List.range 48).foldl (fun w _ =>
    let x := w.getD 14 0
    let y := w.getD 1 0
    let s0 := x.rotateRight 7 ^^^ x.rotateRight 18 ^^^ (x >>> 3)
    let s1 := y.rotateRight 17 ^^^ y.rotateRight 19 ^^^ (y >>> 10)
    (w.getD 15 0 + s0 + w.getD 6 0 + s1) :: w)
    ((List.range 16).map fun i => BitVec.ofNat 32 (beNum (sliceB blk (4 * i) 4))).reverse

/-- A round of SHA-256 on the eight working variables. -/
def shaRound (h : List (BitVec 32)) (kw : BitVec 32) : List (BitVec 32) :=
  let x := fun i => h.getD i 0
  let s1 := (x 4).rotateRight 6 ^^^ (x 4).rotateRight 11 ^^^ (x 4).rotateRight 25
  let ch := (x 4 &&& x 5) ^^^ (~~~ (x 4) &&& x 6)
  let t1 := x 7 + s1 + ch + kw
  let s0 := (x 0).rotateRight 2 ^^^ (x 0).rotateRight 13 ^^^ (x 0).rotateRight 22
  let maj := (x 0 &&& x 1) ^^^ (x 0 &&& x 2) ^^^ (x 1 &&& x 2)
  [t1 + (s0 + maj), x 0, x 1, x 2, x 3 + t1, x 4, x 5, x 6]

/-- The hash value after a block. -/
def shaBlock (h : List (BitVec 32)) (blk : List Byte) : List (BitVec 32) :=
  List.zipWith (· + ·) h ((List.zipWith (· + ·) shaK (shaSchedule blk).reverse).foldl shaRound h)

/-- The padded message. -/
def shaPad (m : List Byte) : List Byte :=
  m ++ [0x80] ++ List.replicate ((119 - m.length % 64) % 64) 0 ++ beBytes 8 (8 * m.length)

/-- SHA-256 of a message, 32 bytes. -/
def sha256 (m : List Byte) : List Byte :=
  let p := shaPad m
  ((List.range (p.length / 64)).foldl (fun h i => shaBlock h ((p.drop (64 * i)).take 64)) shaInit).flatMap fun w => beBytes 4 w.toNat

/-! ## AES-256 -/

/-- Multiplication by x in GF(2^8). -/
def xtime (a : Byte) : Byte := (a <<< 1) ^^^ (if a.getLsbD 7 then 0x1B else 0)

/-- Multiplication in GF(2^8). -/
def gmul (a b : Byte) : Byte :=
  ((List.range 8).foldl (fun (p : Byte × Byte) i => (if b.getLsbD i then p.1 ^^^ p.2 else p.1, xtime p.2)) (0, a)).1

/-- The inverse in GF(2^8), 0 for 0: the power 254. -/
def ginv (a : Byte) : Byte :=
  let a2 := gmul a a
  let a3 := gmul a2 a
  let a6 := gmul a3 a3
  let a12 := gmul a6 a6
  let a15 := gmul a12 a3
  let a30 := gmul a15 a15
  let a60 := gmul a30 a30
  let a120 := gmul a60 a60
  let a240 := gmul a120 a120
  gmul (gmul a240 a12) a2

/-- The S-box. -/
def sbox (a : Byte) : Byte :=
  let b := ginv a
  b ^^^ b.rotateLeft 1 ^^^ b.rotateLeft 2 ^^^ b.rotateLeft 3 ^^^ b.rotateLeft 4 ^^^ 0x63

/-- The inverse S-box. -/
def invSbox (a : Byte) : Byte := ginv (a.rotateLeft 1 ^^^ a.rotateLeft 3 ^^^ a.rotateLeft 6 ^^^ 0x05)

/-- Bytes added in GF(2^8). -/
def xorBytes (a b : List Byte) : List Byte := List.zipWith (· ^^^ ·) a b

/-- The 60 words of the key schedule, oldest first. -/
def aesKeys (key : List Byte) : List (List Byte) :=
  ((List.range 52).foldl (fun (p : List (List Byte) × Byte) n =>
    let w := p.1
    let i := n + 8
    let t := w.headD []
    let u := if i % 8 = 0 then xorBytes ((t.drop 1 ++ t.take 1).map sbox) [p.2, 0, 0, 0] else if i % 8 = 4 then t.map sbox else t
    (xorBytes (w.getD 7 []) u :: w, if i % 8 = 0 then xtime p.2 else p.2))
    (((List.range 8).map fun i => sliceB key (4 * i) 4).reverse, 0x01)).1.reverse

/-- The round key of a round. -/
def roundKey (w : List (List Byte)) (r : Nat) : List Byte := ((w.drop (4 * r)).take 4).flatten

/-- The rows of the state shifted left, or right. -/
def shiftRows (right : Bool) (b : List Byte) : List Byte :=
  (List.range 16).map fun i =>
    let c := i / 4
    let r := i % 4
    b.getD (4 * ((if right then c + 4 - r else c + r) % 4) + r) 0

/-- The columns of the state multiplied by a polynomial. -/
def mixColumns (p : List Byte) (b : List Byte) : List Byte :=
  (List.range 16).map fun i =>
    (List.range 4).foldl (fun x k => x ^^^ gmul (p.getD k 0) (b.getD (i / 4 * 4 + (i + k) % 4) 0)) 0

/-- AES-256 encryption of a block under a key schedule. -/
def aesEnc (w : List (List Byte)) (b : List Byte) : List Byte :=
  let mid := (List.range 13).foldl (fun b r =>
    xorBytes (mixColumns [2, 3, 1, 1] (shiftRows false (b.map sbox))) (roundKey w (r + 1))) (xorBytes b (roundKey w 0))
  xorBytes (shiftRows false (mid.map sbox)) (roundKey w 14)

/-- AES-256 decryption of a block under a key schedule. -/
def aesDec (w : List (List Byte)) (b : List Byte) : List Byte :=
  let mid := (List.range 13).foldl (fun b r =>
    mixColumns [14, 11, 13, 9] (xorBytes ((shiftRows true b).map invSbox) (roundKey w (13 - r)))) (xorBytes b (roundKey w 14))
  xorBytes ((shiftRows true mid).map invSbox) (roundKey w 0)

/-! ## XTS-AES-256 (R333) -/

/-- The tweak of the next block. -/
def nextTweak (t : List Byte) : List Byte :=
  let n := 2 * ofBytes t
  bytesOf 16 (if n < 2 ^ 128 then n else (n - 2 ^ 128) ^^^ 0x87)

/-- Blocks of a data unit in ascending order, from a tweak. -/
def xtsBlocks (f : List Byte → List Byte) : Nat → List Byte → List Byte → List Byte
  | 0, _, _ => []
  | n + 1, t, bs => xorBytes (f (xorBytes (bs.take 16) t)) t ++ xtsBlocks f n (nextTweak t) (bs.drop 16)

/-- The two keys of an entry, data key first (R502). -/
def keyPair (k : BitVec 512) : List Byte × List Byte := ((beBytes 64 k.toNat).take 32, (beBytes 64 k.toNat).drop 32)

/-- A 512-byte line under the two keys of an entry with a tweak value, encrypted or decrypted (R333). -/
def xtsLine (enc : Bool) (k : BitVec 512) (tweak : Nat) (bs : List Byte) : List Byte :=
  let p := keyPair k
  let w := aesKeys p.1
  xtsBlocks (if enc then aesEnc w else aesDec w) 32 (aesEnc (aesKeys p.2) (bytesOf 16 tweak)) bs

/-- What a line that LPDDR-6 holds under one key reads as under another; no key is plain text (R22, R333). -/
def xtsReread (old new : Option (BitVec 512)) (tweak : Nat) (bs : List Byte) : List Byte :=
  let c := match old with | some k => xtsLine true k tweak bs | none => bs
  match new with | some k => xtsLine false k tweak c | none => c

/-! ## AES key wrap (R502) -/

/-- The steps of the unwrapping of eight 64-bit halves, step `t` first. -/
def unwrapSteps (w : List (List Byte)) : Nat → List Byte → List (List Byte) → List Byte × List (List Byte)
  | 0, a, r => (a, r)
  | t + 1, a, r =>
    let i := t % 8
    let b := aesDec w (xorBytes a (beBytes 8 (t + 1)) ++ r.getD i [])
    unwrapSteps w t (b.take 8) (r.set i (b.drop 8))

/-- KW unwrapping of a 72-byte blob: the two keys, data key first, or `none` where the integrity check fails. -/
def unwrapKey (kek : BitVec 256) (blob : List Byte) : Option (BitVec 512) :=
  let x := unwrapSteps (aesKeys (beBytes 32 kek.toNat)) 48 (blob.take 8) ((List.range 8).map fun i => sliceB blob (8 * i + 8) 8)
  if x.1 = List.replicate 8 0xA6 then some (BitVec.ofNat 512 (beNum x.2.flatten)) else none

end Sys2Proof.Machine
end

