-- ==== Sys2Proof/Machine/Segment.lean ====
section
/-!
DEFINITION. The segment code of the L2 (11 R299 to R302): the mode of each segment of a line, its header, the stream of a
compressed line, and the line that a header and the bytes of its sectors stand for.
-/

namespace Sys2Proof.Machine

/-- The first `n` 32-bit words of a list of bytes. -/
def wordsOf : Nat → List Byte → List Nat
  | 0, _ => []
  | n + 1, l => leAt l 0 4 :: wordsOf n (l.drop 4)

/-- The sixteen 32-bit words of segment `k` of a line. -/
def segWords (l : List Byte) (k : Nat) : List Nat := wordsOf 16 (l.drop (64 * k))

/-- wrap(a − b) of a width lies within a signed range of `n` bits (R299). -/
def nearBy (w n a b : Nat) : Bool :=
  let d := sx w (a + 2 ^ w - b)
  decide (-(2 ^ (n - 1) : Int) ≤ d) && decide (d < (2 ^ (n - 1) : Int))

/-- The doublewords of a segment: D[k] := w[2k + 1] : w[2k]. -/
def segDoubles (ws : List Nat) : List Nat := (List.range 8).map fun k => ws.getD (2 * k) 0 + 2 ^ 32 * ws.getD (2 * k + 1) 0

/-- The payload bits of a mode of Table 11.1 for a segment, where it applies. -/
def modeBits (ws : List Nat) (m : Nat) : Option Nat :=
  let w0 := ws.headD 0
  let nz := ws.filter (· != 0)
  let ds := segDoubles ws
  match m with
  | 0 => if nz = [] then some 0 else none
  | 1 => if ws.all (· == w0) then some 32 else none
  | 2 => if ws.all fun w => nearBy 32 8 w w0 then some 152 else none
  | 3 => if ws.all fun w => nearBy 32 16 w w0 then some 272 else none
  | 4 => if nz ≠ [] ∧ nz.all (fun w => nearBy 32 8 w (nz.headD 0)) then some (48 + 8 * (nz.length - 1)) else none
  | 5 => if ds.all fun d => nearBy 64 16 d (ds.headD 0) then some 176 else none
  | _ => some 512

/-- The mode of a segment and its payload bits: fewest bits, ties to the lower mode (R300); no mode has fewer than mode 0. -/
def segMode (ws : List Nat) : Nat × Nat :=
  if ws.all (· == 0) then (0, 0)
  else
    (List.range 7).foldl
      (fun best m => match modeBits ws m with
        | some b => if b < best.2 then (m, b) else best
        | none => best) (6, 513)

/-- The header of a line, a function of its 512 bytes alone (R300, R301). -/
def lineHeader (l : List Byte) : BitVec 32 :=
  let ms := (List.range 8).map fun k => segMode (segWords l k)
  let size := 32 + ms.foldl (fun n m => n + m.2) 0
  if ms.all fun m => m.1 == 0 then 0x20000000
  else if size ≤ 4096 then
    BitVec.ofNat 32 (ceilDiv size 512 * 2 ^ 24 + ms.foldr (fun m n => m.1 + 8 * n) 0)
  else 0x18000000

/-- NSEC of a header: the sectors that the line occupies. -/
def nsecOf (h : BitVec 32) : Nat := h.toNat / 2 ^ 24 % 16

/-- ZERO of a header. -/
def zeroOf (h : BitVec 32) : Bool := h.getLsbD 29

/-- The payload of a segment in a mode, as a number of so many bits (Table 11.1). -/
def segPayload (ws : List Nat) (m : Nat) : Nat :=
  let w0 := ws.headD 0
  let nz := ws.filter (· != 0)
  let ds := segDoubles ws
  let pack (w n base : Nat) (l : List Nat) : Nat := l.foldr (fun x r => (x + 2 ^ w - base) % 2 ^ n + 2 ^ n * r) 0
  match m with
  | 0 => 0
  | 1 => w0
  | 2 => w0 + 2 ^ 32 * pack 32 8 w0 (ws.drop 1)
  | 3 => w0 + 2 ^ 32 * pack 32 16 w0 (ws.drop 1)
  | 4 => ws.foldr (fun x r => (if x = 0 then 0 else 1) + 2 * r) 0 +
      2 ^ 16 * (nz.headD 0 + 2 ^ 32 * pack 32 8 (nz.headD 0) (nz.drop 1))
  | 5 => ds.headD 0 + 2 ^ 64 * pack 64 16 (ds.headD 0) (ds.drop 1)
  | _ => ws.foldr (fun x r => x + 2 ^ 32 * r) 0

/-- The bytes that a line's sectors hold (R300, R302): none, the stream of a compressed line, or the line itself. -/
def lineStream (l : List Byte) : List Byte :=
  let h := lineHeader l
  if zeroOf h then []
  else if h = 0x18000000 then l
  else
    let ms := (List.range 8).map fun k => (segWords l k, segMode (segWords l k))
    bytesOf (64 * nsecOf h)
      (h.toNat + 2 ^ 32 * ms.foldr (fun x r => segPayload x.1 x.2.1 + 2 ^ x.2.2 * r) 0)

/-! ## Decoding -/

/-- The words that a base and deltas of `n` bits stand for: each sign-extended delta is added to the base and wraps (R299). -/
def unpack (w n base : Nat) : Nat → Nat → List Nat
  | 0, _ => []
  | k + 1, v => wrapN w ((base : Int) + sx n v) :: unpack w n base k (v / 2 ^ n)

/-- The words of a zero-run segment: the first nonzero word is the base, the others take a delta each (R299, mode 4). -/
def unrun (base : Nat) : Nat → Nat → Bool → Nat → List Nat
  | 0, _, _, _ => []
  | k + 1, mask, first, v =>
    if mask % 2 = 0 then 0 :: unrun base k (mask / 2) first v
    else if first then base :: unrun base k (mask / 2) false v
    else wrapN 32 ((base : Int) + sx 8 v) :: unrun base k (mask / 2) false (v / 2 ^ 8)

/-- The sixteen words of a segment in a mode from the stream that begins with its payload, and the bits of the payload (Table 11.1). -/
def segDecode (m v : Nat) : List Nat × Nat :=
  let b := v % 2 ^ 32
  match m with
  | 0 => (List.replicate 16 0, 0)
  | 1 => (List.replicate 16 b, 32)
  | 2 => (b :: unpack 32 8 b 15 (v / 2 ^ 32), 152)
  | 3 => (b :: unpack 32 16 b 15 (v / 2 ^ 32), 272)
  | 4 => (unrun (v / 2 ^ 16 % 2 ^ 32) 16 (v % 2 ^ 16) true (v / 2 ^ 48), 48 + 8 * ((List.range 16).countP (v.testBit ·) - 1))
  | 5 => ((v % 2 ^ 64 :: unpack 64 16 (v % 2 ^ 64) 7 (v / 2 ^ 64)).flatMap fun d => [d % 2 ^ 32, d / 2 ^ 32], 176)
  | _ => ((List.range 16).map fun i => v / 2 ^ (32 * i) % 2 ^ 32, 512)

/-- The words of the segments of a stream, whose modes are given. -/
def segsDecode : List Nat → Nat → List Nat
  | [], _ => []
  | m :: t, v => (segDecode m v).1 ++ segsDecode t (v / 2 ^ (segDecode m v).2)

/-- The 512 bytes of a line with a header, from the bytes of its sectors (R299 to R302). -/
def lineDecode (h : BitVec 32) (bs : List Byte) : List Byte :=
  if zeroOf h then List.replicate 512 0
  else if h = 0x18000000 then bs
  else (segsDecode ((List.range 8).map fun k => h.toNat / 8 ^ k % 8) (ofBytes bs / 2 ^ 32)).flatMap (bytesOf 4)

end Sys2Proof.Machine
end

