-- ==== Sys2Proof/Machine/Slices.lean ====
section
/-!
DEFINITION. The home slices (11 R296 to R310): residency, sectors, the reserve, refusals, fills, the write-back buffer, snoops of the host
(20 R496), errors, and the accesses of every agent at the home of a line.
-/

namespace Sys2Proof.Machine

/-! ## Agents -/

/-- The number of a cluster data cache as the agent of a request. -/
def whoCdc (cl : Nat) : Nat := cl

/-- The number of an operation of a copy engine or a collective engine as the agent of a request. -/
def whoOp (id : Nat) : Nat := 2 ^ 20 + id

/-- The number of a slot as the agent of its window accesses, which bypass the cluster data cache (R337). -/
def whoWin (n : Nat) : Nat := 2 ^ 17 + n

/-- The number of a slot as the agent of an `l2zero`, which is ordered with the write-backs of its cluster (R321, R424). -/
def whoZero (n : Nat) : Nat := 2 ^ 17 + 2 ^ 16 + n

/-- The number of a slot as the agent of an atomic. -/
def whoSlot (n : Nat) : Nat := 2 ^ 18 + n

/-- The number of a slot as the agent of the walks of its `l2pf`s (R320, R330). -/
def whoFetch (n : Nat) : Nat := 2 ^ 18 + 2 ^ 16 + n

/-- The number of the queue manager, the error records and the encoders as the agent of a request. -/
def whoPlane : Nat := 2 ^ 19

/-- The number of the host as the agent of a request (R496). -/
def whoHost : Nat := 2 ^ 19 + 1

/-- The number of the walkers as the agent of a request (R328). -/
def whoWalk : Nat := 2 ^ 19 + 2

/-- The frame encoder of a die, as an agent. -/
def whoEnc (die : Nat) : Nat := 2 ^ 19 + 16 + die

/-- The slot of an agent number that stands for one in a request to the walkers: itself, a snapshot of it, or its `l2pf`s. -/
def slotOfWho (who : Nat) : Option Nat :=
  if who < 2 ^ 16 then some who else if whoSlot 0 ≤ who ∧ who < whoPlane then some ((who - whoSlot 0) % 2 ^ 16) else none

/-- The agent among whose writes a request is ordered: the `l2zero`s of a slot stand with the write-backs of its cluster. -/
def orderAgent (who : Nat) : Nat := if whoZero 0 ≤ who ∧ who < whoSlot 0 then whoCdc (clusterOf (who - whoZero 0)) else who

/-! ## Module memory -/

/-- Enabled LPDDR-6 channels (R26). -/
def nchan (s : State) : Nat := s.chen.toList.foldl (fun n c => n + (List.range 12).countP c.getLsbD) 0

/-- Module memory: offsets below NCHAN × 16 GiB (R31). -/
def memLimit (s : State) : Nat := nchan s * Config.channelBytes

/-- A domain physical address of the module's own memory (R328). -/
def ownMemory (s : State) (pa : Nat) : Bool := pa / 2 ^ 42 == s.module.toNat && decide (pa % 2 ^ 42 < memLimit s)

/-- The enabled slices in ascending number (R297). -/
def enabledSlices (s : State) : List Nat :=
  (List.range 2048).filter fun n => (s.slcen[n / 128]?.getD 0).getLsbD (n % 128)

/-- The home slice of a line address (R297). -/
def homeSlice (s : State) (la : Nat) : Nat :=
  let h := la * 0x9E3779B97F4A7C15 % 2 ^ 64 / 2 ^ 32
  if s.slcen = Vector.replicate 16 (BitVec.allOnes 128) then h * 2048 / 2 ^ 32
  else
    let e := enabledSlices s
    e.getD (h * e.length / 2 ^ 32) 0

/-- Slice `n`. -/
def slice (s : State) (n : Nat) : Slice := tget Slice.init s.slices n

/-- Replaces slice `n`. -/
def setSlice (s : State) (n : Nat) (c : Slice) : State := { s with slices := tset s.slices n c }

/-- The image of a line: its 512 bytes as its home slice gives them. -/
def lineImage (s : State) (la : Nat) : List Byte := s.read (512 * la) 512

/-- An image after bytes have been written to it, by offset. -/
def applied (img : List Byte) (data : List (Nat × Byte)) : List Byte := data.foldl (fun l p => l.set p.1 p.2) img

/-- Changes the image of a line by bytes at offsets; the monitors of its sectors see it (R165). -/
def imageWrite (s : State) (la : Nat) (data : List (Nat × Byte)) : State := data.foldl (fun s p => s.write (512 * la + p.1) [p.2]) s

/-- The line holds an uncorrectable error (R310). -/
def lineBad (s : State) (la : Nat) : Bool := s.lostIn (512 * la) 512

/-- The line no longer holds an error. -/
def lineMended (s : State) (la : Nat) : State := { s with lost := s.lost.filter fun w => w / 64 != la }

/-! ## Keys of lines (R332, R333) -/

/-- The keys of a KEYID; KEYID 0 is plain text (R332). -/
def keyMaterial (s : State) (k : Nat) : Option (BitVec 512) := if k = 0 then none else some (tget KeyEntry.init s.keys k).keys

/-- The keys under which LPDDR-6 holds a line (R333). -/
def lineKeyOf (s : State) (la : Nat) : Option (BitVec 512) := (s.lineKey.find? fun p => p.1 == la).map (·.2)

/-- LPDDR-6 holds a line under the keys of a KEYID. -/
def heldUnder (s : State) (la k : Nat) : State :=
  { s with lineKey := match keyMaterial s k with
      | some x => tset s.lineKey la x
      | none => tdel s.lineKey la }

/-- A request with KEYID `k` brings the line into the L2: where LPDDR-6 holds it under other keys, the bytes read are
the decryption under the new ones (R22, R333). -/
def bringLine (s : State) (la k : Nat) : State :=
  if (s.live.find? fun p => p.1 == la).isSome then s
  else
    let old := lineKeyOf s la
    let new := keyMaterial s k
    let s := { s with live := tset s.live la k }
    if old = new then s
    else heldUnder { s with mem := s.mem.puts (la * 512) (xtsReread old new (s.module.toNat * 2 ^ 33 + la) (lineImage s la)) } la k

/-! ## Sectors (R303, R304) -/

/-- Frees `n` sectors: the reserve first, up to 16. -/
def Slice.free (c : Slice) (n : Nat) : Slice :=
  let r := min n (16 - c.reserve)
  { c with reserve := c.reserve + r, freeSec := c.freeSec + (n - r) }

/-- The set of a line (R297). -/
def lineSet (la : Nat) : Nat := (la % 256) ^^^ (la / 256 % 256)

/-- The resident line. -/
def Slice.find (c : Slice) (la : Nat) : Option L2Line := c.lines.find? fun l => l.la == la

/-- Removes a resident line and frees its sectors. -/
def Slice.drop (c : Slice) (l : L2Line) : Slice :=
  Slice.free { c with lines := c.lines.filter fun x => x.la != l.la } (nsecOf l.hdr)

/-- Puts a line at the front of the use order. -/
def Slice.use (c : Slice) (l : L2Line) : Slice := { c with lines := l :: c.lines.filter fun x => x.la != l.la }

/-- Moves a dirty line into the write-back buffer, decoded into 512 bytes (R304); an error on the way leaves nothing to be written
(R310). -/
def Slice.move (c : Slice) (bad : Nat → Bool) (l : L2Line) : Slice :=
  if bad l.la then c.drop l else { c.drop l with wbuf := c.wbuf ++ [⟨l.la, l.key, lineDecode l.hdr l.data, l.low⟩] }

/-- The least recently used victim for a line, clean or dirty (R304). -/
def Slice.victim (c : Slice) (la : Nat) (dirty : Bool) : Option L2Line :=
  (c.lines.filter fun l => l.la != la && l.dirty == dirty && decide (0 < nsecOf l.hdr)).getLast?

/-- The loop of R304; the lines that leave the slice are collected. -/
def evictFor (bad : Nat → Bool) (la need : Nat) : Nat → Slice → List L2Line → Slice × List L2Line
  | 0, c, out => (c, out)
  | fuel + 1, c, out =>
    if need ≤ c.freeSec then (c, out)
    else
      match c.victim la false with
      | some v => evictFor bad la need fuel { c.drop v with expevict := c.expevict + 1 } (v :: out)
      | none =>
        match c.victim la true with
        | some v =>
          if c.wbuf.length < 16 then evictFor bad la need fuel { c.move bad v with expevict := c.expevict + 1 } (v :: out) else (c, out)
        | none => (c, out)

/-- Obtains `need` sectors for a line (R304): `top` says that the request heads the refusal queue and may use the reserve. -/
def obtain' (c : Slice) (bad : Nat → Bool) (la need : Nat) (top : Bool) : Slice × List L2Line × Bool :=
  let r := evictFor bad la need 40 c []
  if need ≤ r.1.freeSec then ({ r.1 with freeSec := r.1.freeSec - need }, r.2, true)
  else if top && decide (need ≤ r.1.reserve + r.1.freeSec) then
    ({ r.1 with freeSec := 0, reserve := r.1.reserve - (need - r.1.freeSec), rsvuse := r.1.rsvuse + 1 }, r.2, true)
  else (r.1, r.2, false)

/-- Frees a way of the set of a line that is not resident (R297, R307): `false` where a dirty victim finds no room in the buffer. -/
def wayFor (c : Slice) (bad : Nat → Bool) (la : Nat) : Slice × List L2Line × Bool :=
  let set := c.lines.filter fun l => lineSet l.la == lineSet la
  if set.length < 16 then (c, [], true)
  else
    match set.getLast? with
    | none => (c, [], true)
    | some v =>
      if !v.dirty then (c.drop v, [v], true)
      else if c.wbuf.length < 16 then (c.move bad v, [v], true)
      else (c, [], false)

/-- A line that becomes ZERO is counted (Table 11.5). -/
def Slice.count (c : Slice) (h : BitVec 32) : Slice := if zeroOf h then { c with zlines := c.zlines + 1 } else c

/-- A resident line with an image: its header and the bytes of its sectors are those of the image (R301, R302). -/
def lineOf (la key : Nat) (dirty : Bool) (img low : List Byte) : L2Line := ⟨la, key, dirty, lineHeader img, lineStream img, low⟩

/-- Allocates a line that is not resident, clean or dirty, with an image (R307). -/
def Slice.alloc (c : Slice) (bad : Nat → Bool) (l : L2Line) (top : Bool) : Slice × List L2Line × Bool :=
  match wayFor c bad l.la with
  | (c, out, false) => (c, out, false)
  | (c, out, true) =>
    match obtain' c bad l.la (nsecOf l.hdr) top with
    | (c, o2, true) => ((c.use l).count l.hdr, out ++ o2, true)
    | (c, o2, false) => (c, out ++ o2, false)

/-- A write to a resident line `l`, which becomes `l'` (R304): whether it obtained its sectors. -/
def Slice.rewrite (c : Slice) (bad : Nat → Bool) (l l' : L2Line) (top : Bool) : Slice × List L2Line × Bool :=
  let o := nsecOf l.hdr
  let n := nsecOf l'.hdr
  if n ≤ o then (((c.use l').free (o - n)).count l'.hdr, [], true)
  else
    match obtain' c bad l.la (n - o) top with
    | (c, out, true) => (({ c with expand := c.expand + 1 }.use l').count l'.hdr, out, true)
    | (c, out, false) => (c, out, false)

/-! ## Lines that leave, and errors (R310) -/

/-- An error entry is owed to the context whose KEYID a line carries (R310); KEYID 0 names none. -/
def owe (s : State) (type key la : Nat) : State :=
  if key = 0 then s
  else { s with owed := s.owed ++ [⟨(tget KeyEntry.init s.keys key).owner, type, 0, s.tb, wordN (s.module.toNat * 2 ^ 42 + 512 * la), 0, 0, false⟩] }

/-- A dirty line is lost: its bytes are those that LPDDR-6 holds, and the loss is recorded (R310). -/
def lineLost (s : State) (type key la : Nat) (low : List Byte) : State :=
  owe (lineMended { s with mem := s.mem.puts (512 * la) low } la) type key la

/-- A line is no longer live once it stands neither in the slice nor in its write-back buffer. -/
def notHeld (s : State) (n la : Nat) : State :=
  if ((slice s n).find la).isSome || (slice s n).wbuf.any (·.la == la) then s else { s with live := tdel s.live la }

/-- Lines that leave a slice wake the monitors of their sectors (R165); an error that one meets loses a dirty line and leaves a clean one as
LPDDR-6 holds it (R310). -/
def leave (s : State) (n : Nat) (out : List L2Line) : State :=
  out.foldl (fun s l =>
    let s := s.noteWrite (512 * l.la) 512
    let s := if lineBad s l.la then (if l.dirty then lineLost s 6 l.key l.la l.low else lineMended s l.la) else s
    notHeld s n l.la) s

/-! ## Writes of engines that are lost (R310, R399) -/

/-- A condition of Table 13.3 that a copy meets: its code, target and address, and whether it ends the whole copy. -/
def CopyOp.meet (o : CopyOp) (code u : Nat) (va : Word) (all : Bool) : CopyOp :=
  { o with conds := o.conds ++ [(code, u, va)], halted := o.halted || all }

/-- The operation of an engine, or the frame of an encoder, whose write meets an uncorrectable error or is lost in another module completes with its data-loss
code. -/
def opLost (s : State) (who : Nat) (va : Word) : State :=
  { s with
    copies := s.copies.map fun p => (p.1, { p.2 with ops := p.2.ops.map fun o => if whoOp o.id = who then o.meet 5 0 va true else o })
    colls := s.colls.map fun p => (p.1, p.2.map fun o => if whoOp o.id = who ∧ o.code = 0 then { o with code := 5 } else o)
    encs := s.encs.map fun p => (p.1, if whoEnc p.1 = who then
      { p.2 with streams := p.2.streams.map fun q => (q.1, { q.2 with pend := q.2.pend.map fun u => { u with lost := true } }) } else p.2) }

/-! ## Service of a request (R298, R305, R307) -/

/-- What becomes of a request: it is served; it is a write that is refused; or it meets an uncorrectable error. -/
inductive L2Ans where
  | served | refused | lost
  deriving DecidableEq, Repr

/-- The error that a request to a resident line meets (R310): a clean line is dropped, and filled again; a dirty one is lost. A write of the
whole line reads nothing of it. -/
def meetError (s : State) (n : Nat) (r : L2Req) : State × Bool :=
  if !lineBad s r.la then (s, false)
  else
    match (slice s n).find r.la with
    | none => (lineMended s r.la, false)
    | some l =>
      if r.kind = .full ∨ r.kind = .zero then (lineMended s r.la, false)
      else if l.dirty then
        (notHeld (lineLost (setSlice (s.noteWrite (512 * l.la) 512) n ((slice s n).drop l)) 5 l.key l.la l.low) n l.la, true)
      else (notHeld (lineMended (setSlice s n ((slice s n).drop l)) l.la) n l.la, false)

/-- The image of a line after a request. -/
def afterReq (s : State) (r : L2Req) : List (Nat × Byte) :=
  if r.kind = .zero then (List.range 512).map fun i => (i, 0) else r.data

/-- A write to a resident line, which keeps what LPDDR-6 holds while it is dirty. -/
def writeHit (s : State) (n : Nat) (l : L2Line) (r : L2Req) (top : Bool) : State × L2Ans :=
  let img := lineImage s r.la
  let l' := lineOf r.la l.key true (applied img (afterReq s r)) (if l.dirty then l.low else img)
  let q := (slice s n).rewrite (lineBad s) l l' top
  let t := leave (setSlice s n q.1) n q.2.1
  if q.2.2 then (imageWrite t r.la (afterReq s r), .served) else (t, .refused)

/-- A line that is not resident is filled, clean, from LPDDR-6, where a tag and sectors are found without the reserve (R307). -/
def fillLine (s : State) (n : Nat) (r : L2Req) : State × Bool :=
  let img := lineImage s r.la
  let q := (slice s n).alloc (lineBad s) (lineOf r.la r.key false img []) false
  (leave (setSlice s n q.1) n q.2.1, q.2.2)

/-- A write to a line that is not resident (R307, R321). -/
def writeMiss (s : State) (n : Nat) (r : L2Req) (top : Bool) : State × L2Ans :=
  match r.kind with
  | .part =>
    let q := fillLine s n r
    match q.2, (slice q.1 n).find r.la with
    | true, some l => writeHit q.1 n l r top
    | _, _ => (notHeld q.1 n r.la, .refused)
  | _ =>
    let img := lineImage s r.la
    let l := lineOf r.la r.key true (applied img (afterReq s r)) img
    let q := (slice s n).alloc (lineBad s) l (top && r.kind == .full)
    let t := leave (setSlice s n q.1) n q.2.1
    if q.2.2 then (imageWrite t r.la (afterReq s r), .served)
    else if r.kind = .zero then (notHeld (heldUnder (imageWrite t r.la (afterReq s r)) r.la r.key) n r.la, .served)
    else (notHeld t n r.la, .refused)

/-- The counters that a refused write leaves as they were (R305). -/
def Slice.counts (c b : Slice) : Slice := { c with expand := b.expand, expevict := b.expevict, rsvuse := b.rsvuse, zlines := b.zlines }

/-- A request that meets no error, on the resident line, or after a fill, or without allocation (R298, R304, R307). -/
def serveGood (s : State) (n : Nat) (r : L2Req) (top : Bool) : State × L2Ans :=
  let s := bringLine s r.la r.key
  match (slice s n).find r.la, r.kind with
  | some l, .read | some l, .fetch => (setSlice s n ((slice s n).use l), .served)
  | none, .read | none, .fetch => (notHeld (fillLine s n r).1 n r.la, .served)
  | some l, _ => writeHit s n l r top
  | none, _ => writeMiss s n r top

/-- Serves a request at slice `n`: it meets an error (R310), is served, or is a write that is refused and leaves every counter as it was (R305). -/
def serve (s : State) (n : Nat) (r : L2Req) (top : Bool) : State × L2Ans :=
  let e := meetError s n r
  if e.2 then (e.1, .lost)
  else
    let q := serveGood e.1 n r top
    if q.2 = .refused then (setSlice q.1 n ((slice q.1 n).counts (slice e.1 n)), .refused) else q

/-- A write that obtained no sectors is refused (R305); a replay that fails keeps its place. -/
def refuse (s : State) (n : Nat) (r : L2Req) (replay : Bool) : State :=
  let s := if replay then s else s.older
  let c := slice s n
  setSlice s n { c with refusedN := c.refusedN + 1, refused := if replay then c.refused else c.refused ++ [{ r with no := s.age }] }

/-- A request stands at its slice, or is on its way there, under the next number. -/
def enqueue (s : State) (n : Nat) (r : L2Req) : State :=
  let s := s.older
  setSlice s n { slice s n with reqs := (slice s n).reqs ++ [{ r with no := s.age }] }

/-- Serves a request, and refuses it where it obtains no sectors. -/
def serveOrRefuse (s : State) (n : Nat) (r : L2Req) : State × L2Ans :=
  let q := serve s n r false
  if q.2 = .refused then (refuse q.1 n r false, q.2) else q

/-! ## The write-back buffer (R304, R305) -/

/-- The oldest entry of the write-back buffer is written to LPDDR-6 under the key of its tag; an error that it meets loses it (R310). While writes are
refused, the least recently used dirty victim takes its place. -/
def drainOne (s : State) (n : Nat) : State :=
  match (slice s n).wbuf with
  | [] => s
  | e :: t =>
    let s := setSlice s n { slice s n with wbuf := t }
    let s := if lineBad s e.la then lineLost s 6 e.key e.la e.low
      else heldUnder { s with mem := s.mem.puts (512 * e.la) e.data } e.la e.key
    let s := notHeld s n e.la
    match (slice s n).refused, (slice s n).victim (2 ^ 42) true with
    | _ :: _, some v => leave (setSlice s n ((slice s n).move (lineBad s) v)) n [v]
    | _, _ => s

/-- Entries are written to LPDDR-6 until a line no longer stands in the buffer: a request to it waits so long (R307). -/
def drainFor (la n : Nat) : Nat → State → State
  | 0, s => s
  | fuel + 1, s => if (slice s n).wbuf.any (·.la == la) then drainFor la n fuel (drainOne s n) else s

/-! ## Requests of agents (R298) -/

/-- A kind of request that changes the image. -/
def L2Kind.isWrite : L2Kind → Bool
  | .read | .fetch => false
  | _ => true

/-- The prefetches of a line that its slice has not finished are finished before the next request to the line (R298). -/
def settleLine (s : State) (n la : Nat) : State :=
  let c := slice s n
  let mine := fun r : L2Req => r.la == la && !r.kind.isWrite
  let s := setSlice s n { c with reqs := c.reqs.filter (!mine ·), fills := c.fills.filter (!mine ·) }
  (c.fills ++ c.reqs.filter mine).foldl (fun s r => if mine r then (serve s n r false).1 else s) s

/-- Before a device write to a line that the host may hold, the slice sends a back-invalidate snoop (R496). -/
def snoopHost (s : State) (la : Nat) : State :=
  if s.mgmt.held.contains la then
    { s with mgmt := { s.mgmt with held := s.mgmt.held.filter (· != la), snoops := s.mgmt.snoops ++ [la] } }
  else s

/-- A request of a device agent waits: its line awaits the response of a snoop (R496), an earlier write to the line waits at the slice (R298), or a write of
its agent to the line has been refused (R305, R424). What the host itself requests goes before a write that waits for its response. -/
def behind (s : State) (n : Nat) (r : L2Req) : Bool :=
  (r.who != whoHost && (s.mgmt.snoops.contains r.la || (slice s n).reqs.any fun x => x.la == r.la && x.kind.isWrite)) ||
    (slice s n).refused.any fun x => x.la == r.la && orderAgent x.who == orderAgent r.who

/-- Of two requests to a line the earlier is served first (R298), but write-backs of different sectors from one cluster data cache reach the slice in any
order (R426). -/
def ordered (x r : L2Req) : Bool :=
  x.la == r.la && (x.who != r.who || x.data.any fun p => r.data.any fun q => p.1 / 64 == q.1 / 64)

/-- A request that waits at a slice may be served: no earlier one goes before it, its line is not being filled and does not stand in the write-back buffer
(R298, R307), no refused write of its agent goes before it (R424), and a write does not wait for a snoop (R496). -/
def mayServe (s : State) (n : Nat) (r : L2Req) : Bool :=
  let c := slice s n
  !(r.kind.isWrite && s.mgmt.snoops.contains r.la) && !((c.reqs.takeWhile (· != r)).any (ordered · r)) && !(c.fills.any (·.la == r.la)) &&
    !(c.wbuf.any (·.la == r.la)) && !(c.refused.any fun x => x.la == r.la && orderAgent x.who == orderAgent r.who)

/-- The host may hold the line of a device write: a snoop goes before it (R496). -/
def snoopFirst (s : State) (r : L2Req) : Bool := r.kind.isWrite && r.who != whoHost && s.mgmt.held.contains r.la

/-- Serves a request that waits at a slice: a prefetch of a line that is not resident starts a fill, and a write to a line that the host may hold sends a
snoop. A write that meets an error is made again, to what LPDDR-6 holds, and its engine is told (R310). -/
def serveWaiting (s : State) (n : Nat) (r : L2Req) : State :=
  let c := slice s n
  if snoopFirst s r then snoopHost s r.la
  else
    let s := setSlice s n { c with reqs := c.reqs.erase r }
    if r.kind = .fetch ∧ (c.find r.la).isNone then setSlice s n { slice s n with fills := (slice s n).fills ++ [r] }
    else
      let q := serveOrRefuse s n r
      if q.2 = .lost then (serveOrRefuse (opLost q.1 r.who r.va) n r).1 else q.1

/-- A request of an agent arrives at the home slice of a line of the module's own memory, and is served if it can be: a write that cannot waits there, a
read is made again. -/
def atHome (s : State) (r : L2Req) : State × L2Ans :=
  let n := homeSlice s r.la
  let s := drainFor r.la n 32 (settleLine s n r.la)
  if r.kind.isWrite then
    let s := if snoopFirst s r then snoopHost s r.la else s
    if behind s n r then (enqueue s n r, .refused) else serveOrRefuse s n r
  else if behind s n r then (s, .refused)
  else serve s n r false

/-- A write of an agent waits at a slice, or is on its way there, under a number up to `a`. -/
def writesUpTo (s : State) (who a : Nat) : Bool :=
  s.slices.any fun p => (p.2.reqs ++ p.2.refused).any fun r => r.who == who && r.kind.isWrite && decide (r.no ≤ a)

/-- An agent has a write that is not yet performed at its home slice. -/
def writesPending (s : State) (who : Nat) : Bool :=
  s.slices.any fun p => (p.2.reqs ++ p.2.refused).any fun r => r.who == who && r.kind.isWrite

/-- A write of an agent to another module, under a number up to `a`, is not yet acknowledged (R430). -/
def awayUpTo (s : State) (who a : Nat) : Bool := s.away.any fun w => w.who == who && decide (w.no ≤ a)

/-- An agent has a write to another module that is not yet acknowledged (R430). -/
def awayPending (s : State) (who : Nat) : Bool := s.away.any fun w => w.who == who

/-- A window store or an `l2zero` of a slot is not yet performed (R321, R337). -/
def unperformed (s : State) (n : Nat) : Bool :=
  writesPending s (whoWin n) || awayPending s (whoWin n) || writesPending s (whoZero n) || awayPending s (whoZero n)

/-- What a read finds at the home of a line: bytes; an uncorrectable error (R310); or that it has to be made again, behind what waits there. -/
inductive HomeAns where
  | bytes (bs : List Byte)
  | lost
  | later
  deriving DecidableEq, Repr

/-- Reads bytes within a line at their home; bytes of another module are free values (R324, R398). -/
def homeRead (s : State) (who pa key n : Nat) : State × HomeAns :=
  if ownMemory s pa then
    let q := atHome s ⟨pa % 2 ^ 42 / 512, key, .read, who, [], 0, 0⟩
    match q.2 with
    | .served => (q.1, .bytes (q.1.read (pa % 2 ^ 42) n))
    | .lost => (q.1, .lost)
    | .refused => (q.1, .later)
  else (s.draw, .bytes ((List.range n).map fun i => Config.remoteByte s.free (pa + i)))

/-- The request of a write of bytes at offsets of a line. -/
def putReq (who line key : Nat) (va : Word) (data : List (Nat × Byte)) : L2Req :=
  ⟨line % 2 ^ 33, key, if data.length = 512 then .full else .part, who, data, 0, va⟩

/-- A write to a line of another module leaves the module; its acknowledgement is awaited (R399). -/
def sendAway (s : State) (who ctx line : Nat) (va : Word) : State :=
  let s := s.older
  { s with away := s.away ++ [⟨512 * line, who, ctx, s.tb + 1000000, va, s.age⟩] }

/-- Writes bytes at offsets of a line at their home as one write (R298). An agent whose write meets an error that has lost the line writes it again, to what
LPDDR-6 holds (R310). -/
def homePut (s : State) (who ctx line key : Nat) (va : Word) (data : List (Nat × Byte)) : State × L2Ans :=
  if ownMemory s (512 * line) then
    let r := putReq who line key va data
    let q := atHome s r
    if q.2 = .lost then ((atHome q.1 r).1, .lost) else q
  else (sendAway s who ctx line va, .served)

/-- Sends a request of an agent to the home of a line, where it is performed in an event of its own (R426). -/
def homePost (s : State) (ctx line : Nat) (r : L2Req) : State :=
  if ownMemory s (512 * line) then enqueue s (homeSlice s r.la) r else sendAway s r.who ctx line r.va

/-- Writes bytes within a line at their home. -/
def homeWrite (s : State) (who ctx pa key : Nat) (bs : List Byte) : State :=
  (homePut s who ctx (pa / 512) key 0 ((List.range bs.length).map fun i => (pa % 512 + i, bs.getD i 0))).1

/-- A refused atomic of a slot stands in the refusal queue of a slice (R305). -/
def atomicMark (n la : Nat) (r : L2Req) : Bool := r.kind == .atomic && r.who == whoSlot n && r.la == la

/-- Reads and writes bytes of a line of the module's own memory as one request of slot `m` (R172, R298), after the write-backs of its cluster `cl`
to the line: the old bytes where it is served; `f` gives the new value, or none where nothing is written (R173). A refused one keeps its place in the refusal queue while the slot replays it. -/
def homeUpdate (s : State) (m cl pa key n : Nat) (f : Nat → Option Nat) : State × L2Ans × List Byte :=
  let la := pa % 2 ^ 42 / 512
  let h := homeSlice s la
  let s := snoopHost (drainFor la h 32 (settleLine s h la)) la
  let mark : L2Req := ⟨la, key, .atomic, whoSlot m, [], 0, 0⟩
  if behind s h { mark with who := whoCdc cl } then (s, .refused, [])
  else
    let e := meetError s h { mark with kind := .part }
    if e.2 then (e.1, .lost, [])
    else
      let s := bringLine e.1 la key
      let old := s.read (pa % 2 ^ 42) n
      let r : L2Req := match f (ofBytes old) with
        | some v => ⟨la, key, .part, whoSlot m, (List.range n).map fun i => (pa % 512 + i, (bytesOf n v).getD i 0), 0, 0⟩
        | none => ⟨la, key, .read, whoSlot m, [], 0, 0⟩
      let q := serve s h r (((slice s h).refused.head?).any (atomicMark m la))
      let c := slice q.1 h
      if q.2 = .served then (setSlice q.1 h { c with refused := c.refused.filter (!atomicMark m la ·) }, .served, old)
      else (refuse q.1 h mark (c.refused.any (atomicMark m la)), .refused, [])

end Sys2Proof.Machine
end

