-- ==== Sys2Proof/Machine/Access.lean ====
section
/-!
DEFINITION. Where an address lands and what it reaches: the local aperture (06 R151 to R157), the checks of a memory
access (R169), translation, TLBs and walks (12 R326 to R332), error records (16 R463), and the cluster data caches in front of the
home slices (11 R312, R313, 15 R423).
-/

namespace Sys2Proof.Machine

/-! ## Results of the parts of an instruction -/

/-- A part of an instruction ends with a value, with a trap of the slot, or with the slot blocked. -/
inductive Res (α : Type) where
  | ok (s : State) (a : α)
  | trap (s : State) (t : Trap)
  | wait (s : State) (w : Wait)

/-- Goes on after a part that ended with a value. -/
def Res.andThen {α β : Type} (r : Res α) (f : State → α → Res β) : Res β :=
  match r with
  | .ok s a => f s a
  | .trap s t => .trap s t
  | .wait s w => .wait s w

/-- SUB of an access kind (Table 16.5). -/
def subOf : Access → Nat
  | .read => 0 | .write => 1 | .fetch => 2 | .atomic => 3

/-- A trap with a cause, a SUB and an INFO. -/
def trapI (cause sub info : Nat) : Trap := ⟨cause, sub, BitVec.ofNat 32 info, 0, 0, []⟩

/-- A memory fault of a kind at an address: CAUSE 5 page, 6 access, 7 address, 8 alignment (Table 16.5). -/
def memTrap (cause : Nat) (k : Access) (va : Word) : Trap := ⟨cause, subOf k, 0, va, 0, []⟩

/-! ## The address map -/

/-- Where an address lands (Table 6.1, R152, Table 12.1). -/
inductive Where where
  | tcm (off : Nat)
  | ws (off : Nat)
  | csp (off : Nat)
  | neigh (place : Place) (off : Nat)
  | hole
  | window (w off : Nat)
  | global
  | beyond
  deriving DecidableEq, Repr

/-- The first 16 MiB of Table 6.1. -/
def localWhere (a : Nat) : Where :=
  if a < 0x10000 then .tcm a
  else if 0x200000 ≤ a ∧ a < 0x400000 then .ws (a - 0x200000)
  else if 0x800000 ≤ a ∧ a < 0x1000000 then .csp (a - 0x800000)
  else .hole

/-- The class of an address (Tables 6.1 and 12.1). -/
def whereIs (va : Word) : Where :=
  let a := va.toNat
  if a < 0x1000000 then localWhere a
  else if a < 0x10000000000 then .hole
  else if a < 0x20000000000 then .neigh (BitVec.ofNat 16 (a / 2 ^ 24)) (a % 2 ^ 24)
  else if a < 0x100000000000000 then .global
  else if a < 0x100001000000000 then .window ((a - 0x100000000000000) / 2 ^ 28) (a % 2 ^ 28)
  else if a < 2 ^ 57 then .global
  else .beyond

/-- The bytes from a local address to the end of its memory (Table 6.1). -/
def Where.bound : Where → Option Nat
  | .tcm off => some (0x10000 - off)
  | .ws off => some (0x200000 - off)
  | .csp off => some (0x800000 - off)
  | _ => none

/-- Whether a range of `n ≥ 1` bytes touches a hole of the address map (R151, R152, Table 12.1). -/
def touchesHole (va : Word) (n : Nat) : Bool :=
  match whereIs va with
  | .hole | .beyond => true
  | .neigh _ off => (localWhere off).bound.all (· < n)
  | .window _ _ | .global => decide (2 ^ 57 < va.toNat + n)
  | w => w.bound.any (· < n)

/-- The cluster that a place names, with a core number there, from an executing core (R67); `none` outside the grid. -/
def placeCore (core : Nat) (p : Place) : Option Nat :=
  let cl := core / 16
  let t := core % 16 / 2
  let n := p.toNat
  let x : Int := 4 * (clX cl : Int) + ((t % 4 : Nat) : Int) + 4 * sx 6 (n / 1024) + sx 2 (n / 4)
  let y : Int := 2 * (clY cl : Int) + ((t / 4 : Nat) : Int) + 2 * sx 6 (n / 16) + sx 1 (n / 2)
  if x < 0 ∨ 127 < x ∨ y < 0 ∨ 63 < y then none
  else
    let X := x.toNat
    let Y := y.toNat
    some (16 * (32 * (Y / 2) + X / 4) + 2 * (X % 4 + 4 * (Y % 2)) + n % 2)

/-- The cluster that a cluster place names (R67). -/
def placeCluster (cl : Nat) (p : Place) : Option Nat :=
  let x : Int := (clX cl : Int) + sx 6 (p.toNat / 1024)
  let y : Int := (clY cl : Int) + sx 6 (p.toNat / 16)
  if x < 0 ∨ 31 < x ∨ y < 0 ∨ 31 < y then none else some (32 * y.toNat + x.toNat)

/-- The place parcel that names a core from another (R67, R82). -/
def placeTo (src dst : Nat) : Place :=
  let X (c : Nat) : Int := 4 * (clX (c / 16) : Int) + ((c % 16 / 2 % 4 : Nat) : Int)
  let Y (c : Nat) : Int := 2 * (clY (c / 16) : Int) + ((c % 16 / 2 / 4 : Nat) : Int)
  let dx := X dst - X src
  let dy := Y dst - Y src
  let cdx := (dx + 2) / 4
  let cdy := -((-dy) / 2)
  BitVec.ofNat 16 (1024 * wrapN 6 cdx + 16 * wrapN 6 cdy + 4 * wrapN 2 (dx - 4 * cdx) + 2 * wrapN 1 (dy - 2 * cdy) + dst % 2)

/-- Whether a cluster is enabled (R27). -/
def clusterOn (s : State) (cl : Nat) : Bool :=
  (s.clen[dieOf cl]?.getD 0).getLsbD (localIdx cl)

/-! ## Allocations -/

/-- The sum of the sizes of the allocations of a kind. -/
def kindBytes (k : Nat) (l : List AllocEntry) : Nat := (l.filter fun a => a.kind == k).foldl (fun n a => n + a.size) 0

/-- Base offset of the tcm instance of allocation `i`: from the top of the TCM downward in entry order (R93). -/
def tcmBase (l : List AllocEntry) (i : Nat) : Nat := 65536 - kindBytes 0 (l.take (i + 1))

/-- Base offset of the ws instance of allocation `i` (R157): from `b` upward in entry order. -/
def wsBaseOf (l : List AllocEntry) (b i : Nat) : Nat := b + kindBytes 1 (l.take i)

/-- The launch's allocation of a kind that holds a byte at an offset, with its base. -/
def instanceAt (l : List AllocEntry) (kind b off : Nat) : Option (AllocEntry × Nat) :=
  (List.range l.length).findSome? fun i =>
    match l[i]? with
    | some a =>
      let base := if kind = 0 then tcmBase l i else wsBaseOf l b i
      if a.kind = kind ∧ base ≤ off ∧ off < base + a.size then some (a, base) else none
    | none => none

/-- The CSP allocation that holds a byte of a cluster and belongs to the launch that runs there (R153). -/
def cspAllocAt (s : State) (cl off : Nat) : Option CspAlloc :=
  (s.cluster cl).allocs.find? fun a =>
    decide (some a.owner = (s.cluster cl).launch) && decide (a.base * 4096 ≤ off) && decide (off < (a.base + a.blocks) * 4096)

/-- Whether a WS byte is held by a switched-out launch (R153). -/
def wsHeldAt (s : State) (cl off n : Nat) : Bool :=
  (s.cluster cl).wsHeld.any fun h => decide (h.2.1 < off + n) && decide (off < h.2.2)

/-- The waiting method of a full/empty word by its FE code: `some true` is monitor (R160); `none` is not full/empty. -/
def feMethodOf (femon : Bool) : Nat → Option Bool
  | 1 => some femon
  | 2 => some false
  | 3 => some true
  | _ => none

/-- The waiting method of the full/empty word at an offset of a local memory of a core's surroundings (R159, R160). -/
def feMethod (s : State) (cl : Nat) : Where → Option Bool
  | .tcm off => (s.launchAt cl).bind fun l => (instanceAt l.record.allocs 0 0 off).bind fun a => feMethodOf l.record.femon a.1.fe
  | .ws off => (s.launchAt cl).bind fun l =>
      (instanceAt l.record.allocs 1 (s.cluster cl).wsBase off).bind fun a => feMethodOf l.record.femon a.1.fe
  | .csp off => (s.launchAt cl).bind fun l => (cspAllocAt s cl off).bind fun a => feMethodOf l.record.femon a.fe
  | _ => none

/-- The memory key of a local byte seen from a core; 0 for an address that is not local. -/
def localKey (core : Nat) : Where → Nat
  | .tcm off => tcmKey core off
  | .ws off => wsKey (core / 2) off
  | .csp off => cspKey (core / 16) off
  | _ => 0

/-! ## Guarded regions and held sources -/

/-- PHASE of the barrier at a key (Table 13.5, bits [115:112]). -/
def barrierPhase (s : State) (k : Nat) : Nat := s.num (k + 14) 1 % 16

/-- Whether a read of `n` bytes at a key parks on a guard (R359). -/
def guarded (s : State) (cl k n : Nat) : Bool :=
  (s.cluster cl).guards.any fun g =>
    decide (g.key < k + n) && decide (k < g.key + g.len) && barrierPhase s g.barrier == g.phase

/-- Whether a store to `n` bytes at a key touches a held source range (R355). -/
def heldSource (s : State) (cl k n : Nat) : Bool :=
  (s.cluster cl).sources.any fun e => e.ranges.any fun r => decide (r.1 < k + n) && decide (k < r.1 + r.2)

/-! ## What the control plane reads -/

/-- The number in `n` bytes of the module's own memory at an offset, as the control plane finds it: it goes on only once its own writes are performed. -/
def ownNum (s : State) (off n : Nat) : Nat := s.num off n

/-- The control plane has a write that is not performed. -/
def planeBusy (s : State) : Bool := writesPending s whoPlane

/-- The home slice serves a read of the control plane (R296), or the read has to be made again, behind what waits there (R298). -/
def planeSees (s : State) (off n : Nat) : State × Bool :=
  let q := homeRead s whoPlane (s.module.toNat * 2 ^ 42 + off) 0 n
  (q.1, q.2 != .later)

/-- The home slice serves a read of the control plane. -/
def planeTouch (s : State) (off n : Nat) : State := (planeSees s off n).1

/-! ## Contexts -/

/-- The context table (R495). -/
def ctxTable : Nat := 0x01000000

/-- A field of the descriptor of a context (Table 16.1). -/
def ctxField (s : State) (c off n : Nat) : Nat := ownNum s (ctxTable + 64 * c + off) n

/-- The descriptor of a context is read at its home. -/
def ctxTouch (s : State) (c : Nat) : State := planeTouch s (ctxTable + 64 * c) 64

/-! ## Error records -/

/-- NENT of an error record is in range (R463). -/
def nentOk (n : Nat) : Bool := (List.range 17).any fun k => n == 2 ^ k && 4 ≤ k

/-- An error entry (Table 16.7) as bytes. -/
def errorBytes (e : OwedEntry) : List Byte :=
  bytesOf 1 e.type ++ bytesOf 3 0 ++ bytesOf 4 e.code ++ bytesOf 8 e.time ++ bytesOf 8 e.addr.toNat ++ bytesOf 8 e.unit.toNat ++
    bytesOf 8 e.aux.toNat ++ bytesOf 24 0

/-- The error record of a context, a physical address; 0 where it has none (R463). -/
def recordBase (s : State) (c : Nat) : Nat := ctxField s c 32 8 / 64 * 64 % 2 ^ 52

/-- Writes the first of the owed entries, of which `t` remain, to the record of its context once that can be read (R463); WR is then still to be advanced. -/
def writeEntry (s : State) (e : OwedEntry) (t : List OwedEntry) : State :=
  let b := recordBase s e.ctx
  let done := { s with owed := t }
  if b = 0 || (tget false s.torn e.ctx) then done
  else
    let o := b % 2 ^ 42
    let q := planeSees (ctxTouch done e.ctx) o 32
    if !q.2 then { q.1 with owed := e :: t } else
    let s := q.1
    let nent := ownNum s o 4
    let wr := ownNum s (o + 8) 8
    let rd := ownNum s (o + 16) 8
    if !nentOk nent || (wr + 2 ^ 64 - rd) % 2 ^ 64 == nent then
      homeWrite s whoPlane e.ctx (b + 24) 0 (bytesOf 8 (ownNum s (o + 24) 8 + 1))
    else
      let s := homeWrite s whoPlane e.ctx (b + 64 + 64 * (wr % nent)) 0 (errorBytes e)
      { s with owed := { e with sent := true } :: s.owed }

/-- Advances WR of the record of a context, once the entry is performed (R463). -/
def advanceWr (s : State) (c : Nat) : State :=
  let b := recordBase s c
  homeWrite s whoPlane c (b + 8) 0 (bytesOf 8 (ownNum s (b % 2 ^ 42 + 8) 8 + 1))

/-- Writes the entries that are owed, in the order of detection, as far as the earlier writes are performed (R463). -/
def writeOwedGo : Nat → State → State
  | 0, s => s
  | fuel + 1, s =>
    match s.owed with
    | [] => s
    | e :: t =>
      if planeBusy s then s
      else writeOwedGo fuel (if e.sent then advanceWr { s with owed := t } e.ctx else writeEntry s e t)

/-- Writes the entries that are owed. -/
def writeOwed (s : State) : State := writeOwedGo (2 * s.owed.length) s

/-- Writes an error entry of an event that is detected now, after those that are owed (R463). -/
def errorEntry (s : State) (c type code : Nat) (addr unit aux : Word) : State :=
  writeOwed { s with owed := s.owed ++ [⟨c, type, code, s.tb, addr, unit, aux, false⟩] }

/-! ## Page tables -/

/-- What a walk finds (R328): a leaf, the cause of the fault, or an entry whose read has to be made again. -/
inductive WalkOut where
  | leaf (e : TlbEntry)
  | fault (cause : Nat)
  | later
  deriving DecidableEq, Repr

/-- key_usable (R332). -/
def keyUsable (s : State) (c k : Nat) : Bool :=
  k == 0 || ((tget KeyEntry.init s.keys k).v && (tget KeyEntry.init s.keys k).owner == c)

/-- A leaf at depth `d` with size bits `sz` (R328). -/
def leafOf (s : State) (c : Nat) (va : Nat) (e d sz : Nat) : WalkOut :=
  let addr := e / 2 ^ 12 % 2 ^ 40 * 2 ^ 12
  if d < 2 ∨ addr % 2 ^ sz ≠ 0 then .fault 5
  else if fB e 3 && !fB e 2 then .fault 5
  else if !keyUsable s c (e / 2 ^ 52) then .fault 6
  else .leaf ⟨c, sz, va / 2 ^ sz, addr, e / 2 ^ 52, fB e 5, fB e 4, fB e 3, fB e 2⟩

/-- The walk of R328 from the table at `t`, depth 4 - n to depth 4, for a context; each entry is read at its home slice. An entry whose line is lost to an
error ends the walk with a data-loss fault (R310). -/
def walkGo (s : State) (c va : Nat) : Nat → Nat → State × WalkOut
  | 0, _ => (s, .fault 5)
  | n + 1, t =>
    let d := 4 - n
    let shift := [48, 39, 30, 21, 16].getD d 16
    let cnt := if d = 4 then 32 else 512
    if !ownMemory s t then (s, .fault 5)
    else
      match homeRead s whoWalk (t + 8 * (va / 2 ^ shift % cnt)) 0 8 with
      | (s, .lost) => (s, .fault 26)
      | (s, .later) => (s, .later)
      | (s, .bytes bs) =>
        let e := ofBytes bs
        if !fB e 0 || e / 2 ^ 6 % 2 ^ 6 != 0 then (s, .fault 5)
        else if fB e 1 then
          if d = 4 ∨ e / 2 ^ 52 ≠ 0 ∨ e / 4 % 16 ≠ 0 then (s, .fault 5)
          else walkGo s c va n (e / 2 ^ 12 % 2 ^ 40 * 2 ^ 12)
        else (s, leafOf s c va e d shift)

/-- A whole walk of the page tables of a context (R328). -/
def walkTable (s : State) (c : Nat) (va : Word) : State × WalkOut :=
  walkGo s c va.toNat 5 (ctxField s c 8 8 / 2 ^ 12 % 2 ^ 40 * 2 ^ 12)

/-- The permissions of a leaf for an access kind and mode (R328). -/
def permOk (e : TlbEntry) (k : Access) (priv : Bool) : Bool :=
  (match k with
    | .read => e.rd
    | .write => e.w
    | .fetch => e.x
    | .atomic => e.rd && e.w) && (priv || e.u)

/-- Whether an entry of a TLB translates an address of a context (R329). -/
def tlbHit (c : Nat) (va : Word) (e : TlbEntry) : Bool := e.ctx == c && va.toNat / 2 ^ e.size == e.vpn

/-- The physical address through an entry. -/
def entryPa (e : TlbEntry) (va : Word) : Nat := e.pa + va.toNat % 2 ^ e.size

/-- Puts an entry at the front of a cluster's TLB, which holds 2,048 (R329, least recently used). -/
def tlbPut (s : State) (cl : Nat) (e : TlbEntry) : State :=
  let c := s.cluster cl
  s.setCluster cl { c with tlb := (e :: c.tlb.filter fun x => x != e).take 2048 }

/-- What the translation of an address for an agent other than a head answers: a physical address and KEYID, the cause of a fault, or why it has to be made
again. -/
inductive XlateAns where
  | ok (pa key : Nat)
  | fault (cause : Nat)
  | later (w : EngWait)
  deriving DecidableEq, Repr

/-- Sends a walk request of an agent of a cluster to its die, merged with an earlier one for the same 64 KiB page (R330). The 64 walkers have taken the oldest
requests, and 512 more stand in the queue: where it is full, the request is made again 16 cc later. -/
def walkFor (s : State) (cl c : Nat) (who : List (Nat × Access × Bool)) (va : Word) : State × EngWait :=
  let d := s.die (dieOf cl)
  match d.walks.findIdx? fun r => r.cl == cl && r.ctx == c && r.va.toNat / 2 ^ 16 == va.toNat / 2 ^ 16 with
  | some i => (s.setDie (dieOf cl) { d with walks := d.walks.modify i fun r => { r with slots := r.slots ++ who } }, .walk)
  | none =>
    if 576 ≤ d.walks.length then (s, .full (s.cc + 16))
    else (s.setDie (dieOf cl) { d with walks := d.walks ++ [⟨cl, c, va, who, false⟩] }, .walk)

/-- Translates for an agent of a cluster that is no head (R329, R330): an operation of an engine, an `l2pf`, or the store of a trap record. `res` is what a walk
for it has found without a translation. -/
def xlateFor (s : State) (cl c who : Nat) (priv : Bool) (k : Access) (va : Word) (res : Option (Nat × Nat)) : State × XlateAns :=
  match whereIs va with
  | .global =>
    match (s.cluster cl).tlb.find? (tlbHit c va) with
    | some e => if permOk e k priv then (tlbPut s cl e, .ok (entryPa e va) e.key) else (s, .fault 6)
    | none =>
      match res.filter fun x => x.1 == va.toNat / 2 ^ 16 with
      | some x => (s, .fault x.2)
      | none => let r := walkFor s cl c [(who, k, priv)] va; (r.1, .later r.2)
  | _ => (s, .fault 6)

/-- Translates by a walk of a context's tables for an agent that has no TLB: the queue manager or an encoder (R505). -/
def xlateWalk (s : State) (c : Nat) (priv : Bool) (k : Access) (va : Word) : State × XlateAns :=
  match whereIs va with
  | .global =>
    match walkTable s c va with
    | (s, .fault f) => (s, .fault f)
    | (s, .later) => (s, .later .none)
    | (s, .leaf e) => (s, if permOk e k priv then .ok (entryPa e va) e.key else .fault 6)
  | _ => (s, .fault 6)

/-- The wait of a slot for a walk. -/
def EngWait.slotWait : EngWait → Wait
  | .full due => .walkFull due
  | _ => .walk

/-- Sends a walk request of a slot to its die (R330). -/
def walkRequest (s : State) (n : Nat) (k : Access) (va : Word) : State × Wait :=
  let r := walkFor s (clusterOf n) (s.ctxAt (clusterOf n)) [(n, k, (s.slot n).priv)] va
  (r.1, r.2.slotWait)

/-- PLACEID of a slot (Table 1.7). -/
def placeId (s : State) (n : Nat) : Word :=
  let cl := clusterOf n
  wordN (s.module.toNat * 2 ^ 38 + dieOf cl * 2 ^ 34 + clY cl * 2 ^ 29 + clX cl * 2 ^ 24 + n / 4 % 16 * 2 ^ 20 + n % 4 * 2 ^ 18)

/-- A data-loss fault of slot `m` at an address, and its error entry of TYPE 1 (R464). -/
def dataLoss {α : Type} (s : State) (m sub : Nat) (va : Word) : Res α :=
  .trap (errorEntry s (s.ctxAt (clusterOf m)) 1 26 va (placeId s m) 0) ⟨26, sub, 0, va, 0, []⟩

/-- Translates an address of slot `n`: a TLB miss blocks the slot until a walk has ended (R328 to R330). -/
def xlate (s : State) (n : Nat) (k : Access) (va : Word) : Res (Nat × Nat) :=
  let cl := clusterOf n
  match (s.cluster cl).tlb.find? (tlbHit (s.ctxAt cl) va) with
  | some e =>
    if permOk e k (s.slot n).priv then .ok (tlbPut s cl e) (entryPa e va, e.key)
    else .trap s (memTrap 6 k va)
  | none =>
    match (s.slot n).walkRes with
    | some (page, cause) =>
      let s := s.setSlot n { s.slot n with walkRes := none }
      if page = va.toNat / 2 ^ 16 then (if cause = 26 then dataLoss s n 3 va else .trap s (memTrap cause k va))
      else let r := walkRequest s n k va; .wait r.1 r.2
    | none => let r := walkRequest s n k va; .wait r.1 r.2

/-! ## Cluster data caches -/

/-- The line of a cluster data cache. -/
def cdcFind (c : Cluster) (la : Nat) : Option CdcLine := c.cdc.find? fun l => l.la == la

/-- Puts a line at the front of its cluster's cache. -/
def cdcPut (s : State) (cl : Nat) (l : CdcLine) : State :=
  let c := s.cluster cl
  s.setCluster cl { c with cdc := l :: c.cdc.filter fun x => x.la != l.la }

/-- Whether a byte of a line is dirty. -/
def cdcDirty (l : CdcLine) (o : Nat) : Bool := l.dirty.getLsbD o

/-- The offsets of the dirty bytes of a sector. -/
def dirtyOf (l : CdcLine) (sec : Nat) : List Nat := ((List.range 64).map (64 * sec + ·)).filter (cdcDirty l)

/-- A mask of `n` bits from `o`. -/
def maskAt (o n : Nat) : BitVec 512 := (BitVec.ofNat 512 (2 ^ n - 1)) <<< o

/-- The bytes of a write-back of a sector: its dirty bytes, and only those (R313). -/
def backBytes (l : CdcLine) (sec : Nat) : List (Nat × Byte) := (dirtyOf l sec).map fun o => (o, Memory.get l.data o)

/-- A sector of a line without its dirty bytes. -/
def cleaned (s : State) (cl la sec : Nat) : State :=
  let c := s.cluster cl
  s.setCluster cl { c with cdc := c.cdc.map fun x =>
    if x.la == la then { x with dirty := x.dirty &&& ~~~ (maskAt (64 * sec) 64) } else x }

/-- Writes a sector's dirty bytes back to the home slice as one byte-masked write, which arrives there before the request that follows (R172), and clears the mask; a sector
that was not valid stays invalid (R313). -/
def writeBack (s : State) (cl : Nat) (l : CdcLine) (sec : Nat) : State :=
  if dirtyOf l sec = [] then s
  else cleaned (homePut s (whoCdc cl) (s.ctxAt cl) l.la l.key 0 (backBytes l sec)).1 cl l.la sec

/-- Sends a sector's dirty bytes to the home slice as one byte-masked write and clears the mask (R313); the write is performed in an event of its own, in any
order with those of other sectors (R426). -/
def sendBack (s : State) (cl : Nat) (l : CdcLine) (sec : Nat) : State :=
  if dirtyOf l sec = [] then s
  else cleaned (homePost s (s.ctxAt cl) l.la (putReq (whoCdc cl) l.la l.key 0 (backBytes l sec))) cl l.la sec

/-- Sends every dirty sector of a line. -/
def sendLine (s : State) (cl : Nat) (l : CdcLine) : State := (List.range 8).foldl (fun s sec => sendBack s cl l sec) s

/-- Sends every dirty sector of a cluster data cache (R430). -/
def sendAll (s : State) (cl : Nat) : State := (s.cluster cl).cdc.foldl (fun s l => sendLine s cl l) s

/-- Clears every valid bit of a cluster data cache (R430); dirty bytes stay. The prefetches into it that are under way are dropped (R320). -/
def invalidateClean (s : State) (cl : Nat) : State :=
  let c := s.cluster cl
  s.setCluster cl { c with cdc := c.cdc.map (fun l => { l with valid := 0 }), fetches := c.fetches.filter fun f => !f.2.2.2 }

/-- The line for an access, allocated without a fetch where it is absent; a full set evicts its least recently used
line, whose dirty sectors are sent to their home (R312, R313, R426). -/
def cdcLine (s : State) (cl la key : Nat) : State × CdcLine :=
  match cdcFind (s.cluster cl) la with
  | some l => (s, l)
  | none =>
    let set := (s.cluster cl).cdc.filter fun l => l.la % 32 == la % 32
    let s :=
      if 16 ≤ set.length then
        match set.getLast? with
        | some v =>
          let s := sendLine s cl v
          let c := s.cluster cl
          s.setCluster cl { c with cdc := c.cdc.filter fun l => l.la != v.la }
        | none => s
      else s
    (s, ⟨la, key, 0, 0, []⟩)

/-- A load of `n` bytes hits (R313): its sector is valid, or every byte is dirty. -/
def cdcHit (l : CdcLine) (o n : Nat) : Bool := l.valid.getLsbD (o / 64) || (List.range n).all fun i => cdcDirty l (o + i)

/-- A sector filled with its bytes at home, merged beneath its dirty bytes (R313). -/
def cdcFilled (l : CdcLine) (sec : Nat) (bs : List Byte) : CdcLine :=
  { l with
    valid := l.valid ||| (1#8 <<< sec)
    data := (List.range 64).foldl
      (fun d i => if cdcDirty l (64 * sec + i) then d else Memory.put d (64 * sec + i) (bs.getD i 0)) l.data }

/-- A load of `n` bytes within a sector through the cache: a hit, or a fill (R313, R423). -/
def cdcLoad (s : State) (cl pa key n : Nat) : State × HomeAns :=
  let o := pa % 512
  let p := cdcLine s cl (pa / 512) key
  let l := p.2
  if cdcHit l o n then (cdcPut p.1 cl l, .bytes ((List.range n).map fun i => Memory.get l.data (o + i)))
  else
    match homeRead p.1 (whoCdc cl) (pa / 64 * 64) key 64 with
    | (s, .bytes bs) =>
      let l := cdcFilled l (o / 64) bs
      (cdcPut s cl l, .bytes ((List.range n).map fun i => Memory.get l.data (o + i)))
    | r => r

/-- A store of bytes within a sector into the cache (R313). -/
def cdcStore (s : State) (cl pa key : Nat) (bs : List Byte) : State :=
  let o := pa % 512
  let p := cdcLine s cl (pa / 512) key
  cdcPut p.1 cl { p.2 with
    dirty := p.2.dirty ||| maskAt o bs.length
    data := Memory.puts p.2.data o bs }

/-- Writes back, then invalidates, the sector of an address (R172, R318). -/
def cdcFlush (s : State) (cl pa : Nat) : State :=
  match cdcFind (s.cluster cl) (pa / 512) with
  | some l =>
    let sec := pa % 512 / 64
    let s := writeBack s cl l sec
    let c := s.cluster cl
    s.setCluster cl { c with cdc := c.cdc.map fun x =>
      if x.la == l.la then { x with valid := x.valid &&& ~~~ (1#8 <<< sec) } else x }
  | none => s

/-- Invalidates the sector of an address and discards its dirty bytes (R318). -/
def cdcDiscard (s : State) (cl pa : Nat) : State :=
  let sec := pa % 512 / 64
  let c := s.cluster cl
  s.setCluster cl { c with cdc := c.cdc.map fun x =>
    if x.la == pa / 512 then
      { x with valid := x.valid &&& ~~~ (1#8 <<< sec), dirty := x.dirty &&& ~~~ (maskAt (64 * sec) 64) } else x }

/-! ## The checks of a slot's access -/

/-- What an access reaches once it is checked. -/
inductive Loc where
  /-- a byte of TCM, WS or CSP by its memory key -/
  | mem (key : Nat)
  /-- a global byte: physical address and KEYID -/
  | glob (pa key : Nat)
  /-- the neighbour aperture: the target core's place and the offset there -/
  | remote (place : Place) (off : Nat)
  /-- bytes of a bound window -/
  | win (w off : Nat)
  /-- the configuration window, at an offset -/
  | cfg (off : Nat)
  deriving DecidableEq, Repr

/-- Descriptor `w` of the context of slot `m`; an access that is not complete keeps the binding that it found (R343). -/
def windowOf (s : State) (m w : Nat) : Window :=
  match (s.slot m).wins.find? fun p => p.1 == w with
  | some p => p.2
  | none => tget Window.init s.windows (256 * s.ctxAt (clusterOf m) + w)

/-- The element size of a window (R336). -/
def winEsz (w : Window) : Nat := 2 ^ w.esz.toNat

/-- Checks 2 to 4 of R169 for `n` bytes at an address of slot `m` (R151, R152, R153, R338): `none`, or the trap.
`plain` is a load or store; the others raise an access fault in the neighbour aperture and in a window. -/
def checkWhere (s : State) (m : Nat) (k : Access) (plain : Bool) (va : Word) (n : Nat) : Option Trap :=
  let cl := clusterOf m
  match whereIs va with
  | .hole => some (memTrap 7 k va)
  | .beyond => some (memTrap 7 k va)
  | .tcm _ => none
  | .ws off => if wsHeldAt s cl off n then some (memTrap 6 k va) else none
  | .csp off => if (cspAllocAt s cl off).isNone then some (memTrap 6 k va) else none
  | .neigh p off =>
    if localWhere off = .hole then some (memTrap 7 k va)
    else if (placeCore (coreOf m) p).isNone then some (trapI 9 0 p.toNat)
    else if plain then none else some (memTrap 6 k va)
  | .window w off =>
    let d := windowOf s m w
    if plain then
      if d.bound && decide (off + n ≤ d.cnt.toNat * winEsz d) then none else some (memTrap 7 k va)
    else some (memTrap 6 k va)
  | .global => none

/-- Whether the bytes of a range of `n ≥ 1` fall in two classes of global address (R323, Table 12.1). -/
def splitsClass (va : Word) (n : Nat) : Bool :=
  match whereIs va with
  | .global => decide (va.toNat < 0x100000000000000) && decide (0x100000000000000 < va.toNat + n)
  | .window _ _ => decide (0x100001000000000 < va.toNat + n)
  | _ => false

/-- Checks 2 and 3 of R169 for a range of `n ≥ 1` bytes of slot `m`: a hole, bytes in two classes, a place outside the grid. -/
def rangeAddress (s : State) (m : Nat) (k : Access) (va : Word) (n : Nat) : Option Trap :=
  if touchesHole va n || splitsClass va n then some (memTrap 7 k va)
  else
    match whereIs va with
    | .neigh p _ => if (placeCore (coreOf m) p).isNone then some (trapI 9 0 p.toNat) else none
    | _ => none

/-- What a translated address reaches (R324, R325): module memory, another module, the configuration window, or
nothing. `ld8` says that the access is an 8-byte load. -/
def globLoc (s : State) (m : Nat) (k : Access) (va : Word) (ld8 : Bool) (pa key : Nat) : Except Trap Loc :=
  let off := pa % 2 ^ 42
  let own := pa / 2 ^ 42 == s.module.toNat
  if 0x3C000000000 ≤ off ∧ off < 0x3C040000000 then
    if !(s.slot m).priv then .error (trapI 3 0 0)
    else if own && ld8 then .ok (.cfg (off - 0x3C000000000)) else .error (memTrap 6 k va)
  else if own && decide (memLimit s ≤ off) then .error (memTrap 7 k va)
  else if !own && decide (96 * Config.channelBytes ≤ off) then .error (memTrap 7 k va)
  else .ok (.glob pa key)

/-- The checks of R169 in order for an access of slot `m` of `n` bytes, `n` a power of two: alignment, address, place,
access, copy source (R355) and translation. `plain` is a load or store; `store` writes. -/
def locate (s : State) (m : Nat) (k : Access) (plain store : Bool) (va : Word) (n : Nat) : Res Loc :=
  if va.toNat % n ≠ 0 then .trap s (memTrap 8 k va)
  else
    match checkWhere s m k plain va n with
    | some t => .trap s t
    | none =>
      match whereIs va with
      | .neigh p off => .ok s (.remote p off)
      | .window w off => .ok s (.win w off)
      | .global =>
        (xlate s m k va).andThen fun s r =>
          match globLoc s m k va (plain && !store && n == 8) r.1 r.2 with
          | .ok l => .ok s l
          | .error t => .trap s t
      | w =>
        let key := localKey (coreOf m) w
        if store && heldSource s (clusterOf m) key n then .trap s (trapI 21 0 0) else .ok s (.mem key)

end Sys2Proof.Machine
end

