-- ==== Sys2Proof/Machine/Mcb.lean ====
section
/-!
DEFINITION. The configuration window: the module configuration block (01 R17 to R20, R26, R27) and the counter blocks of the
slices (11 R311).
-/

namespace Sys2Proof.Machine

/-- DEVID (Table 1.5). -/
def devid : Word := 0x96004021

/-- ISAVER (Table 1.6). -/
def isaver : Word := 0x0100

/-- WIDTH of a Bruxaoz port from its enabled-lane mask (R27). -/
def laneWidth (m : BitVec 8) : Nat :=
  if m = 0xFF then 8 else if m &&& 0x0F = 0x0F then 4 else if m &&& 0xF0 = 0xF0 then 4 else 0

/-- The number of one bits of a vector. -/
def ones {w : Nat} (v : BitVec w) : Nat := (List.range w).countP v.getLsbD

/-- The enable masks of a part (R25): a mask that no part has stands for full units. -/
def partMasks {w n : Nat} (ok : BitVec w → Bool) (v : Vector (BitVec w) n) : Vector (BitVec w) n := v.map fun m => if ok m then m else BitVec.allOnes w

/-- CLEN as the fuses give it: at least 60 clusters of a die (R25). -/
def partClen : Vector (BitVec 64) 16 := partMasks (fun m => decide (60 ≤ ones m)) Config.fusedClen

/-- SLCENH and SLCENL as the fuses give them: at least 124 slices of a die (R25). -/
def partSlcen : Vector (BitVec 128) 16 := partMasks (fun m => decide (124 ≤ ones m)) Config.fusedSlcen

/-- CHEN as the fuses give it: at least 11 channels of an I/O die (R25). -/
def partChen : Vector (BitVec 12) 8 := partMasks (fun m => decide (11 ≤ ones m)) Config.fusedChen

/-- The BXLANE masks as the fuses give them: lanes 0–3 or lanes 4–7 of a port (R25). -/
def partBxlane : Vector (BitVec 8) 18 := partMasks (fun m => laneWidth m != 0) Config.fusedBxlane

/-- CFGSUM (Table 1.10). -/
def cfgsum (s : State) : Word :=
  wordN (s.clen.toList.foldl (fun n c => n + ones c) 0 * 2 ^ 41 + (enabledSlices s).length * 2 ^ 29 + nchan s * 2 ^ 22 +
    s.bxlane.toList.foldl (fun n c => n + laneWidth c) 0 * 2 ^ 14)

/-- A register of the MCB at an offset (Table 1.4); an offset that is not listed reads zero. -/
def mcbRead (s : State) (off : Nat) : Word :=
  if off = 0 then devid
  else if off = 8 then isaver
  else if off = 16 then cfgsum s
  else if 0x100 ≤ off ∧ off < 0x180 then s.clen[(off - 0x100) / 8]?.getD 0
  else if 0x200 ≤ off ∧ off < 0x300 then
    let v := s.slcen[(off - 0x200) / 16]?.getD 0
    if off % 16 = 0 then v.extractLsb' 0 64 else v.extractLsb' 64 64
  else if 0x300 ≤ off ∧ off < 0x340 then wordN (s.chen[(off - 0x300) / 8]?.getD 0).toNat
  else if 0x400 ≤ off ∧ off < 0x490 then
    let m := s.bxlane[(off - 0x400) / 8]?.getD 0
    wordN (m.toNat + 256 * laneWidth m)
  else 0

/-- A counter of slice `n` (Tables 11.4 and 11.5). -/
def sliceCounter (s : State) (n off : Nat) : Word :=
  let c := tget Slice.init s.slices n
  if !(s.slcen[n / 128]?.getD 0).getLsbD (n % 128) then 0
  else if off < 0x48 then wordN (c.lines.countP fun l => nsecOf l.hdr == off / 8)
  else if off = 0x48 then wordN c.freeSec
  else if off = 0x50 then wordN c.reserve
  else if off = 0x58 then c.expand
  else if off = 0x60 then c.expevict
  else if off = 0x68 then c.rsvuse
  else if off = 0x70 then c.zlines
  else c.refusedN

/-- An 8-byte load of the configuration window (R325). -/
def cfgRead (s : State) (off : Nat) : Word :=
  if off < 0x100000 then mcbRead s off
  else if off < 0x100000 + 0x80 * 2048 then sliceCounter s ((off - 0x100000) / 0x80) (off % 0x80)
  else 0

end Sys2Proof.Machine
end

