-- ==== Sys2Proof/Machine/Ops.lean ====
section
/-!
DEFINITION. The shared operations of a step: releases and acquires (15 R430), semaphores (09 R247 to R251), error records
(16 R463), traps and their record (05 R132, 16 R459 to R462), the return from one, the arrival rule (04 R99), the
retirement of a head with its end check (05 R133), journal refusals (14 R396) and single steps (16 R466), and the issue of
a head with its guard and its wait and signal parcels (03 R74, 09 R249).
-/

namespace Sys2Proof.Machine

/-! ## The store queue (R154, R156, R423, R425) -/

/-- The oldest store of a slot's store queue is performed: at its local memory, or into the cluster data cache. -/
def storeEnters (s : State) (n : Nat) : State :=
  match (s.slot n).sq with
  | [] => s
  | e :: t =>
    let s := s.setSlot n { s.slot n with sq := t }
    if e.1 < 2 ^ 52 then cdcStore s (clusterOf n) e.1 e.2.1 e.2.2 else s.write e.1 e.2.2

/-- Every store of a slot's store queue is performed, in order: so much goes before the next access of the slot (R425). -/
def storesEnter (s : State) (n : Nat) : State := (s.slot n).sq.foldl (fun s _ => storeEnters s n) s

/-- A store of a slot to a memory key retires into its store queue of 8 entries; the oldest entry is performed where there is no room (R154). -/
def queueStore (s : State) (n k key : Nat) (bs : List Byte) : State :=
  let s := if 8 ≤ (s.slot n).sq.length then storeEnters s n else s
  s.setSlot n { s.slot n with sq := (s.slot n).sq ++ [(k, key, bs)] }

/-! ## Releases and acquires -/

/-- A release at a scope on a cluster (Table 15.3): at die scope or wider every dirty sector of the cluster's CDC is sent to its home; a narrower one is complete
once the slot's stores are performed (R425). -/
def release (s : State) (cl sc : Nat) : State := if 4 ≤ sc then sendAll s cl else s

/-- A release at a scope is complete: every write-back is performed at its home slice and, at domain scope, acknowledged by every other module
(Table 15.3). -/
def releaseDone (s : State) (cl sc : Nat) : Bool :=
  decide (sc < 4) || (!writesPending s (whoCdc cl) && (decide (sc < 6) || !awayPending s (whoCdc cl)))

/-- The write-backs of the cluster that have been sent so far are what the head at the PC waits for. -/
def awaitsSent (s : State) : State := s.setSl { s.sl with rel := some s.age }

/-- A release of the executing slot at a scope: its stores are performed, and the cache is written back as the scope says, once for the head at the PC: what other
slots store meanwhile is not its concern (R430). -/
def slotRelease (s : State) (sc : Nat) : State :=
  if sc < 4 then storesEnter s s.cur
  else if s.sl.rel.isSome then s
  else awaitsSent (release (storesEnter s s.cur) s.myCl sc)

/-- A release of the executing slot is complete: the write-backs sent when it issued, and those before them, are performed (R430). -/
def slotReleased (s : State) (sc : Nat) : Bool :=
  let a := s.sl.rel.getD s.age
  decide (sc < 4) || (!writesUpTo s (whoCdc s.myCl) a && (decide (sc < 6) || !awayUpTo s (whoCdc s.myCl) a))

/-- An acquire of a slot at a scope (Table 15.3): at die scope or wider every valid bit of the CDC is cleared. -/
def acquire (s : State) (cl sc : Nat) : State := if 4 ≤ sc then invalidateClean s cl else s

/-! ## Semaphores -/

/-- sem[i] of a tile. -/
def semGet (s : State) (tile i : Nat) : Nat := (tget 0 (s.tile tile).sem i).toNat

/-- Writes sem[i] of a tile. -/
def semPut (s : State) (tile i v : Nat) : State :=
  let t := s.tile tile
  s.setTile tile { t with sem := tset t.sem i (BitVec.ofNat 16 v) }

/-- Records a saturation at index `j` (R247). -/
def semSaturated (s : State) (tile j : Nat) : State :=
  let t := s.tile tile
  s.setTile tile { t with semFirst := if t.semSat then t.semFirst else BitVec.ofNat 8 j, semSat := true }

/-- The slots of a tile that wait on a semaphore: age, slot, index and threshold. -/
def semWaiters (s : State) (tile : Nat) : List (Nat × Nat × Nat × Nat) :=
  (List.range 8).filterMap fun k =>
    match (s.slot (8 * tile + k)).wait with
    | .sem i t age => some (age, 8 * tile + k, i, t)
    | _ => none

/-- Inserts a waiter by age. -/
def byAge (w : Nat × Nat × Nat × Nat) : List (Nat × Nat × Nat × Nat) → List (Nat × Nat × Nat × Nat)
  | [] => [w]
  | x :: t => if w.1 < x.1 then w :: x :: t else x :: byAge w t

/-- Tests the waits of a tile in age order, oldest first (R248); a wait that is met takes its threshold. -/
def semSettle (s : State) (tile : Nat) : State :=
  ((semWaiters s tile).foldl (fun l w => byAge w l) []).foldl
    (fun s w =>
      if w.2.2.2 ≤ semGet s tile w.2.2.1 then
        (semPut s tile w.2.2.1 (semGet s tile w.2.2.1 - w.2.2.2)).setSlot w.2.1
          { s.slot w.2.1 with wait := .none, taken := some w.2.2 }
      else s) s

/-- The updates of the current cycle are over: the waits of a tile are tested (R248). -/
def semTested (s : State) (tile : Nat) : State :=
  let s := semSettle s tile
  s.setTile tile { s.tile tile with upd := 0, acted := [] }

/-- A wait or a read of a tile comes after the updates of its cycle and the tests that follow them (R248). -/
def semNow (s : State) (tile : Nat) : State := if (s.tile tile).upd = 0 then s else semTested s tile

/-- An update of kind `k` of a tile (see `Tile`), by `cores`. Where slots wait, they are tested once the updates of the cycle are made; an update
that would come before one that has been made belongs to a later cycle (R248). -/
def semUpdate (s : State) (tile k : Nat) (cores : List Nat) (f : State → State) : State :=
  let u := (s.tile tile).upd
  let s := f (if k < u ∨ k = u ∧ k < 3 then semTested s tile else s)
  if semWaiters s tile = [] then s
  else s.setTile tile { s.tile tile with upd := k, acted := cores ++ (s.tile tile).acted }

/-- Adds `n` to sem[j] of a tile, saturating (R247). -/
def semAdd (s : State) (tile j n : Nat) : State :=
  let v := semGet s tile j + n
  if 65535 < v then semPut (semSaturated s tile j) tile j 65535 else semPut s tile j v

/-- A signal of `n` to sem[j] of a tile; an increment of 0 is none (R247, R248). -/
def semSignal (s : State) (tile j n : Nat) : State := if n = 0 then s else semUpdate s tile 3 [] fun s => semAdd s tile j n

/-- The signal parcel of a head of the executing slot, whose own access and whose earlier stores are performed first (R169, R251). -/
def signalParcel (s : State) : Option Eng → State
  | none => s
  | some e =>
    if e.sn = 0 then s
    else semUpdate (storesEnter s s.cur) s.myTile 3 [s.myCore] fun s => semAdd s s.myTile e.sj.toNat e.sn.toNat

/-! ## Teardown -/

/-- Starts the teardown of a context (R465), unless one is under way. -/
def startTear (s : State) (c : Nat) : State :=
  if (s.tear.find? fun p => p.1 == c).isSome then s else { s with tear := tset s.tear c 1 }

/-- A context is under teardown (R465). -/
def tearing (s : State) (c : Nat) : Bool := s.tear.any fun p => p.1 == c

/-- ENGHALT of the context that a cluster runs (R467). -/
def engHalted (s : State) (cl : Nat) : Bool := (s.launchAt cl).elim false fun l => tget false s.enghalt l.ctx

/-- A launch is switched out (R454). -/
def launchOut (s : State) (u : Nat) : Bool := (s.launch? u).elim false (·.out)

/-- The teardown of a context has reached the engines: their operations have stopped (R367, R465). -/
def tearingEngines (s : State) (c : Nat) : Bool := s.tear.any fun p => p.1 == c && decide (5 ≤ p.2)

/-- No operation of a launch and its context goes on (R454, R465, R467). -/
def opHalted (s : State) (ctx launch : Nat) : Bool := tget false s.enghalt ctx || launchOut s launch || tearingEngines s ctx

/-! ## Traps -/

/-- A fatal fault of a slot (R462, R506): an error entry of TYPE 11, the slot stops and its context is torn down. -/
def fatal (s : State) (n : Nat) (t : Trap) (addr fpc : Word) : State :=
  let c := s.ctxAt (clusterOf n)
  let s := errorEntry s c 11 (t.cause + 2 ^ 16 * t.sub) addr (placeId s n) fpc
  startTear (s.setSlot n { s.slot n with wait := .stopped }) c

/-- ECAUSE of a trap (Table 16.10). -/
def ecauseOf (t : Trap) : Word :=
  wordN ((if t.simg = [] then 0 else 2 ^ 48) + t.info.toNat * 2 ^ 16 + t.sub * 2 ^ 8 + t.cause)

/-- The 256-byte trap record (Table 16.6). -/
def trapRecord (t : Trap) (fpc epc : Word) (tb : Nat) : List Byte :=
  bytesOf 8 (ecauseOf t).toNat ++ bytesOf 8 t.addr.toNat ++ bytesOf 8 fpc.toNat ++ bytesOf 8 epc.toNat ++
    bytesOf 8 t.aux.toNat ++ bytesOf 8 tb ++ bytesOf 80 0 ++ (t.simg ++ bytesOf 128 0).take 128

/-- A physical address that ordinary stores may reach (R324, R325). -/
def storable (s : State) (pa : Nat) : Bool :=
  let off := pa % 2 ^ 42
  !(decide (0x3C000000000 ≤ off) && decide (off < 0x3C040000000)) &&
    (if pa / 2 ^ 42 == s.module.toNat then decide (off < memLimit s) else decide (off < 96 * Config.channelBytes))

/-- What becomes of the store of a trap record: it is in the CDC, it waits for a walk, or it faults. -/
inductive Stored where
  | done (s : State)
  | later (s : State) (w : Wait)
  | fault (s : State)

/-- A privileged store of bytes of slot `n` at a 64-byte boundary into the CDC of its cluster (R330, R460). -/
def storeNow (s : State) (n : Nat) (va : Word) (bs : List Byte) : Stored :=
  let cl := clusterOf n
  match xlateFor s cl (s.ctxAt cl) n true .write va (s.slot n).walkRes with
  | (s, .ok pa key) =>
    if storable s pa then
      .done ((List.range (bs.length / 64)).foldl (fun s k => cdcStore s cl (pa + 64 * k) key (sliceB bs (64 * k) 64)) s)
    else .fault s
  | (s, .later w) => .later s w.slotWait
  | (s, .fault _) => .fault s

/-- A slot that waits in `tbwait` leaves: WAIT of the barrier goes down (R381). -/
def leaveBarrier (s : State) (n : Nat) : State :=
  match (s.slot n).wait with
  | .barrier k _ _ => s.writeNum (k + 12) 2 (s.num (k + 12) 2 - 1)
  | _ => s

/-- A slot without what the head at its PC has begun. -/
def Slot.begun (l : Slot) : Slot :=
  { l with wait := .none, taken := none, walkRes := none, wins := [], block := 0, fetch := none, rel := none, entry := none, reply := none }

/-- The address of the record of a trap of slot `n` (R460). -/
def recordAddr (s : State) (n : Nat) : Word := wordN (ctxField s (s.ctxAt (clusterOf n)) 24 8 / 256 * 256) + wordN (256 * n)

/-- The record of a trap of slot `n` is stored, and the slot goes to its handler (R132, R460); where the store waits for a walk, the trap does. -/
def enterHandler (s : State) (n : Nat) (t : Trap) (fpc epc : Word) : State :=
  let tvec := wordN (ctxField s (s.ctxAt (clusterOf n)) 16 8 / 64 * 64)
  match storeNow s n (recordAddr s n) (trapRecord t fpc epc s.tb) with
  | .fault s => fatal (s.setSlot n (s.slot n).begun) n t (recordAddr s n) fpc
  | .later s w => s.setSlot n { s.slot n with wait := w, walkRes := none, entry := some (t, fpc, epc) }
  | .done s =>
    let l := (s.slot n).begun
    s.setSlot n { l with
      epc := epc, ecause := ecauseOf t, eaddr := t.addr, ppriv := l.priv, priv := true, intrap := true
      pc := tvec + wordN (64 * t.cause), line := [] }

/-- Taking a trap in slot `n` (R132, R459, R460, R462): the record, EPC, the modes, and the handler's address. `fpc` is the
head that raised it, `epc` where the slot resumes. -/
def trapEntry (s : State) (n : Nat) (t : Trap) (fpc epc : Word) : State :=
  let c := s.ctxAt (clusterOf n)
  let s := leaveBarrier (storesEnter (ctxTouch s c) n) n
  let s := s.setSlot n { (s.slot n).begun with skip := false, stepOwed := none }
  if (s.slot n).intrap || ctxField s (s.ctxAt (clusterOf n)) 16 8 / 64 == 0 then fatal s n t t.addr fpc else enterHandler s n t fpc epc

/-- The trap of slot `n` whose record has waited for a walk goes on (R330). -/
def trapResumes (s : State) (n : Nat) : State :=
  match (s.slot n).entry with
  | some e => enterHandler s n e.1 e.2.1 e.2.2
  | none => s

/-- The state after the return from a trap of the executing slot (R146): the mode, INTRAP and the PC. -/
def trapReturn (s : State) : State × Word := (s.setSl { s.sl with priv := s.sl.ppriv, intrap := false }, s.sl.epc)

/-! ## Journal refusals -/

/-- The info word of a journal entry (R417). -/
def jinfo (e : JEntry) : Word :=
  match e.st with
  | .free => 0
  | st => wordN ((match st with | .posted => 1 | _ => 2) + 4 * e.cause + 32 * e.size.code + 128 * b2n e.ord +
      256 * (e.slot % 4) + 2 ^ 16 * e.place.toNat + 2 ^ 32 * e.off)

/-- Journal entry `e` of a core. -/
def jentry (s : State) (core e : Nat) : JEntry := tget JEntry.init (s.core core).journal e

/-- Replaces a journal entry. -/
def setJentry (s : State) (core e : Nat) (j : JEntry) : State :=
  let c := s.core core
  s.setCore core { c with journal := tset c.journal e j }

/-- The neighbour-aperture address of an offset of a place (R152). -/
def neighAddr (place : Place) (off : Nat) : Word := wordN (2 ^ 40 + place.toNat * 2 ^ 24 + off)

/-- The lowest refused entry that is held for a slot (R396). -/
def heldRefusal (s : State) (n : Nat) : Option Nat :=
  (List.range 32).find? fun e =>
    let j := jentry s (coreOf n) e
    j.held && j.slot == n && j.act == (s.slot n).act

/-- Raises the held refusal of an entry as a journal trap of slot `n` (R396). -/
def journalTrap (s : State) (n e : Nat) (fpc epc : Word) : State :=
  let j := jentry s (coreOf n) e
  trapEntry (setJentry s (coreOf n) e { j with held := false }) n
    ⟨25, j.cause, BitVec.ofNat 32 e, 0, jinfo j, []⟩ fpc epc

/-- A held refusal is due: neither a trap handler nor a light handler runs (R396). -/
def refusalDue (s : State) (n : Nat) : Option Nat :=
  if (s.slot n).intrap || (s.slot n).lhact then none else heldRefusal s n

/-! ## The end of a head -/

/-- The number of heads H of a line image (R61); 0 when the line is malformed or not held. -/
def lineH (ps : List Parcel) : Nat :=
  match decodeLine ps with
  | .heads hs => if ps = [] then 0 else hs.length
  | .fault _ => 0

/-- Head 0 of the next line (R64). -/
def nextLine (pc : Word) : Word := ((pc.extractLsb' 6 58 + 1#58) ++ (0#6))

/-- successor(p) within a line image: the next PC, and whether the line is still held (R64). -/
def successor (ps : List Parcel) (pc : Word) : Word × Bool :=
  if pc.toNat / 2 % 32 + 1 < lineH ps then (pc + 2, true) else (nextLine pc, false)

/-- What the decoder makes of the head at a slot's PC in the line that it holds; `none` where the PC names no head. -/
def headAt (l : Slot) : Option Decoded :=
  match decodeLine l.line with
  | .heads hs => (hs[l.pc.toNat / 2 % 32]?).map fun h => decodeParcels h.1 h.2
  | .fault _ => none

/-- The instruction at a slot's PC, where the decoder accepts it. -/
def instrAt (l : Slot) : Option Instr :=
  match headAt l with
  | some (.ok i) => some i
  | _ => none

/-- What a head that has retired does next. -/
inductive Next where
  /-- the next head in sequence -/
  | seq
  /-- the next head in sequence, in a line that is fetched afresh (R319) -/
  | afresh
  /-- a transfer of control -/
  | jump (pc : Word)
  /-- the successor of the end head of a loop that runs no iteration (R147) -/
  | skip (le : Word)
  deriving DecidableEq, Repr

/-- The end check of R133 at PC `p`: the loop registers, and the PC of the loop body when it loops back. -/
def endCheck (l : Slot) (p : Word) : Slot × Option Word :=
  let inner := l.lai && l.lei == p
  if inner && decide (1 < l.lci.toNat) then ({ l with lci := l.lci - 1 }, some l.lbi)
  else
    let l := if inner then { l with lci := 0, lai := false } else l
    if l.lao && l.leo == p then
      if 1 < l.lco.toNat then ({ l with lai := false, lco := l.lco - 1 }, some l.lbo)
      else ({ l with lai := false, lco := 0, lao := false }, none)
    else (l, none)

/-- The loop registers and the next PC of a head of slot `l` that has retired at its PC. A set-up head whose own end check loops back takes the loop body: where its
count is 0, the head at LE is then not fetched, and np of the end check stands (log entry 50). -/
def advance (l : Slot) : Next → Slot
  | .jump t => { l with pc := t, line := [] }
  | nx =>
    let r := if l.intrap || l.lhact then (l, none) else endCheck l l.pc
    match r.2, nx with
    | some b, _ => { r.1 with pc := b, line := [] }
    | none, .skip le => { r.1 with pc := le, line := [], skip := true }
    | none, .afresh => { r.1 with pc := (successor l.line l.pc).1, line := [] }
    | none, _ =>
      let n := successor l.line l.pc
      { r.1 with pc := n.1, line := if n.2 then l.line else [] }

/-- The traps that are due between two heads (R461), after the head at `p` has retired. -/
def settleTraps (s : State) (n : Nat) (p : Word) (step : Bool) (post : Option Trap) : State :=
  let np := (s.slot n).pc
  match post with
  | some t => trapEntry s n t p np
  | none =>
    match refusalDue s n with
    | some e => journalTrap s n e p np
    | none => if step then trapEntry s n (trapI 14 0 0) p np else s

/-- Retirement of the head at the PC of slot `n`: the end check, the next PC, and the traps that are due. `step` says that the
head issued under DSTEP.STEP (R466). -/
def finish (s : State) (n : Nat) (nx : Next) (step : Bool) (post : Option Trap) : State :=
  let p := (s.slot n).pc
  let l := advance (s.slot n) nx
  let s := s.setSlot n { l.begun with last := p }
  if l.skip then s.setSlot n { s.slot n with stepOwed := if step then some p else none }
  else settleTraps s n p step post

/-- A head that issues now is stepped (R466). -/
def stepping (s : State) (n : Nat) : Bool := (s.slot n).step && !(s.slot n).intrap

/-! ## The issue of a head -/

/-- What the body of a head does. -/
inductive Eff where
  /-- it completes -/
  | retire (s : State) (nx : Next)
  /-- it raises a precise trap -/
  | trap (s : State) (t : Trap)
  /-- it completes and then raises a trap -/
  | post (s : State) (t : Trap)
  /-- it blocks, or it waits for an event that completes it -/
  | wait (s : State) (w : Wait)
  /-- its writes have been sent to their home slices; it completes when they are performed -/
  | sent (s : State)
  /-- the activation is over -/
  | over (s : State)

/-- A body that ends with a state, after its parts. -/
def Res.eff {α : Type} (r : Res α) (f : State → α → State) : Eff :=
  match r with
  | .ok s a => .retire (f s a) .seq
  | .trap s t => .trap s t
  | .wait s w => .wait s w

/-- A body that goes on after a part. -/
def Res.effThen {α : Type} (r : Res α) (f : State → α → Eff) : Eff :=
  match r with
  | .ok s a => f s a
  | .trap s t => .trap s t
  | .wait s w => .wait s w

/-- The parcels of a head and who performs its signal; the checks of orders 7 and 8 of Table 3.7. -/
structure Form where
  /-- a privileged form (R73) -/
  priv : Bool := false
  /-- a matrix form (R73) -/
  matrix : Bool := false
  /-- wait and signal parcels -/
  eng : Option Eng := none
  /-- the signal is performed when the head retires; otherwise the engine performs it -/
  sig : Bool := true

/-- Orders 7 and 8 of Table 3.7. -/
def formTrap (s : State) (f : Form) : Option Trap :=
  if f.priv && !s.sl.priv then some (trapI 3 0 0)
  else if f.matrix && !isCompute s.myCore then some (trapI 4 0 0)
  else none

/-- The threshold that the wait parcel of the head at the PC of slot `n` took is given back (R250). -/
def giveBack (s : State) (n : Nat) : State :=
  let l := s.slot n
  let s := s.setSlot n { l with taken := none }
  match l.taken with
  | some w => semSignal s (tileOf n) w.1 w.2
  | none => s

/-- A trap of the head at the PC of slot `n`. -/
def headTrap (s : State) (n : Nat) (t : Trap) : State := trapEntry (giveBack s n) n t (s.slot n).pc (s.slot n).pc

/-- A wait that follows the issue of its head; the others precede it and are tested again by executing the head again. -/
def Wait.issued : Wait → Bool
  | .sfu | .lanes | .range _ | .table | .align _ | .stopped | .fe _ _ | .performs _ => true
  | .reply _ _ _ _ _ => true
  | .remote _ _ => true
  | _ => false

/-- The barrel pointer of the executing core moves to the slot after the one that issued (R103). -/
def barrelMoved (s : State) : State :=
  let c := s.core s.myCore
  s.setCore s.myCore { c with ptr := (s.cur + 1) % 4 }

/-- Runs a body and ends the head. -/
def runBody (s : State) (f : Form) (body : State → Eff) : State :=
  let step := stepping s s.cur
  match body s with
  | .retire t nx => finish (barrelMoved (if f.sig then signalParcel t f.eng else t)) s.cur nx step none
  | .post t x => finish (barrelMoved (if f.sig then signalParcel t f.eng else t)) s.cur .seq step (some x)
  | .trap t x => headTrap (barrelMoved t) t.cur x
  | .wait t w => (if w.issued then barrelMoved t else t).setSl { t.sl with wait := w }
  | .sent t =>
    if unperformed t s.cur then (barrelMoved t).setSl { t.sl with wait := .performs (if f.sig then f.eng else none) }
    else finish (barrelMoved (if f.sig then signalParcel t f.eng else t)) s.cur .seq step none
  | .over t => barrelMoved t

/-- The window stores or the `l2zero` of the executing slot are performed: its head retires, with its signal (R251, R321, R337). -/
def slotPerformed (s : State) : State :=
  match s.sl.wait with
  | .performs e => finish (signalParcel s e) s.cur .seq (stepping s s.cur) none
  | _ => s

/-- The wait parcel of a head: satisfied and taken, or the slot blocks (R247, R248). -/
def waitParcel (s : State) (e : Eng) : State × Bool :=
  let i := e.wi.toNat
  let t := e.wt.toNat
  if t = 0 || s.sl.taken.isSome then (s, true)
  else
  let s := semNow s s.myTile
  if s.sl.taken.isSome then (s, true)
  else if t ≤ semGet s s.myTile i then
    let s := semPut s s.myTile i (semGet s s.myTile i - t)
    (s.setSl { s.sl with taken := some (i, t) }, true)
  else
    match s.sl.wait with
    | .sem _ _ _ => (s, false)
    | _ => let s := s.older; (s.setSl { s.sl with wait := .sem i t s.age }, false)

/-- Issue of a head whose GI names a guard (R74, R249), whose lanes are `active` when it names a mask. -/
def issue (s : State) (f : Form) (active : Bool) (body : State → Eff) : State :=
  match formTrap s f with
  | some t => headTrap (barrelMoved s) s.cur t
  | none =>
    if !active then finish (barrelMoved (signalParcel s f.eng)) s.cur .seq (stepping s s.cur) none
    else
      match f.eng with
      | none => runBody s f body
      | some e => if (waitParcel s e).2 then runBody (waitParcel s e).1 f body else (waitParcel s e).1

/-- A head of the executing slot under its guard, as a step of the machine. -/
def head (s : State) (g : Guard) (f : Form) (body : State → Eff) : Host.Outcome State Fault Refusal :=
  .next (issue s f (s.guardTrue g) body)

/-- A scalar head without parcels whose body always completes in sequence. -/
def plain (s : State) (g : Guard) (f : State → State) : Host.Outcome State Fault Refusal :=
  head s g {} fun s => .retire (f s) .seq

/-! ## The arrival rule -/

/-- Channel `c` of a core. -/
def channel (s : State) (core c : Nat) : Channel := tget Channel.init (s.core core).chans c

/-- Replaces a channel of a core. -/
def setChannel (s : State) (core c : Nat) (e : Channel) : State :=
  let k := s.core core
  s.setCore core { k with chans := tset k.chans c e }

/-- A COUNT that is zero or below is reloaded and sets PEND with its latch, or MERGE (R99, R116). -/
def triggered (e : Channel) (a : Args) (src : LatchSource) : Channel :=
  if e.count.toInt ≤ 0 then
    if e.pend then { e with merge := true, count := e.reload }
    else { e with pend := true, latch := a, src := src, count := e.reload }
  else e

/-- An arrival on a channel of a core (R99): the new state, and whether it set PEND. -/
def arrive (s : State) (core c dec : Nat) (a : Args) (src : LatchSource) : State × Bool :=
  let e := channel s core c
  let e' := triggered { e with count := e.count - BitVec.ofNat 32 dec } a src
  (setChannel s core c e', !e.pend && e'.pend)

/-- An arrival on a channel that may enter the inbox (R390); `req` says that it came on the request or the ordered VC. -/
def deliver (s : State) (core ch dec : Nat) (a : Args) (src : LatchSource) (req : Bool) : State :=
  let r := arrive s core ch dec a src
  if r.2 then r.1
  else
    let k := r.1.core core
    r.1.setCore core { k with inbox := k.inbox ++ [⟨a, req⟩] }

/-- Sends a message: it is in flight under a number of its own. -/
def send (s : State) (m : Flight) : State :=
  let s := s.older
  { s with net := tset s.net s.age m }

end Sys2Proof.Machine
end

