-- ==== Sys2Proof/Machine/Operands.lean ====
section
/-!
DEFINITION. The memory operand forms: the addresses of loads and stores (06 R171), gather windows (12 R336 to R338), the bytes that
a checked location holds (06 R159, 11 R313, 13 R359, 16 R464), the journal behind remote stores (14 R395) and remote loads (14 R397).
-/

namespace Sys2Proof.Machine

/-! ## Addresses -/

/-- s[A] + sext(imm, 64), wrapped (R171). -/
def offsetAddr (s : State) (a : Reg) (imm : BitVec 16) : Word := s.getS a + imm.signExtend 64

/-- s[A] + s[B] × size, wrapped (R171). -/
def indexedAddr (s : State) (a b : Reg) (n : Nat) : Word := s.getS a + s.getS b * wordN n

/-- Bytes of a size suffix (Table 0.3). -/
def Size.bytes (z : Size) : Nat := 2 ^ z.code

/-- A loaded value of some bytes, sign-extended or zero-extended (R171). -/
def extended (zx : Bool) (bs : List Byte) : Word :=
  if zx then wordN (ofBytes bs) else word (sx (8 * bs.length) (ofBytes bs))

/-! ## Data loss -/

/-- SUB of a data-loss fault by the memory of a key: 0 WS, 1 TCM, 2 CSP (Table 16.5). -/
def lossSub (key : Nat) : Nat := if key < 2 ^ 53 then 1 else if key < 2 ^ 54 then 0 else 2

/-! ## Parked reads (R359) -/

/-- The cluster of the memory at a local key. -/
def keyCluster (k : Nat) : Nat :=
  if k < 2 ^ 53 then (k - 2 ^ 52) / 2 ^ 20 else if k < 2 ^ 54 then (k - 2 ^ 53) / 2 ^ 24 else (k - 2 ^ 54) / 2 ^ 23

/-- The key of an offset of the local aperture of a core, for a message that reaches it. -/
def offsetKey (core off : Nat) : Nat := localKey core (localWhere off)

/-- A read of the cluster that parked before age `age`, of whatever agent, is no longer guarded: it is performed first (R359). -/
def parkedOlder (s : State) (cl age : Nat) : Bool :=
  let free := fun a k n : Nat => decide (a < age) && keyCluster k == cl && !guarded s cl k n
  let waits := fun w : EngWait => match w with
    | .parked a k n => free a k n
    | _ => false
  s.slots.any (fun p => match p.2.wait with
    | .parked a k n _ => free a k n
    | _ => false) ||
  s.copies.any (fun p => p.2.ops.any fun o => (o.parked.any fun r => free r.1 r.2.1 r.2.2) && !opHalted s o.ctx o.launch) ||
  s.tmes.any (fun p => !engHalted s (p.1 / 8) && p.2.ops.any fun o => waits o.wait) ||
  s.net.any fun p => match p.2 with
    | .load _ dst _ off n a => a != 0 && free a (offsetKey dst off) n
    | _ => false

/-- A read of `n` bytes at a key parks: on a guard, or, where it has parked, behind a read of the cluster that parked before it. -/
def parks (s : State) (m key n : Nat) : Bool :=
  guarded s (clusterOf m) key n || (match (s.slot m).wait with
    | .parked a k _ _ => k == key && parkedOlder s (clusterOf m) a
    | _ => false)

/-- The age at which the read of a slot at a key has parked, if it has. -/
def parkAge (s : State) (m key : Nat) : Option Nat :=
  match (s.slot m).wait with
  | .parked a k _ _ => if k = key then some a else none
  | _ => none

/-- The wait of a read that parks on a guarded region, with the age at which it parked (R359). -/
def parkWait (s : State) (m key n tries : Nat) : State × Wait :=
  match parkAge s m key with
  | some a => (s, .parked a key n tries)
  | none => (s.older, .parked s.older.age key n tries)

/-! ## Other modules -/

/-- Another module answers an access of a slot, or it does not (R398, R399): the choice is free. -/
def remoteGate (s : State) (pas : List Nat) : State × Bool :=
  if pas.all fun pa => pa / 2 ^ 42 == s.module.toNat then (s, true) else (s.draw, Config.choose s.free)

/-- The wait of an access to another module that has no reply: 1 ms of the time base (R399). -/
def remoteWait (s : State) (va : Word) : Wait := .remote (s.tb + 1000000) va

/-! ## Gather windows -/

/-- GFINFO (Table 12.5). -/
def gfinfoOf (w j off : Nat) : Word := wordN (w * 2 ^ 56 + j % 2 ^ 24 * 2 ^ 32 + off % 2 ^ 28)

/-- A page, access, address or alignment fault of a part is a window fault: GFINFO is written, and the record carries it (R338, R339, Table 16.6). -/
def Res.windowFault {α : Type} (r : Res α) (m : Nat) (g : Word) : Res α :=
  match r with
  | .trap s t =>
    if t.cause ∈ [5, 6, 7, 8] then .trap (s.setSlot m { s.slot m with gfinfo := g }) { t with aux := g } else .trap s t
  | r => r

/-- An access that waits keeps the binding of its window (R343). -/
def Res.keepsWindow {α : Type} (r : Res α) (m w : Nat) : Res α :=
  match r with
  | .wait s x => .wait (s.setSlot m { s.slot m with wins := (w, windowOf s m w) :: (s.slot m).wins.filter fun p => p.1 != w }) x
  | r => r

/-- An access that waits keeps the bindings of its windows (R343). -/
def Res.keepsWindows {α : Type} (r : Res α) (m : Nat) (ws : List Nat) : Res α := ws.foldl (fun r w => r.keepsWindow m w) r

/-- The window that an address names. -/
def Where.windowNo : Where → Option Nat
  | .window w _ => some w
  | _ => none

/-- Translates an address of a window access: an index or the bytes of an element (R337, R338). R338 names the address fault for the bytes of an element; an index
address that leaves the translated class raises it too: DESIGN CHOICE (log entry 55). -/
def winXlate (s : State) (m : Nat) (k : Access) (va : Word) : Res (Nat × Nat) :=
  if whereIs va ≠ .global then .trap s (memTrap 7 k va)
  else
    (xlate s m k va).andThen fun s r =>
      match globLoc s m k va false r.1 r.2 with
      | .ok _ => .ok s r
      | .error t => .trap s t

/-- The index of element `j` of a window (R336): its address is checked, translated and read at home. -/
def winIndex (s : State) (m : Nat) (d : Window) (j : Nat) : Res Int :=
  let iw := 2 ^ d.iw.toNat
  let va := d.idx + wordN (iw * j)
  if va.toNat % iw ≠ 0 then .trap s (memTrap 8 .read va)
  else
    (winXlate s m .read va).andThen fun s r =>
      let q := remoteGate s [r.1]
      if q.2 then
        match homeRead q.1 (whoWin m) r.1 r.2 iw with
        | (s, .bytes bs) => .ok s (if d.isgn then sx (8 * iw) (ofBytes bs) else (ofBytes bs : Int))
        | (s, .lost) => dataLoss s m 3 va
        | (s, .later) => .wait s .poll
      else .wait q.1 (remoteWait s va)

/-- The physical address and KEYID of each of `n` bytes from an address, which lie on one page or two (R337). -/
def winBytes (s : State) (m : Nat) (k : Access) (va : Word) (n : Nat) : Res (List (Nat × Nat)) :=
  (winXlate s m k va).andThen fun s p =>
    let here := 65536 - va.toNat % 65536
    if n ≤ here then .ok s ((List.range n).map fun i => (p.1 + i, p.2))
    else
      (winXlate s m k (va + wordN here)).andThen fun s q =>
        .ok s ((List.range n).map fun i => if i < here then (p.1 + i, p.2) else (q.1 + (i - here), q.2))

/-- The bytes of a window access of kind `k` from window offset `o`, element by element (R337). -/
def winWalk (s : State) (m w : Nat) (k : Access) (off n : Nat) : Nat → Nat → List (Nat × Nat) → Res (List (Nat × Nat))
  | 0, _, acc => .ok s acc
  | fuel + 1, o, acc =>
    if off + n ≤ o then .ok s acc
    else
      let d := windowOf s m w
      let e := winEsz d
      let j := o / e
      let c := min (e - o % e) (off + n - o)
      let r := (winIndex s m d j).andThen fun s i =>
        winBytes s m k (d.base + word (if d.bytes then i else i * (e : Int)) + wordN (o % e)) c
      match r.windowFault m (gfinfoOf w j off) with
      | .ok s l => winWalk s m w k off n fuel (o + c) (acc ++ l)
      | .trap s t => .trap s t
      | .wait s x => .wait s x

/-- Groups bytes at physical addresses into runs within a line. -/
def runsOf : List ((Nat × Nat) × Byte) → List (Nat × Nat × List Byte)
  | [] => []
  | ((pa, key), b) :: t =>
    match runsOf t with
    | (pb, kb, bs) :: r =>
      if pb = pa + 1 ∧ pb % 512 ≠ 0 ∧ kb = key then (pa, key, b :: bs) :: r else (pa, key, [b]) :: (pb, kb, bs) :: r
    | [] => [(pa, key, [b])]

/-- Reads bytes at their homes, one after another. -/
def homeReads (s : State) (who : Nat) : List (Nat × Nat) → State × HomeAns
  | [] => (s, .bytes [])
  | (pa, key) :: t =>
    match homeRead s who pa key 1 with
    | (s, .bytes b) =>
      match homeReads s who t with
      | (s, .bytes bs) => (s, .bytes (b ++ bs))
      | r => r
    | r => r

/-- The bytes that a read of slot `m` at an address has found at their homes: a data-loss fault (R310, R464), or the head is executed again. -/
def HomeAns.forSlot (a : HomeAns) (s : State) (m : Nat) (va : Word) : Res (List Byte) :=
  match a with
  | .bytes bs => .ok s bs
  | .lost => dataLoss s m 3 va
  | .later => .wait s .poll

/-- Reads the bytes of a window access of slot `m` at their homes (R337). -/
def winRead (s : State) (m : Nat) (va : Word) (l : List (Nat × Nat)) : Res (List Byte) :=
  let q := remoteGate s (l.map (·.1))
  if q.2 then (homeReads q.1 (whoWin m) l).2.forSlot (homeReads q.1 (whoWin m) l).1 m va else .wait q.1 (remoteWait s va)

/-! ## Loads -/

/-- The `n` bytes that a load of slot `m` at an address finds at a location on the cluster or in global memory; the slot's earlier stores enter the cache first
(R425). -/
def readLoc (s : State) (m : Nat) (k : Access) (va : Word) (n : Nat) : Loc → Res (List Byte)
  | .mem key =>
    let s := storesEnter s m
    if parks s m key n then .wait (parkWait s m key n 0).1 (parkWait s m key n 0).2
    else if s.lostIn key n then dataLoss s m (lossSub key) va
    else .ok s (s.read key n)
  | .glob pa key =>
    let s := storesEnter s m
    let hit := match cdcFind (s.cluster (clusterOf m)) (pa / 512) with
      | some l => cdcHit l (pa % 512) n
      | none => false
    let q := if hit then (s, true) else remoteGate s [pa]
    if q.2 then (cdcLoad q.1 (clusterOf m) pa key n).2.forSlot (cdcLoad q.1 (clusterOf m) pa key n).1 m va
    else .wait q.1 (remoteWait s va)
  | .win w off => ((winWalk s m w k off n (n + 1) off []).andThen fun s l => winRead s m va l).keepsWindow m w
  | .cfg off => .ok s (bytesOf n (cfgRead s off).toNat)
  | .remote _ _ => .trap s (memTrap 6 k va)

/-! ## Stores -/

/-- Writes the bytes of a window store of slot `m` at their homes, in runs within a line (R337). -/
def winWrite (s : State) (m : Nat) (l : List ((Nat × Nat) × Byte)) : State :=
  (runsOf l).foldl (fun s r => homeWrite s (whoWin m) (s.ctxAt (clusterOf m)) r.1 r.2.1 r.2.2) s

/-- Writes a store of slot `m` at a location on the cluster or in global memory; the slot's earlier stores enter the cache first (R425). -/
def writeLoc (s : State) (m : Nat) (va : Word) (bs : List Byte) : Loc → Res Unit
  | .mem key => .ok ((storesEnter s m).write key bs) ()
  | .glob pa key => .ok (cdcStore (storesEnter s m) (clusterOf m) pa key bs) ()
  | .win w off =>
    ((winWalk s m w .write off bs.length (bs.length + 1) off []).andThen fun s l => .ok (winWrite s m (l.zip bs)) ()).keepsWindow m w
  | .cfg _ => .trap s (memTrap 6 .write va)
  | .remote _ _ => .trap s (memTrap 6 .write va)

/-- The lowest FREE entry of a core's journal (R395). -/
def freeJentry (s : State) (core : Nat) : Option Nat :=
  (List.range 32).find? fun e => (jentry s core e).st == .free

/-- Posts a remote store of slot `m` to a place through the journal (R395): the slot blocks while no entry is FREE. -/
def postStore (s : State) (m : Nat) (place : Place) (off : Nat) (z : Size) (data : Word) (ord : Bool) : Res Unit :=
  match freeJentry s (coreOf m) with
  | none => .wait s .poll
  | some e =>
    let data := wordN (data.toNat % 2 ^ (8 * Size.bytes z))
    let s := setJentry s (coreOf m) e ⟨.posted, 0, m, (s.slot m).act, place, off, z, data, ord, false⟩
    let dst := (placeCore (coreOf m) place).getD 0
    .ok (send s (.store (coreOf m) dst ((s.cluster (clusterOf m)).launch.getD 0) e ord off
      (bytesOf (Size.bytes z) data.toNat))) ()

/-- Sends the request of a remote load of the executing slot (R397), once its earlier posted stores to the same core have been
acknowledged and its other stores are performed (R425); the slot waits for the reply. -/
def remoteLoad (s : State) (place : Place) (off : Nat) (z : Size) (d : Reg) (zx : Bool) (eng : Option Eng) (va : Word) : Eff :=
  let dst := (placeCore s.myCore place).getD 0
  let behind := (List.range 32).any fun e =>
    let j := jentry s s.myCore e
    j.st == .posted && j.slot == s.cur && placeCore s.myCore j.place == some dst
  if behind then .wait s .poll
  else .wait (send (storesEnter s s.cur) (.load s.cur dst s.myLaunch off (Size.bytes z) 0)) (.reply d (Size.bytes z) zx eng va)

/-! ## Loads and stores of a slot -/

/-- A scalar load of the executing slot at an address (R171): any region. -/
def loadForm (s : State) (z : Size) (d : Reg) (va : Word) (zx : Bool) (eng : Option Eng) : Eff :=
  (locate s s.cur .read true false va (Size.bytes z)).effThen fun s loc =>
    match loc with
    | .remote p off => remoteLoad s p off z d zx eng va
    | loc => (readLoc s s.cur .read va (Size.bytes z) loc).eff fun s bs => s.setS d (extended zx bs)

/-- A scalar store of the executing slot at an address (R171): any region. A store to the local or to global memory retires into the slot's store queue
(R154); a window store retires when it is performed at the home slices (R337). -/
def storeForm (s : State) (z : Size) (d : Reg) (va : Word) : Eff :=
  (locate s s.cur .write true true va (Size.bytes z)).effThen fun s loc =>
    match loc with
    | .remote p off => (postStore s s.cur p off z (s.getS d) false).eff fun s _ => s
    | .mem key => .retire (queueStore s s.cur key 0 (bytesOf (Size.bytes z) (s.getS d).toNat)) .seq
    | .glob pa key => .retire (queueStore s s.cur pa key (bytesOf (Size.bytes z) (s.getS d).toNat)) .seq
    | loc => (writeLoc s s.cur va (bytesOf (Size.bytes z) (s.getS d).toNat) loc).effThen fun s _ => .sent s

end Sys2Proof.Machine
end

