-- ==== Sys2Proof/Machine/Float.lean ====
section
/-!
DEFINITION. Exact floating-point arithmetic with one rounding (02_number_formats.md R34 to R42, R55) on FP32, BF16 and
FP16. A finite value is held as a sign, a magnitude `m` and an exponent `e` for m × 2^e; every operation is computed
exactly and rounded once by `roundTo`.
-/

namespace Sys2Proof.Machine

/-! ## Flags -/

/-- FPSTAT bits (Table 2.5): NX, UF, OF, DZ, NV, SAT from bit 0. -/
abbrev Flags := BitVec 6

def fNX : Flags := 1
def fUF : Flags := 2
def fOF : Flags := 4
def fDZ : Flags := 8
def fNV : Flags := 16
def fSAT : Flags := 32

/-! ## Formats -/

/-- Exponent bits (Table 2.2). -/
def FloatTy.ew : FloatTy → Nat
  | .f32 => 8 | .bf16 => 8 | .f16 => 5

/-- Fraction bits (Table 2.2). -/
def FloatTy.fw : FloatTy → Nat
  | .f32 => 23 | .bf16 => 7 | .f16 => 10

/-- Bias (Table 2.2). -/
def FloatTy.bias (f : FloatTy) : Nat := 2 ^ (FloatTy.ew f - 1) - 1

/-- Bits of the format. -/
def FloatTy.width (f : FloatTy) : Nat := 1 + FloatTy.ew f + FloatTy.fw f

/-- Positive infinity. -/
def FloatTy.infBits (f : FloatTy) : Nat := (2 ^ FloatTy.ew f - 1) * 2 ^ FloatTy.fw f

/-- The canonical quiet NaN (R36). -/
def FloatTy.nanBits (f : FloatTy) : Nat := FloatTy.infBits f + 2 ^ (FloatTy.fw f - 1)

/-- The sign bit as a number. -/
def FloatTy.signBit (f : FloatTy) (neg : Bool) : Nat :=
  if neg then 2 ^ (FloatTy.width f - 1) else 0

/-- A value: a NaN (signalling or not), an infinity, or a finite value (-1)^neg × m × 2^e. -/
inductive FVal where
  | nan (sig : Bool)
  | inf (neg : Bool)
  | fin (neg : Bool) (m : Nat) (e : Int)
  deriving DecidableEq, Repr

/-- The value of the low bits of `n` in a format (R35). -/
def fdec (f : FloatTy) (n : Nat) : FVal :=
  let fr := n % 2 ^ FloatTy.fw f
  let ex := n / 2 ^ FloatTy.fw f % 2 ^ FloatTy.ew f
  let ng := n / 2 ^ (FloatTy.width f - 1) % 2 == 1
  if ex = 2 ^ FloatTy.ew f - 1 then
    if fr = 0 then .inf ng else .nan (fr / 2 ^ (FloatTy.fw f - 1) == 0)
  else if ex = 0 then .fin ng fr (1 - (FloatTy.bias f : Int) - (FloatTy.fw f : Int))
  else .fin ng (fr + 2 ^ FloatTy.fw f) ((ex : Int) - (FloatTy.bias f : Int) - (FloatTy.fw f : Int))

/-- A subnormal encoding (R35). -/
def fsub (f : FloatTy) (n : Nat) : Bool :=
  n / 2 ^ FloatTy.fw f % 2 ^ FloatTy.ew f == 0 && n % 2 ^ FloatTy.fw f != 0

/-- Replaces a subnormal by zero of the same sign (R42 rule 1, R46). -/
def fflush (f : FloatTy) (n : Nat) : Nat :=
  if fsub f n then FloatTy.signBit f (n / 2 ^ (FloatTy.width f - 1) % 2 == 1) else n

/-! ## Rounding -/

/-- Rounds m / 2^k to an integer for a value of sign `neg` (R37). -/
def roundShift (rm : Rm) (neg : Bool) (m k : Nat) : Nat :=
  let q := m / 2 ^ k
  let r := m % 2 ^ k
  if r = 0 then q
  else match rm with
    | .rtz => q
    | .rdn => if neg then q + 1 else q
    | .rup => if neg then q else q + 1
    | .rne => if 2 * r > 2 ^ k then q + 1 else if 2 * r < 2 ^ k then q else q + q % 2

/-- The bits of an overflow (Table 2.3). -/
def overflowBits (f : FloatTy) (rm : Rm) (neg : Bool) : Nat :=
  FloatTy.signBit f neg +
    (match rm, neg with
      | .rne, _ | .rup, false | .rdn, true => FloatTy.infBits f
      | _, _ => FloatTy.infBits f - 1)

/-- Rounds (-1)^neg × m × 2^e once to a format (R38, Table 2.4): the bits and the flags. A zero keeps its sign. -/
def roundTo (f : FloatTy) (rm : Rm) (neg : Bool) (m : Nat) (e : Int) : Nat × Flags :=
  if m = 0 then (FloatTy.signBit f neg, 0)
  else
    let emin : Int := 1 - (FloatTy.bias f : Int)
    let top : Int := e + (Nat.log2 m : Int)
    let q : Int := (if top < emin then emin else top) - (FloatTy.fw f : Int)
    let r : Nat := if q ≤ e then m * 2 ^ (e - q).toNat else roundShift rm neg m (q - e).toNat
    let inexact : Bool := q > e && m % 2 ^ (q - e).toNat != 0
    let base : Nat := if top < emin then 0 else (top + (FloatTy.bias f : Int) - 1).toNat * 2 ^ FloatTy.fw f
    let bits := base + r
    if bits ≥ FloatTy.infBits f then (overflowBits f rm neg, fOF ||| fNX)
    else
      -- tiny after rounding with an unbounded exponent
      let q2 : Int := top - (FloatTy.fw f : Int)
      let r2 : Nat := if q2 ≤ e then m * 2 ^ (e - q2).toNat else roundShift rm neg m (q2 - e).toNat
      let tiny : Bool := top < emin && !(top + 1 == emin && r2 == 2 ^ (FloatTy.fw f + 1))
      (FloatTy.signBit f neg + bits,
        (if inexact then fNX else 0) ||| (if inexact && tiny then fUF else 0))

/-- Rounds the quotient n / d × 2^e, n and d nonzero or n = 0. -/
def roundQuot (f : FloatTy) (rm : Rm) (neg : Bool) (n d : Nat) (e : Int) : Nat × Flags :=
  let k := 64 + Nat.log2 d
  let q := n * 2 ^ k / d
  let st := if n * 2 ^ k % d = 0 then 0 else 1
  roundTo f rm neg (2 * q + st) (e - (k : Int) - 1)

/-- Integer square root by bits: the greatest `r` below 2^n more with r² ≤ v. -/
def isqrtGo (v : Nat) : Nat → Nat → Nat
  | 0, r => r
  | n + 1, r => let c := r + 2 ^ n; isqrtGo v n (if c * c ≤ v then c else r)

/-- Rounds the square root of m × 2^e, m nonzero. -/
def roundSqrt (f : FloatTy) (rm : Rm) (m : Nat) (e : Int) : Nat × Flags :=
  let odd := e % 2 != 0
  let m' := (if odd then 2 * m else m) * 2 ^ 64
  let e' := (if odd then e - 1 else e) - 64
  let r := isqrtGo m' 64 0
  roundTo f rm false (2 * r + (if r * r = m' then 0 else 1)) (e' / 2 - 1)

/-! ## Arithmetic -/

/-- The signed integer a × 2^(ea - e) at a common exponent e ≤ ea. -/
def alignTo (neg : Bool) (m : Nat) (ea e : Int) : Int :=
  let v : Int := ((m * 2 ^ (ea - e).toNat : Nat) : Int)
  if neg then -v else v

/-- The exact sum of two finite values, rounded once; the sign of an exact zero follows Table 2.4. -/
def addFin (f : FloatTy) (rm : Rm) (n1 : Bool) (m1 : Nat) (e1 : Int) (n2 : Bool) (m2 : Nat) (e2 : Int) : Nat × Flags :=
  let e := if e1 ≤ e2 then e1 else e2
  let t := alignTo n1 m1 e1 e + alignTo n2 m2 e2 e
  if t = 0 then
    (FloatTy.signBit f (if m1 = 0 ∧ m2 = 0 ∧ n1 = n2 then n1 else rm == .rdn), 0)
  else roundTo f rm (t < 0) t.natAbs e

/-- Whether a value is a signalling NaN. -/
def FVal.isSig : FVal → Bool
  | .nan g => g
  | _ => false

/-- The flags of signalling NaN operands. -/
def sigFlags (l : List FVal) : Flags := if l.any FVal.isSig then fNV else 0

/-- a + b of two values (R38, R200). -/
def addVal (f : FloatTy) (rm : Rm) (x y : FVal) : Nat × Flags :=
  match x, y with
  | .nan _, _ | _, .nan _ => (FloatTy.nanBits f, sigFlags [x, y])
  | .inf a, .inf b => if a = b then (FloatTy.signBit f a + FloatTy.infBits f, 0) else (FloatTy.nanBits f, fNV)
  | .inf a, .fin .. => (FloatTy.signBit f a + FloatTy.infBits f, 0)
  | .fin .., .inf b => (FloatTy.signBit f b + FloatTy.infBits f, 0)
  | .fin n1 m1 e1, .fin n2 m2 e2 => addFin f rm n1 m1 e1 n2 m2 e2

/-- Negates a value. -/
def FVal.neg : FVal → FVal
  | .nan g => .nan g
  | .inf n => .inf !n
  | .fin n m e => .fin (!n) m e

/-- The exact product; `none` for zero times infinity. -/
def mulVal (x y : FVal) : Option FVal :=
  match x, y with
  | .nan g, .nan h => some (.nan (g || h))
  | .nan g, _ | _, .nan g => some (.nan g)
  | .inf a, .inf b => some (.inf (a != b))
  | .inf a, .fin b m _ => if m = 0 then none else some (.inf (a != b))
  | .fin a m _, .inf b => if m = 0 then none else some (.inf (a != b))
  | .fin a m e, .fin b n g => some (.fin (a != b) (m * n) (e + g))

/-- a × b rounded once. -/
def fmul (f : FloatTy) (rm : Rm) (x y : FVal) : Nat × Flags :=
  match mulVal x y with
  | none => (FloatTy.nanBits f, fNV)
  | some (.nan _) => (FloatTy.nanBits f, sigFlags [x, y])
  | some (.inf n) => (FloatTy.signBit f n + FloatTy.infBits f, 0)
  | some (.fin n m e) => roundTo f rm n m e

/-- a × b + c rounded once; zero times infinity is invalid whatever c is (Table 2.4). -/
def ffma (f : FloatTy) (rm : Rm) (x y z : FVal) : Nat × Flags :=
  match mulVal x y with
  | none => (FloatTy.nanBits f, fNV)
  | some (.nan _) => (FloatTy.nanBits f, sigFlags [x, y, z])
  | some p =>
    match z with
    | .nan _ => (FloatTy.nanBits f, sigFlags [z])
    | _ => addVal f rm p z

/-- Numeric order of two values that are not NaN: whether x < y. -/
def ltVal (x y : FVal) : Bool :=
  match x, y with
  | .inf a, .inf b => a && !b
  | .inf a, _ => a
  | _, .inf b => !b
  | .fin n1 m1 e1, .fin n2 m2 e2 =>
    let e := if e1 ≤ e2 then e1 else e2
    alignTo n1 m1 e1 e < alignTo n2 m2 e2 e
  | _, _ => false

/-- Whether two values that are not NaN are equal; +0 equals -0. -/
def eqVal (x y : FVal) : Bool :=
  match x, y with
  | .nan _, _ | _, .nan _ => false
  | _, _ => !ltVal x y && !ltVal y x

/-- Whether a value is a NaN. -/
def FVal.isNan : FVal → Bool
  | .nan _ => true
  | _ => false

/-- Sign of a value. -/
def FVal.sign : FVal → Bool
  | .nan _ => false
  | .inf n => n
  | .fin n _ _ => n

/-- Order of two numbers with -0 below +0 (Table 2.4). -/
def numBelow (x y : FVal) : Bool := ltVal x y || (eqVal x y && x.sign && !y.sign)

/-- minimumNumber or maximumNumber of two encodings (Table 2.4). -/
def fminmax (f : FloatTy) (max : Bool) (a b : Nat) : Nat × Flags :=
  let x := fdec f a
  let y := fdec f b
  let fl := sigFlags [x, y]
  if x.isNan then (if y.isNan then FloatTy.nanBits f else b, fl)
  else if y.isNan then (a, fl)
  else if max then (if numBelow x y then b else a, fl)
  else (if numBelow y x then b else a, fl)

/-! ## Conversions -/

/-- Format to format (R40, Table 2.6). -/
def fcvt (src dst : FloatTy) (rm : Rm) (n : Nat) : Nat × Flags :=
  match fdec src n with
  | .nan g => (FloatTy.nanBits dst, if g then fNV else 0)
  | .inf ng => (FloatTy.signBit dst ng + FloatTy.infBits dst, 0)
  | .fin ng m e => roundTo dst rm ng m e

/-- A finite value rounded to an integer, and whether it is inexact. -/
def roundInt (rm : Rm) (neg : Bool) (m : Nat) (e : Int) : Int × Bool :=
  let r : Nat := if 0 ≤ e then m * 2 ^ e.toNat else roundShift rm neg m (-e).toNat
  (if neg then -(r : Int) else (r : Int), e < 0 && m % 2 ^ (-e).toNat != 0)

/-- Floating point to an integer range (R41); the range is tested after rounding (log entry 7). -/
def ftoi (src : FloatTy) (rm : Rm) (lo hi : Int) (n : Nat) : Int × Flags :=
  match fdec src n with
  | .nan _ => (0, fNV)
  | .inf ng => (if ng then lo else hi, fNV)
  | .fin ng m e =>
    let r := roundInt rm ng m e
    if r.1 < lo then (lo, fNV) else if hi < r.1 then (hi, fNV) else (r.1, if r.2 then fNX else 0)

/-- An integer to floating point (R41). -/
def itof (dst : FloatTy) (rm : Rm) (i : Int) : Nat × Flags := roundTo dst rm (i < 0) i.natAbs 0

/-! ## The canonical tree -/

/-- One level of the tree of R55: pairs of leaves, an absent child passes the other through. -/
def treeLevel (node : Nat → Nat → Nat × Flags) : List (Option Nat) → List (Option Nat) × Flags
  | a :: b :: t =>
    let r := treeLevel node t
    match a, b with
    | some x, some y => let z := node x y; (some z.1 :: r.1, z.2 ||| r.2)
    | some x, none => (some x :: r.1, r.2)
    | none, y => (y :: r.1, r.2)
  | [a] => ([a], 0)
  | [] => ([], 0)

/-- The levels of the tree of R55, `n` of them. -/
def treeGo (node : Nat → Nat → Nat × Flags) : Nat → List (Option Nat) → Option Nat × Flags
  | 0, l => (l.headD none, 0)
  | n + 1, l =>
    let r := treeLevel node l
    let q := treeGo node n r.1
    (q.1, r.2 ||| q.2)

/-- The canonical tree (R55): absent leaves are `none`; `empty` is the result when all are absent. A NaN at the root is
canonical, and a signalling leaf sets NV. -/
def ftree (f : FloatTy) (node : Nat → Nat → Nat × Flags) (empty : Nat) (l : List (Option Nat)) : Nat × Flags :=
  let r := treeGo node (Nat.log2 l.length + 1) l
  let sg : Flags := if l.any (fun o => match o with | some n => (fdec f n).isSig | none => false) then fNV else 0
  match r.1 with
  | none => (empty, r.2 ||| sg)
  | some n => (if (fdec f n).isNan then FloatTy.nanBits f else n, r.2 ||| sg)

end Sys2Proof.Machine
end

