-- ==== Sys2Proof/Machine/Flags.lean ====
section
/-!
DEFINITION. The guards that a compare writes (05 R142), the logic of guards (05 R143), and the floating-point flags of FPSTAT
(02 R39).
-/

namespace Sys2Proof.Machine

/-- lt of R142: signed, or unsigned when X = 1. -/
def ltFlag (unsig : Bool) (a b : Word) : Bool := if unsig then a.ult b else a.slt b

/-- Writes the guard pair j: g(2j) := lt, discarded for g0, and g(2j + 1) := eq (R142). -/
def setPair (s : State) (j : Fin 4) (lt eq : Bool) : State :=
  (s.setG (Fin.ofNat 8 (2 * j.val)) lt).setG (Fin.ofNat 8 (2 * j.val + 1)) eq

/-- A compare of two words into a guard pair (R142). -/
def compare (s : State) (j : Fin 4) (unsig : Bool) (a b : Word) : State :=
  setPair s j (ltFlag unsig a b) (a == b)

/-- The value of `gop` (R143). -/
def gopValue : GopOp → Bool → Bool → Bool
  | .and, a, b => a && b
  | .or, a, b => a || b
  | .xor, a, b => a != b

end Sys2Proof.Machine
end

