-- ==== Sys2Proof/Machine/Scalar.lean ====
section
/-!
DEFINITION. The scalar instructions (05 R136 to R150) but for those that name a CSR: two-source and immediate forms, bit fields, compares,
branches and calls, traps and loops.
-/

namespace Sys2Proof.Machine

/-- An outcome of a step. -/
abbrev Step := Host.Outcome State Fault Refusal

/-! ## Values (Tables 5.7 and 5.8) -/

/-- `sel`: s[A] if the old s[D] is not zero. -/
def selValue (d a b : Word) : Word := if d = 0 then b else a

/-- `mulh`: bits [127:64] of the signed product. -/
def mulhValue (a b : Word) : Word := ((a.signExtend 128 * b.signExtend 128).extractLsb' 64 64)

/-- `mulhn`: bits [127:64] of the unsigned product. -/
def mulhnValue (a b : Word) : Word := ((a.setWidth 128 * b.setWidth 128).extractLsb' 64 64)

/-- `div` (Table 5.8): −2^63 by −1 wraps to −2^63. -/
def divValue (a b : Word) : Word := if b = 0 then BitVec.allOnes 64 else a.sdiv b

/-- `divn` (Table 5.8). -/
def divnValue (a b : Word) : Word := if b = 0 then BitVec.allOnes 64 else a / b

/-- `rem` (Table 5.8). -/
def remValue (a b : Word) : Word := if b = 0 then a else a.srem b

/-- `remn` (Table 5.8). -/
def remnValue (a b : Word) : Word := if b = 0 then a else a % b

/-- A shift amount: s[B][5:0] (R138). -/
def amount (b : Word) : Nat := b.toNat % 64

/-- The number of trailing zero bits below `n`, counted from bit `i`. -/
def zerosFrom (w : Word) : Nat → Nat → Nat
  | 0, _ => 0
  | n + 1, i => if w.getLsbD i then 0 else 1 + zerosFrom w n (i + 1)

/-- `ctz`. -/
def ctzValue (a : Word) : Word := wordN (zerosFrom a 64 0)

/-- `clz`. -/
def clzValue (a : Word) : Word := wordN (zerosFrom a.reverse 64 0)

/-- `popc`. -/
def popcValue (a : Word) : Word := wordN ((List.range 64).countP fun i => a.getLsbD i)

/-- `bswap`. -/
def bswapValue (a : Word) : Word := wordN (ofBytes (bytesOf 8 a.toNat).reverse)

/-- Bits [p + w − 1 : p], zero-extended (R141). -/
def fieldN (a : Word) (p w : Nat) : Word := wordN (a.toNat / 2 ^ p % 2 ^ w)

/-- Bits [p + w − 1 : p], sign-extended (R141). -/
def fieldS (a : Word) (p w : Nat) : Word := word (sx w (a.toNat / 2 ^ p))

/-- `ins`: the field of the old value replaced (R141). -/
def insValue (old a : Word) (p w : Nat) : Word :=
  let m := wordN ((2 ^ w - 1) * 2 ^ p)
  (old &&& ~~~ m) ||| ((a <<< p) &&& m)

/-- sext(imm, 64). -/
def simm (imm : BitVec 16) : Word := imm.signExtend 64

/-! ## Two-source and one-source forms -/

/-- A two-source form (R138): s[D] := f(s[A], s[B]). -/
def two (g : Guard) (d a b : Reg) (f : Word → Word → Word) (s : State) : Step :=
  plain s g fun s => s.setS d (f (s.getS a) (s.getS b))

/-- A one-source form (R138): s[D] := f(s[A]). -/
def one (g : Guard) (d a : Reg) (f : Word → Word) (s : State) : Step :=
  plain s g fun s => s.setS d (f (s.getS a))

/-- R138. -/
def execAdd (g : Guard) (d a b : Reg) (s : State) : Step := two g d a b (· + ·) s
/-- R138. -/
def execSub (g : Guard) (d a b : Reg) (s : State) : Step := two g d a b (· - ·) s
/-- R138. -/
def execAnd (g : Guard) (d a b : Reg) (s : State) : Step := two g d a b (· &&& ·) s
/-- R138. -/
def execOr (g : Guard) (d a b : Reg) (s : State) : Step := two g d a b (· ||| ·) s
/-- R138. -/
def execXor (g : Guard) (d a b : Reg) (s : State) : Step := two g d a b (· ^^^ ·) s
/-- R138. -/
def execAndn (g : Guard) (d a b : Reg) (s : State) : Step := two g d a b (fun x y => x &&& ~~~ y) s
/-- R138. -/
def execOrn (g : Guard) (d a b : Reg) (s : State) : Step := two g d a b (fun x y => x ||| ~~~ y) s
/-- R138. -/
def execMov (g : Guard) (d a : Reg) (s : State) : Step := one g d a id s
/-- R138. -/
def execMul (g : Guard) (d a b : Reg) (s : State) : Step := two g d a b (· * ·) s
/-- R138. -/
def execMulh (g : Guard) (d a b : Reg) (s : State) : Step := two g d a b mulhValue s
/-- R138. -/
def execMulhn (g : Guard) (d a b : Reg) (s : State) : Step := two g d a b mulhnValue s
/-- R138. -/
def execSel (g : Guard) (d a b : Reg) (s : State) : Step := two g d a b (selValue (s.getS d)) s
/-- R139. -/
def execDiv (g : Guard) (d a b : Reg) (s : State) : Step := two g d a b divValue s
/-- R139. -/
def execDivn (g : Guard) (d a b : Reg) (s : State) : Step := two g d a b divnValue s
/-- R139. -/
def execRem (g : Guard) (d a b : Reg) (s : State) : Step := two g d a b remValue s
/-- R139. -/
def execRemn (g : Guard) (d a b : Reg) (s : State) : Step := two g d a b remnValue s
/-- R138. -/
def execShl (g : Guard) (d a b : Reg) (s : State) : Step := two g d a b (fun x y => x <<< amount y) s
/-- R138. -/
def execShr (g : Guard) (d a b : Reg) (s : State) : Step := two g d a b (fun x y => x >>> amount y) s
/-- R138. -/
def execSar (g : Guard) (d a b : Reg) (s : State) : Step := two g d a b (fun x y => x.sshiftRight (amount y)) s
/-- R138. -/
def execRotl (g : Guard) (d a b : Reg) (s : State) : Step := two g d a b (fun x y => x.rotateLeft (amount y)) s
/-- R138. -/
def execMin (g : Guard) (d a b : Reg) (s : State) : Step := two g d a b (fun x y => if x.slt y then x else y) s
/-- R138. -/
def execMax (g : Guard) (d a b : Reg) (s : State) : Step := two g d a b (fun x y => if x.slt y then y else x) s
/-- R138. -/
def execMinn (g : Guard) (d a b : Reg) (s : State) : Step := two g d a b (fun x y => if x.ult y then x else y) s
/-- R138. -/
def execMaxn (g : Guard) (d a b : Reg) (s : State) : Step := two g d a b (fun x y => if x.ult y then y else x) s
/-- R138. -/
def execClz (g : Guard) (d a : Reg) (s : State) : Step := one g d a clzValue s
/-- R138. -/
def execCtz (g : Guard) (d a : Reg) (s : State) : Step := one g d a ctzValue s
/-- R138. -/
def execPopc (g : Guard) (d a : Reg) (s : State) : Step := one g d a popcValue s
/-- R138. -/
def execBswap (g : Guard) (d a : Reg) (s : State) : Step := one g d a bswapValue s

/-! ## Immediate forms and bit fields -/

/-- R140. -/
def execAddi (g : Guard) (d a : Reg) (imm : BitVec 16) (s : State) : Step := one g d a (· + simm imm) s
/-- R140. -/
def execShli (g : Guard) (d a : Reg) (n : BitVec 6) (s : State) : Step := one g d a (· <<< n.toNat) s
/-- R140. -/
def execShri (g : Guard) (d a : Reg) (n : BitVec 6) (s : State) : Step := one g d a (· >>> n.toNat) s
/-- R140. -/
def execSari (g : Guard) (d a : Reg) (n : BitVec 6) (s : State) : Step := one g d a (·.sshiftRight n.toNat) s
/-- R140: the PC that the long target names, not checked. -/
def execAddpc (g : Guard) (d : Reg) (t : BitVec 32) (s : State) : Step :=
  plain s g fun s => s.setS d (targetPc s.sl.pc t.toNat 27)
/-- R140. -/
def execLui (g : Guard) (d : Reg) (imm : BitVec 16) (s : State) : Step := plain s g fun s => s.setS d (simm imm <<< 16)
/-- R140. -/
def execLim (g : Guard) (d : Reg) (v : BitVec 64) (s : State) : Step := plain s g fun s => s.setS d v
/-- R141. -/
def execExt (g : Guard) (d a : Reg) (w1 p : BitVec 6) (s : State) : Step :=
  one g d a (fieldS · p.toNat (w1.toNat + 1)) s
/-- R141. -/
def execExtn (g : Guard) (d a : Reg) (w1 p : BitVec 6) (s : State) : Step :=
  one g d a (fieldN · p.toNat (w1.toNat + 1)) s
/-- R141. -/
def execIns (g : Guard) (d a : Reg) (w1 p : BitVec 6) (s : State) : Step :=
  plain s g fun s => s.setS d (insValue (s.getS d) (s.getS a) p.toNat (w1.toNat + 1))
/-- R141. -/
def execSext (g : Guard) (d a : Reg) (n1 : BitVec 6) (s : State) : Step := one g d a (fieldS · 0 (n1.toNat + 1)) s
/-- R141. -/
def execZext (g : Guard) (d a : Reg) (n1 : BitVec 6) (s : State) : Step := one g d a (fieldN · 0 (n1.toNat + 1)) s

/-! ## Compares and guard logic -/

/-- R142. -/
def execCmp (g : Guard) (j : Fin 4) (a b : Reg) (unsig : Bool) (s : State) : Step :=
  plain s g fun s => compare s j unsig (s.getS a) (s.getS b)
/-- R142: the immediate is sign-extended, or zero-extended when X = 1. -/
def execCmpi (g : Guard) (j : Fin 4) (a : Reg) (unsig : Bool) (imm : BitVec 16) (s : State) : Step :=
  plain s g fun s => compare s j unsig (s.getS a) (if unsig then imm.setWidth 64 else simm imm)
/-- R143. -/
def execGop (g : Guard) (op : GopOp) (gd : Fin 8) (na : Bool) (ga : Fin 8) (nb : Bool) (gb : Fin 8) (s : State) : Step :=
  plain s g fun s => s.setG gd (gopValue op (s.getG ga != na) (s.getG gb != nb))
/-- R150. -/
def execNop (g : Guard) (s : State) : Step := plain s g id

/-! ## Branches, calls and traps -/

/-- The next PC of the executing slot's head (R64), the link value. -/
def nextPc (s : State) : Word := (successor s.sl.line s.sl.pc).1

/-- R144. -/
def execBr (g : Guard) (t : BitVec 32) (s : State) : Step :=
  head s g {} fun s => .retire s (.jump (targetPc s.sl.pc t.toNat 27))
/-- R144. -/
def execJl (g : Guard) (t : BitVec 32) (s : State) : Step :=
  head s g {} fun s => .retire (s.setS 31 (nextPc s)) (.jump (targetPc s.sl.pc t.toNat 27))
/-- R144: s[A] is read before s[D] is written. -/
def execJlr (g : Guard) (d a : Reg) (s : State) : Step :=
  head s g {} fun s => .retire (s.setS d (nextPc s)) (.jump (s.getS a))
/-- R145. -/
def execTrap (g : Guard) (code : BitVec 16) (s : State) : Step :=
  head s g {} fun s => .post s (trapI 12 0 code.toNat)
/-- R470. -/
def execBrk (g : Guard) (code : BitVec 16) (s : State) : Step :=
  head s g {} fun s => .post s (trapI 13 0 code.toNat)
/-- R146. -/
def execEret (g : Guard) (s : State) : Step :=
  head s g { priv := true } fun s => .retire (trapReturn s).1 (.jump (trapReturn s).2)

/-! ## Loops -/

/-- The head parcel at the executing slot's PC, for the record of an illegal-instruction trap. -/
def headParcel (s : State) : Parcel := s.sl.line.getD (s.sl.pc.toNat / 2 % 32) 0

/-- Setting up a loop of `n` iterations that ends at `le` (R147). -/
def loopSetup (s : State) (n : BitVec 32) (le : Word) : Eff :=
  let l := s.sl
  let lb := nextPc s
  if le.ult lb || (l.lao && l.lai) then .trap s (trapI 1 0 (headParcel s).toNat)
  else if n = 0 then .retire s (.skip le)
  else if l.lao then .retire (s.setSl { l with lci := n, lbi := lb, lei := le, lai := true }) .seq
  else .retire (s.setSl { l with lco := n, lbo := lb, leo := le, lao := true }) .seq

/-- R147. -/
def execLpset (g : Guard) (count u : BitVec 16) (s : State) : Step :=
  head s g {} fun s => loopSetup s (count.setWidth 32) (targetPc s.sl.pc u.toNat 11)
/-- R147. -/
def execLpsetr (g : Guard) (a : Reg) (u : BitVec 16) (s : State) : Step :=
  head s g {} fun s => loopSetup s ((s.getS a).setWidth 32) (targetPc s.sl.pc u.toNat 11)
/-- R148. -/
def execLpbrk (g : Guard) (s : State) : Step :=
  plain s g fun s =>
    let l := s.sl
    if l.lai then s.setSl { l with lci := 0, lai := false }
    else if l.lao then s.setSl { l with lco := 0, lao := false }
    else s

end Sys2Proof.Machine
end

