-- ==== Sys2Proof/Machine/LocalMem.lean ====
section
/-!
DEFINITION. Loads and stores, atomics, full/empty instructions, monitors, fences and the allocation of the cluster scratchpad
(06 R151 to R178), with the events of the full/empty retry, the deadline of `mwait` and the zeroing of freed blocks.
-/

namespace Sys2Proof.Machine

/-! ## Loads and stores (R171) -/

/-- R171. -/
def execLd (g : Guard) (z : Size) (d a : Reg) (imm : BitVec 16) (sync : Option Eng) (s : State) : Step :=
  head s g { eng := sync } fun s => loadForm s z d (offsetAddr s a imm) false sync
/-- R171. -/
def execLdn (g : Guard) (z : Size) (d a : Reg) (imm : BitVec 16) (sync : Option Eng) (s : State) : Step :=
  head s g { eng := sync } fun s => loadForm s z d (offsetAddr s a imm) true sync
/-- R171. -/
def execSt (g : Guard) (z : Size) (d a : Reg) (imm : BitVec 16) (sync : Option Eng) (s : State) : Step :=
  head s g { eng := sync } fun s => storeForm s z d (offsetAddr s a imm)
/-- R171. -/
def execLdx (g : Guard) (z : Size) (d a b : Reg) (s : State) : Step :=
  head s g {} fun s => loadForm s z d (indexedAddr s a b (Size.bytes z)) false none
/-- R171. -/
def execLdxSync (g : Guard) (z : Size) (d a b : Reg) (eng : Eng) (s : State) : Step :=
  head s g { eng := some eng } fun s => loadForm s z d (indexedAddr s a b (Size.bytes z)) false (some eng)
/-- R171. -/
def execStx (g : Guard) (z : Size) (d a b : Reg) (s : State) : Step :=
  head s g {} fun s => storeForm s z d (indexedAddr s a b (Size.bytes z))
/-- R171. -/
def execStxSync (g : Guard) (z : Size) (d a b : Reg) (eng : Eng) (s : State) : Step :=
  head s g { eng := some eng } fun s => storeForm s z d (indexedAddr s a b (Size.bytes z))

/-! ## Atomics (R172, R173) -/

/-- The new value of an atomic on `w` bits (Table 6.8). -/
def amoNew (op : AmoOp) (w old v : Nat) : Nat :=
  match op with
  | .swap => v
  | .add => (old + v) % 2 ^ w
  | .and => old &&& v
  | .or => old ||| v
  | .xor => old ^^^ v
  | .min => if sx w old < sx w v then old else v
  | .max => if sx w old < sx w v then v else old
  | .minn => min old v
  | .maxn => max old v

/-- A read-modify-write at the home slice (R172): one request. Where another module serves it, what it finds is free (R398). -/
def homeAmo (s : State) (pa key n : Nat) (f : Nat → Option Nat) : State × L2Ans × List Byte :=
  if ownMemory s pa then homeUpdate s s.cur s.myCl pa key n f
  else (s.draw, .served, (List.range n).map fun i => Config.remoteByte s.free (pa + i))

/-- A read-modify-write of `n` bytes of the executing slot (R172): at the local memory, or at the home slice after the sector has been
written back and invalidated in the CDC. `rel` and `acq` give the scopes of its release and acquire at a location; `f` gives the new value, or none
where nothing is written (R173). -/
def atomicAt (s : State) (va : Word) (n : Nat) (rel acq : Loc → Option Nat) (f : Nat → Option Nat) : Res Nat :=
  (locate s s.cur .atomic false true va n).andThen fun s loc =>
    let released := fun s : State => match rel loc with
      | some sc => slotRelease s sc
      | none => storesEnter s s.cur
    let waits := fun s : State => (rel loc).any fun sc => !slotReleased s sc
    let acquired := fun s : State => match acq loc with
      | some sc => acquire s s.myCl sc
      | none => s
    match loc with
    | .mem key =>
      if parks s s.cur key n then .wait (parkWait s s.cur key n 0).1 (parkWait s s.cur key n 0).2
      else if s.lostIn key n then dataLoss s s.cur (lossSub key) va
      else
        let s := released s
        if waits s then .wait s .poll
        else
          let old := s.num key n
          .ok (acquired (match f old with
            | some v => s.writeNum key n v
            | none => s)) old
    | .glob pa key =>
      let q := remoteGate s [pa]
      if q.2 then
        let s := released q.1
        if waits s then .wait s .poll
        else
          match homeAmo (cdcFlush s s.myCl pa) pa key n f with
          | (s, .served, old) => .ok (acquired s) (ofBytes old)
          | (s, .refused, _) => .wait s .poll
          | (s, .lost, _) => dataLoss s s.cur 3 va
      else .wait q.1 (remoteWait s va)
    | _ => .trap s (memTrap 6 .atomic va)

/-- The low `n` bytes of a word, as a number. -/
def lowNum (v : Word) (n : Nat) : Nat := v.toNat % 2 ^ (8 * n)

/-- R172. -/
def execAmo (g : Guard) (dbl : Bool) (d a b : Reg) (op : AmoOp) (ord : MemOrd) (scope : Scope) (s : State) : Step :=
  head s g {} fun s =>
    let n := if dbl then 8 else 4
    (atomicAt s (s.getS a) n
      (fun _ => if ord = .rel ∨ ord = .ar then some scope.code else none)
      (fun _ => if ord = .acq ∨ ord = .ar then some scope.code else none)
      fun old => some (amoNew op (8 * n) old (lowNum (s.getS b) n))).eff
        fun t old => t.setS d (extended false (bytesOf n old))

/-- The natural scope of a location: core, tile, cluster, module (R173). -/
def naturalScope : Loc → Nat
  | .mem key => if key < 2 ^ 53 then 1 else if key < 2 ^ 54 then 2 else 3
  | _ => 5

/-- R173. -/
def execAmocas (g : Guard) (dbl : Bool) (d a b : Reg) (ar : Bool) (s : State) : Step :=
  head s g {} fun s =>
    let n := if dbl then 8 else 4
    (atomicAt s (s.getS a) n
      (fun l => if ar then some (naturalScope l) else none)
      (fun l => if ar then some (naturalScope l) else none)
      fun old => if old = lowNum (s.getS d) n then some (lowNum (s.getS b) n) else none).eff
        fun t old => t.setS d (extended false (bytesOf n old))

/-! ## Full/empty (R159 to R163, R174) -/

/-- The keys of the first byte and past the last byte of the full/empty allocation that holds a local address (R159). -/
def feRegion (s : State) (core : Nat) (w : Where) : Option (Nat × Nat) :=
  let cl := core / 16
  match feMethod s cl w, w, s.launchAt cl with
  | some _, .tcm off, some l =>
    (instanceAt l.record.allocs 0 0 off).map fun a => (tcmKey core a.2, tcmKey core (a.2 + a.1.size))
  | some _, .ws off, some l =>
    (instanceAt l.record.allocs 1 (s.cluster cl).wsBase off).map fun a =>
      (wsKey (core / 2) a.2, wsKey (core / 2) (a.2 + a.1.size))
  | some _, .csp off, _ =>
    (cspAllocAt s cl off).map fun a => (cspKey cl (a.base * 4096), cspKey cl ((a.base + a.blocks) * 4096))
  | _, _, _ => none

/-- The checks of a full/empty instruction on the word at an address (R159, R169): its key and its waiting method. -/
def feLocate (s : State) (k : Access) (store : Bool) (va : Word) : Res (Nat × Bool) :=
  if va.toNat % 8 ≠ 0 then .trap s (memTrap 8 k va)
  else
    match checkWhere s s.cur k false va 8 with
    | some t => .trap s t
    | none =>
      match feMethod s s.myCl (whereIs va) with
      | none => .trap s (memTrap 6 k va)
      | some mon =>
        let key := localKey s.myCore (whereIs va)
        if store && heldSource s s.myCl key 8 then .trap s (trapI 21 0 0) else .ok s (key, mon)

/-- The failed attempts so far of a blocked full/empty instruction (R161). -/
def feTries (s : State) : Nat :=
  match s.sl.wait with
  | .fe n _ => n
  | .parked _ _ _ n => n
  | _ => 0

/-- A full/empty instruction (R161): `ready` is the F it needs, `after` the F it leaves. A data access or a change of F is a write that the monitors
see, a plain read is not (R165); an attempt that parks on a guard is not counted. -/
def feForm (s : State) (load : Bool) (ready : Option Bool) (after : Bool) (d b : Reg) (va : Word) : Eff :=
  let n := feTries s
  (feLocate s (if load then .read else .write) (!load) va).effThen fun s r =>
    let s := storesEnter s s.cur
    let key := r.1
    let fb := s.feAt key
    if load && parks s s.cur key 8 then .wait (parkWait s s.cur key 8 n).1 (parkWait s s.cur key 8 n).2
    else if ready.all (· == fb.f) then
      if load && s.lostIn key 8 then (dataLoss s s.cur (lossSub key) va).eff fun s (_ : Unit) => s
      else
        let wake := fb.w && fb.f != after
        let s := if load then s.setS d (wordN (s.num key 8)) else s.writeNum key 8 (s.getS d).toNat
        let s := if fb.f != after then s.noteWrite key 8 else s
        let s := (s.setFe key ⟨after, fb.w && !wake⟩).setS b (wordN (2 * b2n fb.f + 1))
        if wake then .post s (trapI 11 0 (va.toNat % 2 ^ 32)) else .retire s .seq
    else if r.2 then .retire (s.setS b (wordN (2 * b2n fb.f))) .seq
    else if s.sl.retrylim.toNat < n + 1 then .trap (s.setFe key { fb with w := true }) (trapI 10 0 (va.toNat % 2 ^ 32))
    else .wait s (.fe (n + 1) (s.cc + 8))

/-- R174. -/
def execLdfe (g : Guard) (d a b : Reg) (imm : BitVec 16) (s : State) : Step :=
  head s g {} fun s => feForm s true (some true) false d b (offsetAddr s a imm)
/-- R174. -/
def execStfe (g : Guard) (d a b : Reg) (imm : BitVec 16) (s : State) : Step :=
  head s g {} fun s => feForm s false (some false) true d b (offsetAddr s a imm)
/-- R174. -/
def execLdff (g : Guard) (d a b : Reg) (imm : BitVec 16) (s : State) : Step :=
  head s g {} fun s => feForm s true (some true) true d b (offsetAddr s a imm)
/-- R174. -/
def execLdre (g : Guard) (d a b : Reg) (imm : BitVec 16) (s : State) : Step :=
  head s g {} fun s => feForm s true none false d b (offsetAddr s a imm)
/-- R174. -/
def execStsf (g : Guard) (d a b : Reg) (imm : BitVec 16) (s : State) : Step :=
  head s g {} fun s => feForm s false none true d b (offsetAddr s a imm)

/-- What is no issue of a head leaves the barrel pointer of the core where it is (R103). -/
def keepsBarrel (s : State) : Step → Step
  | .next t => .next (t.setCore s.myCore { t.core s.myCore with ptr := (s.core s.myCore).ptr })
  | r => r

/-- The next attempt of a blocked full/empty instruction may be made: 8 cc have passed since the last, or its parked read is no longer guarded (R161, R359). -/
def feDue (s : State) (n : Nat) : Bool :=
  match (s.slot n).wait with
  | .fe _ due => decide (due ≤ s.cc)
  | .parked _ key len tries => tries != 0 && !parks s n key len
  | _ => false

/-- R161: 8 cc after a failed attempt the blocked head makes the next one, which is no issue. -/
def execFeRetryAttempt (s : State) : Step :=
  if !feDue s s.cur then .next s
  else
    match instrAt s.sl with
    | some (.ldfe g d a b imm) => keepsBarrel s (execLdfe g d a b imm s)
    | some (.stfe g d a b imm) => keepsBarrel s (execStfe g d a b imm s)
    | some (.ldff g d a b imm) => keepsBarrel s (execLdff g d a b imm s)
    | some (.ldre g d a b imm) => keepsBarrel s (execLdre g d a b imm s)
    | some (.stsf g d a b imm) => keepsBarrel s (execStsf g d a b imm s)
    | _ => .next s

/-- `fecl` on the words from a key (R174): F := X, W cleared; a change of F is a write that the monitors see (R165); the lowest word that wakes is
returned. -/
def feClear (s : State) (full : Bool) : Nat → Nat → State × Option Nat
  | 0, _ => (s, none)
  | n + 1, key =>
    let fb := s.feAt key
    let r := feClear ((if fb.f != full then s.noteWrite key 8 else s).setFe key ⟨full, false⟩) full n (key + 8)
    (r.1, if fb.w && fb.f != full then some key else r.2)

/-- R174. -/
def execFecl (g : Guard) (a b : Reg) (full : Bool) (s : State) : Step :=
  head s g {} fun s =>
    let va := s.getS a
    let len := (s.getS b).toNat
    if va.toNat % 8 ≠ 0 ∨ len % 8 ≠ 0 then .trap s (memTrap 8 .write va)
    else
      match if len = 0 then none else (rangeAddress s s.cur .write va len).or (checkWhere s s.cur .write false va 1) with
      | some t => .trap s t
      | none =>
        let key := localKey s.myCore (whereIs va)
        match feRegion s s.myCore (whereIs va) with
        | none => .trap s (memTrap 6 .write va)
        | some r =>
          if len = 0 ∨ 32768 < len ∨ r.2 < key + len then .trap s (memTrap 6 .write va)
          else
            let q := feClear (storesEnter s s.cur) full (len / 8) key
            match q.2 with
            | some k => .post q.1 (trapI 11 0 ((va.toNat + (k - key)) % 2 ^ 32))
            | none => .retire q.1 .seq

/-! ## Monitors (R164, R175) -/

/-- R175: arms the monitor on the sector of s[A]. -/
def execMon (g : Guard) (a : Reg) (s : State) : Step :=
  head s g {} fun s =>
    let va := s.getS a
    (locate s s.cur .read false false va 1).eff fun s loc =>
      let key := match loc with
        | .mem k => k / 64 * 64
        | .glob pa _ => if pa / 2 ^ 42 == s.module.toNat then pa % 2 ^ 42 / 64 * 64 else pa / 64 * 64 + 2 ^ 55
        | _ => 0
      s.setSl { s.sl with mon := ⟨va.extractLsb' 6 58, key, true, false, false⟩ }

/-- A monitor on a sector of another module may be hit by anyone (R165): the choice is free. -/
def monitorSeen (s : State) : State :=
  let m := s.sl.mon
  if m.armed && decide (2 ^ 55 ≤ m.key) then
    let s := s.draw
    s.setSl { s.sl with mon := { m with hit := m.hit || Config.choose s.free } }
  else s

/-- R175. -/
def execMwait (g : Guard) (d a : Reg) (s : State) : Step :=
  head s g {} fun s =>
    let s := monitorSeen s
    let m := s.sl.mon
    let dl := (s.getS a).toNat
    if !m.armed then .retire (s.setS d 2) .seq
    else if m.hit then .retire ((s.setSl { s.sl with mon := { m with armed := false, rearm := false } }).setS d 0) .seq
    else if m.rearm then .retire ((s.setSl { s.sl with mon := { m with rearm := false } }).setS d 1) .seq
    else if dl ≠ 0 ∧ dl ≤ s.tb then .retire (s.setS d 3) .seq
    else .wait s (.monitor dl)

/-- R175: the time base reaches the deadline of a waiting `mwait`, which is then no longer blocked, and retires when the barrel issues it. -/
def execMwaitDeadline (s : State) : Step :=
  match s.sl.wait with
  | .monitor dl => .next (if dl ≠ 0 ∧ dl ≤ s.tb then s.setSl { s.sl with wait := .none } else s)
  | _ => .next s

/-! ## Fences (R176) -/

/-- R176: release, acquire, or both, at a scope. -/
def execFence (g : Guard) (scope : Scope) (kind : MemOrd) (s : State) : Step :=
  head s g {} fun s =>
    let rel := decide (kind = .rel ∨ kind = .ar)
    let s := if rel then slotRelease s scope.code else s
    if rel && !slotReleased s scope.code then .wait s .poll
    else .retire (if kind = .acq ∨ kind = .ar then acquire s s.myCl scope.code else s) .seq

/-! ## Scratchpad allocation (R157, R177, R178) -/

/-- Runs of CSP blocks that are not free: allocated, being zeroed, or reserved for a save area (R157, R456). -/
def cspUsed (c : Cluster) : List (Nat × Nat) :=
  c.allocs.map (fun a => (a.base, a.blocks)) ++ c.zeroing ++ (if c.reserved then [(1408, 640)] else [])

/-- The blocks from `b` for `n` are free and zeroed. -/
def cspRunFree (c : Cluster) (b n : Nat) : Bool :=
  decide (b + n ≤ 2048) && (cspUsed c).all fun r => decide (r.1 + r.2 ≤ b) || decide (b + n ≤ r.1)

/-- The lowest run of `n` free, zeroed blocks. -/
def cspFit (c : Cluster) (n : Nat) : Option Nat := (List.range 2048).find? fun b => cspRunFree c b n

/-- CSPFREE.BLOCKS (Table 6.5). -/
def cspFree (c : Cluster) : Nat := (List.range 2048).countP fun b => cspRunFree c b 1

/-- Clears F and W of the words from a key (R159). -/
def clearFe (s : State) (key n : Nat) : State :=
  { s with fe := s.fe.filter fun p => decide (8 * p.1 < key) || decide (key + n ≤ 8 * p.1) }

/-- Zeroes the bytes from a key. -/
def zeroKeys (s : State) (key n : Nat) : State :=
  { s with mem := s.mem.filter (fun p => decide (p.1 < key) || decide (key + n ≤ p.1)),
           lost := s.lost.filter fun w => decide (8 * w < key) || decide (key + n ≤ 8 * w) }

/-- R177. -/
def execSpal (g : Guard) (d a : Reg) (bank : BitVec 3) (fe side : BitVec 2) (s : State) : Step :=
  plain s g fun s =>
    let len := (s.getS a).toNat
    let c := s.cluster s.myCl
    if len = 0 ∨ 0x800000 < len ∨ 64 ≤ c.allocs.length then s.setS d 0
    else
      match cspFit c (ceilDiv len 4096) with
      | none => s.setS d 0
      | some b =>
        let n := ceilDiv len 4096
        let s := s.setCluster s.myCl { c with allocs := c.allocs ++ [⟨b, n, bank.toNat, side.toNat, fe.toNat, true, s.myLaunch⟩] }
        (clearFe s (cspKey s.myCl (4096 * b)) (4096 * n)).setS d (wordN (0x800000 + 4096 * b))

/-- Whether two ranges (first, length) share a byte. -/
def overlap (a an b bn : Nat) : Bool := decide (a < b + bn) && decide (b < a + an)

/-- A request in flight to a freed range of a cluster's CSP is refused with status 5 (R178). -/
def flightFreed (cl key n : Nat) (m : Flight) : Flight :=
  match m with
  | .store src dst launch entry _ off bytes =>
    if dst / 16 == cl && (match localWhere off with | .csp o => overlap (cspKey cl o) bytes.length key n | _ => false) then
      .storeRefused src launch entry 5
    else m
  | .load slot dst launch off size _ =>
    if dst / 16 == cl && (match localWhere off with | .csp o => overlap (cspKey cl o) size key n | _ => false) then
      .loadReply slot launch 5 0
    else m
  | m => m

/-- The engines and the requests in flight learn that a range of a cluster's CSP has been freed (R178): engine operations accepted
before find their blocks freed. -/
def regionFreed (s : State) (cl key n : Nat) : State :=
  { s with
    tmes := s.tmes.map fun p =>
      (p.1, if p.1 / 8 = cl then { p.2 with ops := p.2.ops.map fun o => { o with freed := (key, n) :: o.freed } } else p.2)
    copies := s.copies.map fun p => (p.1, { p.2 with ops := p.2.ops.map fun o => { o with freed := (key, n) :: o.freed } })
    net := s.net.map fun p => (p.1, flightFreed cl key n p.2) }

/-- Numbers from `a`, `n` of them. -/
def numbers (a n : Nat) : List Nat := (List.range n).map (a + ·)

/-- The stores that the slots of a cluster have retired are performed. -/
def clusterStores (s : State) (cl : Nat) : State := (numbers (64 * cl) 64).foldl storesEnter s

/-- R178: the accesses in flight, which the stores in the slots' queues are, complete first. -/
def execSpfr (g : Guard) (d a : Reg) (s : State) : Step :=
  plain s g fun s =>
    let s := clusterStores s s.myCl
    let c := s.cluster s.myCl
    match c.allocs.find? fun x => s.getS a == wordN (0x800000 + 4096 * x.base) && some x.owner == c.launch with
    | none => s.setS d 1
    | some x =>
      if x.spal then
        let s := regionFreed s s.myCl (cspKey s.myCl (4096 * x.base)) (4096 * x.blocks)
        (s.setCluster s.myCl { c with allocs := c.allocs.filter (· != x), zeroing := c.zeroing ++ [(x.base, x.blocks)] }).setS d 0
      else s.setS d 2

/-- R157: the next freed block of a cluster has been zeroed and is free. -/
def execCspBlockZeroed (cl : Nat) (s : State) : Step :=
  let c := s.cluster cl
  match c.zeroing with
  | (b, n) :: r =>
    let s := s.setCluster cl { c with zeroing := if n ≤ 1 then r else (b + 1, n - 1) :: r }
    .next (clearFe ((zeroKeys s (cspKey cl (4096 * b)) 4096).noteWrite (cspKey cl (4096 * b)) 4096) (cspKey cl (4096 * b)) 4096)
  | [] => .next s

end Sys2Proof.Machine
end

