-- ==== Sys2Proof/Machine/Sync.lean ====
section
/-!
DEFINITION. Semaphores, queue ports, light handlers, hardware rings and stage rings (09 R246 to R269).
-/

namespace Sys2Proof.Machine

/-! ## Semaphores (R267) -/

/-- R267: the wait parcel and nothing else. -/
def execSwt (g : Guard) (i t : BitVec 8) (s : State) : Step :=
  head s g { eng := some ⟨i, t, 0, 0⟩ } fun s => .retire s .seq
/-- R267, R249: the signal parcel, even under a false guard. -/
def execSsig (g : Guard) (j n : BitVec 8) (s : State) : Step :=
  head s g { eng := some ⟨0, 0, j, n⟩ } fun s => .retire s .seq
/-- R267. -/
def execSset (g : Guard) (d a : Reg) (idx : BitVec 8) (s : State) : Step :=
  plain s g fun s =>
    semUpdate s s.myTile (if isCompute s.myCore then 2 else 1) [s.myCore] fun s =>
      let v := (s.getS a).toNat
      let t := s.setS d (wordN (semGet s s.myTile idx.toNat))
      if 65535 < v then semPut (semSaturated t t.myTile idx.toNat) t.myTile idx.toNat 65535 else semPut t t.myTile idx.toNat v
/-- R267: it sees the result of the updates of its cycle and of the waits (R248). -/
def execSrd (g : Guard) (d : Reg) (idx : BitVec 8) (s : State) : Step :=
  plain s g fun s =>
    let s := semNow s s.myTile
    s.setS d (wordN (semGet s s.myTile idx.toNat))

/-! ## Queue ports (R253 to R257, R268) -/

/-- The core in a direction of Table 9.1 from a core. -/
def portCore (core dir : Nat) : Option Nat :=
  let t := core % 16 / 2
  match dir with
  | 1 => if t % 4 < 3 then some (core + 2) else none
  | 2 => if 0 < t % 4 then some (core - 2) else none
  | 3 => if t < 4 then some (core + 8) else none
  | 4 => if 4 ≤ t then some (core - 8) else none
  | 5 => some (if core % 2 = 0 then core + 1 else core - 1)
  | _ => none

/-- Byte `q` of LINKDIR: DIR and TPORT of a port (Table 9.5). -/
def linkByte (s : State) (core : Nat) (q : Fin 4) : Nat := (s.core core).linkdir.toNat / 2 ^ (8 * q.val) % 256

/-- The target of port `q` of a core: a core and its port (R253), numbered 4 core + port. -/
def portTarget (s : State) (core : Nat) (q : Fin 4) : Option Nat :=
  (portCore core (linkByte s core q % 8)).map fun c => 4 * c + linkByte s core q / 8 % 4

/-- The input queue of a port numbered 4 core + port. -/
def portQueue (s : State) (p : Nat) : PortQueue := (s.core (p / 4)).q[p % 4]?.getD ⟨[], []⟩

/-- Replaces the input queue of a port. -/
def setPortQueue (s : State) (p : Nat) (q : PortQueue) : State :=
  let c := s.core (p / 4)
  s.setCore (p / 4) { c with q := c.q.set (Fin.ofNat 4 p) q }

/-- Entries that a queue has left to reserve (R255). -/
def portRoom (q : PortQueue) : Nat := 16 - q.entries.length - q.landing.length

/-- The age of a slot's wait for a reservation on a queue. -/
def pushAge (s : State) (m p : Nat) : Option Nat :=
  match (s.slot m).wait with
  | .push k a => if k = p then some a else none
  | _ => none

/-- A `mrunq` of a matrix engine waits to forward an entry to a queue, since an age (R242, R255). -/
def forwardAge (o : TmeOp) (p : Nat) : Option Nat :=
  match o.fwd with
  | some (q, some _) => if q = p ∧ o.age ≠ 0 then some o.age else none
  | _ => none

/-- A push that is older waits on a queue (R255): of another slot than `m`, or a forward of a matrix engine. -/
def olderPush (s : State) (m : Option Nat) (p age : Nat) : Bool :=
  (s.slots.any fun x => some x.1 != m && (match pushAge s x.1 p with | some a => decide (a < age) | none => false)) ||
    s.tmes.any fun x => x.2.ops.any fun o => (forwardAge o p).any (· < age)

/-- An entry is reserved in a queue for a pushing core (R255). -/
def reserveEntry (s : State) (core p : Nat) (e : PortEntry) : State :=
  let pq := portQueue s p
  setPortQueue s p { pq with landing := pq.landing ++ [(core, e)] }

/-- A push of slot `m` to port `q` (R254, R255): it reserves an entry, or waits. -/
def push (s : State) (m : Nat) (q : Fin 4) (e : PortEntry) : Res Unit :=
  match portTarget s (coreOf m) q with
  | none => .trap s (trapI 16 1 q.val)
  | some p =>
    let s := if (pushAge s m p).isNone then s.older else s
    let age := (pushAge s m p).getD s.age
    if portRoom (portQueue s p) = 0 || olderPush s (some m) p age then .wait s (.push p age)
    else .ok (reserveEntry s (coreOf m) p e) ()

/-- The number under which an error in the head entry of an input port stands among the lost words (log entry 8). -/
def portWord (p : Nat) : Nat := 2 ^ 59 + p

/-- Some of these words hold an uncorrectable error. -/
def State.anyLost (s : State) (ws : List Nat) : Bool := ws.any s.lost.contains

/-- These words have been written afresh. -/
def State.mended (s : State) (ws : List Nat) : State := { s with lost := s.lost.filter fun w => !ws.contains w }

/-- The head entry of a queue leaves it. -/
def dequeued (s : State) (p : Nat) (r : List PortEntry) : State := (setPortQueue s p { portQueue s p with entries := r }).mended [portWord p]

/-- The entries reserved in a queue land (R255). -/
def PortQueue.landed (q : PortQueue) : PortQueue := ⟨q.entries ++ q.landing.map (·.2), []⟩

/-- A data-loss fault of slot `m` at an entry of its queue, which stays, and its error entry of TYPE 1 (R464); it has no address. -/
def portLoss {α : Type} (s : State) (m : Nat) : Res α := dataLoss s m Config.portLossSub.toNat 0

/-- R256: a dequeue, or a light handler's entry (R257); an entry that holds an error is a data-loss fault (R464). -/
def execQportRead (g : Guard) (d : Reg) (q : Fin 4) (s : State) : Step :=
  head s g {} fun s =>
    let p := 4 * s.myCore + q.val
    let pq := portQueue s p
    match pq.entries with
    | [] => .wait s (.port q.val)
    | e :: r =>
      let l := s.sl
      if s.anyLost [portWord p] then (portLoss s s.cur).eff fun s (_ : Unit) => s
      else if !e.c then .retire ((dequeued s p r).setS d e.data) .seq
      else if l.lhact then .trap s (trapI 16 2 q.val)
      else if l.lhvec = 0 then .trap s (trapI 16 3 q.val)
      else
        .retire ((dequeued s p r).setSl { l with lhpc := l.pc, lhval := e.data, lhact := true })
          (.jump l.lhvec)
/-- R256. -/
def execQportWrite (g : Guard) (d a : Reg) (q : Fin 4) (s : State) : Step :=
  head s g {} fun s => (push s s.cur q ⟨s.getS a, false⟩).eff fun s _ => s.setS d 0
/-- R255: the oldest reserved entry of a port of a core lands; the port is the item `sel`. -/
def execQueueEntryLanding (core : Nat) (s : State) : Step :=
  let p := 4 * core + s.sel % 4
  let pq := portQueue s p
  match pq.landing with
  | (_, e) :: r => .next (setPortQueue s p ⟨pq.entries ++ [e], r⟩)
  | [] => .next s
/-- R268. -/
def execQctl (g : Guard) (q : Fin 4) (a : Reg) (s : State) : Step :=
  head s g {} fun s => (push s s.cur q ⟨s.getS a, true⟩).eff fun s _ => s
/-- R268. -/
def execQstat (g : Guard) (d : Reg) (q : Fin 4) (s : State) : Step :=
  plain s g fun s =>
    let pq := portQueue s (4 * s.myCore + q.val)
    let c := match pq.entries with | e :: _ => e.c | [] => false
    let t := portTarget s s.myCore q
    s.setS d (wordN (pq.entries.length + 32 * b2n c + 64 * (t.elim 0 fun p => portRoom (portQueue s p)) + 2048 * b2n t.isSome))
/-- R268. -/
def execQdir (g : Guard) (d : Reg) (q : Fin 4) (dir : BitVec 3) (tport : BitVec 2) (s : State) : Step :=
  plain s g fun s =>
    let c := s.core s.myCore
    let v := dir.toNat + 8 * tport.toNat
    (s.setCore s.myCore { c with linkdir :=
      (c.linkdir &&& ~~~ (0xFF#32 <<< (8 * q.val))) ||| (BitVec.ofNat 32 v <<< (8 * q.val)) }).setS d (wordN (linkByte s s.myCore q))
/-- R268. -/
def execQflush (g : Guard) (mask : BitVec 4) (s : State) : Step :=
  plain s g fun s =>
    (List.range 4).foldl (fun s q =>
      if mask.getLsbD q then dequeued s (4 * s.myCore + q) [] else s) s

/-- The new value of a CSR instruction (R149). -/
def csrNew (op : CsrOp) (old v : Word) : Word :=
  match op with
  | .csrr => old
  | .csrw => v
  | .csrs => old ||| v
  | .csrc => old &&& ~~~ v

/-- R257: a write of 1 to LHST.RET in a light handler returns from it. -/
def execLhstRet (g : Guard) (op : CsrOp) (d a : Reg) (s : State) : Step :=
  head s g {} fun s =>
    let l := s.sl
    let old := wordN (b2n l.lhact)
    let new := csrNew op old (s.getS a)
    if op ≠ .csrr && new.getLsbD 1 && l.lhact then .retire ((s.setSl { l with lhact := false }).setS d old) (.jump l.lhpc)
    else .retire (s.setS d old) .seq

/-! ## Hardware rings (R258 to R261) -/

/-- A ring header (Table 9.2). -/
structure Ring where
  base   : Nat
  nslot  : Nat
  sz     : Nat
  free   : Nat
  filled : Nat
  acq    : Nat
  pub    : Nat
  take   : Nat
  rel    : Nat
  whole  : Nat
  rsv    : Bool
  pbit   : Nat
  rbit   : Nat
  deriving DecidableEq, Repr

/-- Reads the ring header at a memory key. -/
def ringAt (s : State) (k : Nat) : Ring where
  base := s.num k 8
  nslot := s.num (k + 8) 2
  sz := s.num (k + 10) 2
  free := s.num (k + 12) 2
  filled := s.num (k + 14) 2
  acq := s.num (k + 16) 2
  pub := s.num (k + 18) 2
  take := s.num (k + 20) 2
  rel := s.num (k + 22) 2
  whole := s.num (k + 24) 1
  rsv := s.num (k + 25) 39 == 0
  pbit := s.num (k + 64) 32
  rbit := s.num (k + 96) 32

/-- The bytes of a ring header. -/
def Ring.bytes (r : Ring) : List Byte :=
  bytesOf 8 r.base ++ bytesOf 2 r.nslot ++ bytesOf 2 r.sz ++ bytesOf 2 r.free ++ bytesOf 2 r.filled ++ bytesOf 2 r.acq ++
    bytesOf 2 r.pub ++ bytesOf 2 r.take ++ bytesOf 2 r.rel ++ bytesOf 1 r.whole ++ bytesOf 39 0 ++ bytesOf 32 r.pbit ++
    bytesOf 32 r.rbit

/-- NA: the length of the run of acquired slots (R259). -/
def Ring.na (r : Ring) : Nat := if r.whole = 1 then r.nslot else (r.acq + r.nslot - r.pub) % r.nslot

/-- NT: the length of the run of taken slots (R259). -/
def Ring.nt (r : Ring) : Nat := if r.whole = 2 then r.nslot else (r.take + r.nslot - r.rel) % r.nslot

/-- A valid ring header (R259). -/
def Ring.ok (r : Ring) : Bool :=
  decide (1 ≤ r.nslot) && decide (r.nslot ≤ 256) && decide (64 ≤ r.sz) && decide (r.sz ≤ 16384) && r.sz % 64 == 0 &&
    decide (r.acq < r.nslot) && decide (r.pub < r.nslot) && decide (r.take < r.nslot) && decide (r.rel < r.nslot) &&
    decide (r.whole ≤ 2) &&
    (r.whole == 0 || (r.free == 0 && r.filled == 0 && r.acq == r.pub && r.pub == r.take && r.take == r.rel)) &&
    r.rsv && r.free + r.filled + r.na + r.nt == r.nslot && (r.free != r.nslot || (r.na == 0 && r.nt == 0))

/-- An acquisition of `n` slots by a producer, or a take by a consumer, where they are there (R260). -/
def Ring.get (r : Ring) (take : Bool) (n : Nat) : Option (Nat × Ring) :=
  if take then
    if n ≤ r.filled then
      let r' := { r with take := (r.take + n) % r.nslot, filled := r.filled - n }
      some (r.base + r.take * r.sz,
        { r' with whole := if r'.filled = 0 ∧ r'.free = 0 ∧ r.na = 0 then 2 else r'.whole })
    else none
  else if n ≤ r.free then
    let r' := { r with acq := (r.acq + n) % r.nslot, free := r.free - n }
    some (r.base + r.acq * r.sz,
      { r' with whole := if r'.free = 0 ∧ r'.filled = 0 ∧ r.nt = 0 then 1 else r'.whole })
  else none

/-- PUB passes the slots whose PBIT is set, or REL those whose RBIT is (R260). -/
def Ring.pass (rel : Bool) : Nat → Ring → Ring
  | 0, r => r
  | n + 1, r =>
    if rel then
      if r.rbit.testBit r.rel then
        Ring.pass rel n { r with rbit := r.rbit - 2 ^ r.rel, rel := (r.rel + 1) % r.nslot, free := r.free + 1,
                                 whole := if r.whole = 2 then 0 else r.whole }
      else r
    else if r.pbit.testBit r.pub then
      Ring.pass rel n { r with pbit := r.pbit - 2 ^ r.pub, pub := (r.pub + 1) % r.nslot, filled := r.filled + 1,
                               whole := if r.whole = 1 then 0 else r.whole }
    else r

/-- A publication of `n` slots from `k`, or a release; `none` is a ring fault (R260). -/
def Ring.put (r : Ring) (rel : Bool) (k n : Nat) : Option Ring :=
  let ks := (List.range n).map fun i => (k + i) % r.nslot
  if rel then
    if ks.all fun x => decide ((x + r.nslot - r.rel) % r.nslot < r.nt) && !r.rbit.testBit x then
      some (Ring.pass true 256 { r with rbit := ks.foldl (fun b x => b ||| 2 ^ x) r.rbit })
    else none
  else if ks.all fun x => decide ((x + r.nslot - r.pub) % r.nslot < r.na) && !r.pbit.testBit x then
    some (Ring.pass false 256 { r with pbit := ks.foldl (fun b x => b ||| 2 ^ x) r.pbit })
  else none

/-- Whether every block of a range of CSP bytes belongs to the launch that runs there. -/
def cspSpan (s : State) (cl off n : Nat) : Bool :=
  (List.range (n / 4096 + 2)).all fun i =>
    let o := if i = 0 then off else (off / 4096 + i) * 4096
    decide (off + n ≤ o) || (cspAllocAt s cl o).isSome

/-- The access check of a range of `n` bytes that must lie in CSP allocations of the launch (R266). -/
def spanAccess (s : State) (va : Word) (n : Nat) : Option Trap :=
  match whereIs va with
  | .csp off => if cspSpan s s.myCl off n then none else some (memTrap 6 .write va)
  | _ => some (memTrap 6 .write va)

/-- The first of several checks that fails. -/
def firstTrap : List (Option Trap) → Option Trap
  | [] => none
  | some t :: _ => some t
  | none :: r => firstTrap r

/-- The checks of the header of a ring or stage form (R266), once the slot's earlier stores have entered the cache (R261, R425): its memory key. -/
def headerKey (s : State) (va : Word) (n : Nat) : Res Nat :=
  match firstTrap [if va.toNat % n = 0 then none else some (memTrap 8 .write va), rangeAddress s s.cur .write va n, spanAccess s va n] with
  | some t => .trap s t
  | none =>
    let k := localKey s.myCore (whereIs va)
    let s := storesEnter s s.cur
    if s.lostIn k n then dataLoss s s.cur 2 va else .ok s k

/-- The age of a slot's waiting request of a kind on a ring. -/
def ringAge (s : State) (m k kind : Nat) : Option Nat :=
  match (s.slot m).wait with
  | .ring k' kind' a => if k' = k ∧ kind' = kind then some a else none
  | _ => none

/-- A copy of a copy engine waits for slots of the ring at a key since an earlier age (R260, R372). -/
def olderCopy (s : State) (k age : Nat) : Bool :=
  s.copies.any fun p => p.2.ops.any fun o =>
    o.started && o.ring.isNone && !o.halted && decide (o.age < age) &&
      (match o.dst with | .ring core off => localKey core (localWhere off) == k | _ => false)

/-- A request of the kind that is older waits on the ring: of another slot than `m`, or of a copy (R260). -/
def olderRing (s : State) (m : Option Nat) (k kind age : Nat) : Bool :=
  (s.slots.any fun x => some x.1 != m && (match ringAge s x.1 k kind with | some a => decide (a < age) | none => false)) ||
    (kind == 0 && olderCopy s k age)

/-- The age of the executing slot's request, a new one if it does not wait yet. -/
def myRingAge (s : State) (k kind : Nat) : State × Nat :=
  match ringAge s s.cur k kind with
  | some a => (s, a)
  | none => (s.older, s.age + 1)

/-- R269. -/
def execRbinit (g : Guard) (a b : Reg) (nslot1 slotsz1 : BitVec 8) (s : State) : Step :=
  head s g {} fun s =>
    let va := s.getS a
    let base := s.getS b
    let n := nslot1.toNat + 1
    let sz := 64 * (slotsz1.toNat + 1)
    let checks := [if va.toNat % 128 = 0 then none else some (memTrap 8 .write va),
      if base.toNat % 64 = 0 then none else some (memTrap 8 .write base),
      rangeAddress s s.cur .write va 128, rangeAddress s s.cur .write base (n * sz), spanAccess s va 128, spanAccess s base (n * sz)]
    match firstTrap checks with
    | some t => .trap s t
    | none =>
      .retire ((storesEnter s s.cur).write (localKey s.myCore (whereIs va))
        (Ring.bytes ⟨base.toNat, n, sz, n, 0, 0, 0, 0, 0, 0, true, 0, 0⟩)) .seq

/-- `rbacq` and `rbtake` (R260, R269). -/
def ringGet (s : State) (take : Bool) (d a : Reg) (n : BitVec 9) (try_ : Bool) : Eff :=
  (headerKey s (s.getS a) 128).effThen fun s k =>
    let r := ringAt s k
    let kind := if take then 1 else 0
    if !r.ok || decide (r.nslot < n.toNat) then .trap s (trapI 17 0 0)
    else
      let p := myRingAge s k kind
      match if olderRing s (some s.cur) k kind p.2 then none else r.get take n.toNat with
      | some (addr, r) => .retire ((s.write k r.bytes).setS d (wordN addr)) .seq
      | none => if try_ then .retire (s.setS d 0) .seq else .wait p.1 (.ring k kind p.2)

/-- R269. -/
def execRbacq (g : Guard) (d a : Reg) (n : BitVec 9) (try_ : Bool) (s : State) : Step :=
  head s g {} fun s => ringGet s false d a n try_
/-- R269. -/
def execRbtake (g : Guard) (d a : Reg) (n : BitVec 9) (try_ : Bool) (s : State) : Step :=
  head s g {} fun s => ringGet s true d a n try_

/-- The slot that an address names in a ring (R269). -/
def Ring.slotAt (r : Ring) (addr : Nat) : Option Nat :=
  if r.base ≤ addr ∧ (addr - r.base) % r.sz = 0 ∧ (addr - r.base) / r.sz < r.nslot then some ((addr - r.base) / r.sz) else none

/-- `rbpub` and `rbrel` (R260, R269): releases at cluster scope (R261), to which the slot's stores are performed already. -/
def ringPut (s : State) (rel : Bool) (a b : Reg) (n : BitVec 9) : Eff :=
  (headerKey s (s.getS a) 128).effThen fun s k =>
    let r := ringAt s k
    if !r.ok || decide (r.nslot < n.toNat) then .trap s (trapI 17 0 0)
    else
      match (r.slotAt (s.getS b).toNat).bind fun x => r.put rel x n.toNat with
      | some r => .retire (s.write k r.bytes) .seq
      | none => .trap s (trapI 17 0 0)

/-- R269. -/
def execRbpub (g : Guard) (a b : Reg) (n : BitVec 9) (s : State) : Step := head s g {} fun s => ringPut s false a b n
/-- R269. -/
def execRbrel (g : Guard) (a b : Reg) (n : BitVec 9) (s : State) : Step := head s g {} fun s => ringPut s true a b n

/-! ## Stage rings (R262, R263) -/

/-- NSTAGE, NROLE and CUR of a role of the stage ring at a key (Table 9.3). -/
def stageCur (s : State) (k role : Nat) : Nat := s.num (k + 2 + role) 1

/-- A stage word. -/
def stageWord (s : State) (k i : Nat) : Nat := s.num (k + 16 + 2 * i) 2

/-- OWNER of a stage. -/
def stageOwner (s : State) (k i : Nat) : Nat := stageWord s k i % 8

/-- A stage ring header without a ring fault (R262). -/
def stageOk (s : State) (k : Nat) : Bool :=
  let ns := s.num k 1
  let nr := s.num (k + 1) 1
  decide (1 ≤ ns) && decide (ns ≤ 16) && decide (2 ≤ nr) && decide (nr ≤ 8) &&
    ((List.range 8).all fun r => decide (stageCur s k r < ns)) &&
    (List.range 16).all fun i =>
      decide (stageOwner s k i < nr) && (fB (stageWord s k i) 3 == (stageOwner s k i != 0))

/-- R269, R263. -/
def execStacq (g : Guard) (d a : Reg) (role : BitVec 3) (try_ : Bool) (s : State) : Step :=
  head s g {} fun s =>
    (headerKey s (s.getS a) 64).effThen fun s k =>
      let r := role.toNat
      if !stageOk s k || decide (s.num (k + 1) 1 ≤ r) then .trap s (trapI 17 0 0)
      else
        let p := myRingAge s k (2 + r)
        let c := stageCur s k r
        if stageOwner s k c == r && !olderRing s (some s.cur) k (2 + r) p.2 then
          .retire ((s.writeNum (k + 2 + r) 1 ((c + 1) % s.num k 1)).setS d (wordN c)) .seq
        else if try_ then .retire (s.setS d (BitVec.allOnes 64)) .seq
        else .wait p.1 (.ring k (2 + r) p.2)
/-- R269, R263: a release at cluster scope, to which the slot's stores are performed already. -/
def execStrel (g : Guard) (a b : Reg) (role : BitVec 3) (s : State) : Step :=
  head s g {} fun s =>
    (headerKey s (s.getS a) 64).effThen fun s k =>
      let r := role.toNat
      let i := (s.getS b).toNat
      if !stageOk s k || decide (s.num (k + 1) 1 ≤ r) || decide (s.num k 1 ≤ i) || stageOwner s k i != r then .trap s (trapI 17 0 0)
      else
        let o := (r + 1) % s.num (k + 1) 1
        let lap := stageWord s k i / 16 % 256
        .retire (s.writeNum (k + 16 + 2 * i) 2 (o + 8 * b2n (o != 0) + 16 * (if o = 0 then (lap + 1) % 256 else lap))) .seq

end Sys2Proof.Machine
end

