-- ==== Sys2Proof/Machine/Special.lean ====
section
/-!
DEFINITION. The exact values of the special functions that Table 7.9 gives a bound to (R211), computed in fixed point of 1,024 fraction bits,
and the bound itself.
-/

namespace Sys2Proof.Machine

/-! ## Fixed point -/

/-- One, with 1,024 fraction bits. -/
def fxOne : Nat := 2 ^ 1024

/-- The product of two numbers with 1,024 fraction bits. -/
def fxMul (a b : Nat) : Nat := a * b / fxOne

/-- m × 2^e with 1,024 fraction bits; the exponents of FP32 are above −1024. -/
def fxOf (m : Nat) (e : Int) : Nat := m * 2 ^ (e + 1024).toNat

/-- The terms y^k / k! from `t` on, added to `s`. -/
def expSeries (y : Nat) : Nat → Nat → Nat → Nat → Nat
  | 0, _, _, s => s
  | n + 1, k, t, s => expSeries y n (k + 1) (fxMul t y / k) (s + fxMul t y / k)

/-- e^y for y below 1. -/
def fxExp (y : Nat) : Nat := expSeries y 200 1 fxOne fxOne

/-- The terms z^k / k of odd k, those of k = 3, 7, 11, ... subtracted where `alt` holds; `p` is z^k and `q` is z². -/
def oddSeries (alt : Bool) (q : Nat) : Nat → Nat → Nat → Nat → Nat
  | 0, _, _, s => s
  | n + 1, k, p, s => oddSeries alt q n (k + 2) (fxMul p q) (if alt && k % 4 == 3 then s - p / k else s + p / k)

/-- The inverse hyperbolic tangent of z, at most 1/3. -/
def fxAtanh (z : Nat) : Nat := oddSeries false (fxMul z z) 340 1 z 0

/-- The inverse tangent of 1 / n. -/
def fxAtanInv (n : Nat) : Nat := oddSeries true (fxOne / (n * n)) 240 1 (fxOne / n) 0

/-- π = 16 arctan (1/5) − 4 arctan (1/239). -/
def fxPi : Nat := 16 * fxAtanInv 5 - 4 * fxAtanInv 239

/-- ln 2. -/
def fxLn2 : Nat := 2 * fxAtanh (fxOne / 3)

/-- e^−y. -/
def fxExpNeg (y : Nat) : Nat := fxOne * fxOne / fxExp (y % fxLn2) / 2 ^ (y / fxLn2)

/-- The alternating terms of the sine or the cosine from `t` on; `q` is r². -/
def trigSeries (q : Nat) : Nat → Nat → Nat → Bool → Int → Int
  | 0, _, _, _, s => s
  | n + 1, k, t, neg, s =>
    let u := fxMul t q / (k * (k + 1))
    trigSeries q n (k + 2) u (!neg) (if neg then s - (u : Int) else s + (u : Int))

/-- sin r, r below 2π. -/
def fxSin (r : Nat) : Int := trigSeries (fxMul r r) 150 2 r true (r : Int)

/-- cos r, r below 2π. -/
def fxCos (r : Nat) : Int := trigSeries (fxMul r r) 150 1 fxOne true (fxOne : Int)

/-- The terms x (2x²)^k / (1 · 3 · ... · (2k + 1)) from `t` on; `q` is 2x². -/
def erfSeries (q : Nat) : Nat → Nat → Nat → Nat → Nat
  | 0, _, _, s => s
  | n + 1, k, t, s => if t = 0 then s else erfSeries q n (k + 2) (fxMul t q / k) (s + fxMul t q / k)

/-- erf x for x below 16. -/
def fxErf (x : Nat) : Nat :=
  let q := fxMul x x
  fxMul (fxExpNeg q) (erfSeries (2 * q) 1300 3 x x) * 2 * fxOne / isqrtGo (fxPi * fxOne) 1030 0

/-! ## The functions -/

/-- A signed number with 1,024 fraction bits, its sign turned where `neg` holds. -/
def fxVal (neg : Bool) (i : Int) : FVal := .fin (neg != decide (i < 0)) i.natAbs (-1024)

/-- 2^x; an integer part beyond 400 either way is held there. -/
def exactExp2 (ng : Bool) (x : Nat) : FVal :=
  if ng then
    let k := ceilDiv x fxOne
    .fin false (fxExp (fxMul (k * fxOne - x) fxLn2)) (-1024 - (min k 400 : Nat))
  else .fin false (fxExp (fxMul (x % fxOne) fxLn2)) (-1024 + (min (x / fxOne) 400 : Nat))

/-- log₂ (m × 2^e). -/
def exactLog2 (m : Nat) (e : Int) : FVal :=
  let v := m * 2 ^ (1024 - Nat.log2 m)
  fxVal false ((e + (Nat.log2 m : Int)) * (fxOne : Int) + ((2 * fxAtanh ((v - fxOne) * fxOne / (v + fxOne)) * fxOne / fxLn2 : Nat) : Int))

/-- 1 / √(m × 2^e). -/
def exactRsqrt (m : Nat) (e : Int) : FVal :=
  let odd := e % 2 != 0
  let n := if odd then 2 * m else m
  let h := (if odd then e - 1 else e) / 2
  .fin false (2 ^ 2048 / isqrtGo (n * 2 ^ 2048) 1040 0) (-1024 - h)

/-- The exact value of a function, other than rcp and sqrt, at ±m × 2^e, to within 2^−900 of it or of 1. Where the value lies nearer to a bound
that it tends to, it is that bound. -/
def sfnExact (fn : SfnOp) (ng : Bool) (m : Nat) (e : Int) : FVal :=
  let x := fxOf m e
  match fn with
  | .exp2 => exactExp2 ng x
  | .log2 => exactLog2 m e
  | .rsqrt => exactRsqrt m e
  | .sin => fxVal ng (fxSin (x % (2 * fxPi)))
  | .cos => fxVal false (fxCos (x % (2 * fxPi)))
  | .tanh =>
    let y := if 256 * fxOne ≤ x then 0 else fxExpNeg (2 * x)
    fxVal ng (((fxOne - y) * fxOne / (fxOne + y) : Nat) : Int)
  | .sigmoid =>
    let y := if 256 * fxOne ≤ x then 0 else fxExpNeg x
    fxVal false (((if ng then y else fxOne) * fxOne / (fxOne + y) : Nat) : Int)
  | .erf => fxVal ng (((if 16 * fxOne ≤ x then fxOne else fxErf x) : Nat) : Int)
  | .rcp | .sqrt => .fin ng m e

/-! ## The bound -/

/-- The exponent of an ulp of FP32 at a value. -/
def ulpExp : FVal → Int
  | .fin _ m e => if m = 0 then -149 else (if e + (Nat.log2 m : Int) < -126 then -126 else e + (Nat.log2 m : Int)) - 23
  | _ => -149

/-- The bounds of Table 7.9 on a function at ±m × 2^e with the exact value `a`, each n × 2^k; the larger holds. -/
def sfnBounds (fn : SfnOp) (m : Nat) (e : Int) (a : FVal) : List (Nat × Int) :=
  match fn with
  | .exp2 | .rsqrt => [(1, ulpExp a)]
  | .log2 =>
    let top := e + (Nat.log2 m : Int)
    (1, ulpExp a) :: if top = -1 ∨ top = 0 ∨ (top = 1 ∧ m = 2 ^ Nat.log2 m) then [(1, -23)] else []
  | .rcp | .sqrt => []
  | _ => [(2, ulpExp a), (1, -24)]

/-- A number lies within n × 2^k of another. -/
def nearVal (x y : FVal) (b : Nat × Int) : Bool :=
  match x, y with
  | .fin n1 m1 e1, .fin n2 m2 e2 =>
    let e := min (min e1 e2) b.2
    decide ((alignTo n1 m1 e1 e - alignTo n2 m2 e2 e).natAbs ≤ b.1 * 2 ^ (b.2 - e).toNat)
  | _, _ => false

/-- The FP32 result `bits` of a function at ±m × 2^e is within the bound of Table 7.9. -/
def sfnWithin (fn : SfnOp) (ng : Bool) (m : Nat) (e : Int) (bits : Nat) : Bool :=
  let a := sfnExact fn ng m e
  (sfnBounds fn m e a).any (nearVal (fdec .f32 bits) a)

/-- The FP32 bits of a function at an operand for which Table 7.9 gives only a bound: the implementation's choice `c` within it, and where `c`
lies outside it, the nearest number. -/
def sfnChosen (fn : SfnOp) (ng : Bool) (m : Nat) (e : Int) (c : BitVec 32) : Nat :=
  if sfnWithin fn ng m e c.toNat then c.toNat
  else
    match sfnExact fn ng m e with
    | .fin n k h => (roundTo .f32 .rne n k h).1
    | _ => 0

end Sys2Proof.Machine
end

