-- ==== Sys2Proof/Machine/Vector.lean ====
section
/-!
DEFINITION. The vector lane instructions and the special functions (07 R179 to R211): claims and lane pools, elements and masks,
vector memory, arithmetic, comparison, conversion, ternarisation and reduction.
-/

namespace Sys2Proof.Machine

/-! ## Elements (R184) -/

/-- The float format of an element type. -/
def EltTy.float : EltTy → Option FloatTy
  | .f32 => some .f32
  | .bf16 => some .bf16
  | .f16 => some .f16
  | _ => none

/-- Element type of a float format. -/
def FloatTy.elt : FloatTy → EltTy
  | .f32 => .f32
  | .bf16 => .bf16
  | .f16 => .f16

/-- Width of an element. -/
def EltTy.width : EltTy → Nat
  | .f32 | .i32 | .n32 => 32
  | .bf16 | .f16 | .i16 | .n16 => 16
  | .i8 | .n8 => 8

/-- The bits of the element that a lane register holds. -/
def eltBits (ty : EltTy) (r : BitVec 32) : Nat := r.toNat % 2 ^ EltTy.width ty

/-- The integer that an element of an integer type holds. -/
def eltInt (ty : EltTy) (n : Nat) : Int := if ty.isSigned then sx (EltTy.width ty) n else ((n % 2 ^ EltTy.width ty : Nat) : Int)

/-- The 32 bits that a write of an element leaves: i8 and i16 sign-extended, the others zero-extended (R184). -/
def eltReg (ty : EltTy) (n : Nat) : BitVec 32 :=
  BitVec.ofNat 32 (if ty.isSigned then wrapN 32 (sx (EltTy.width ty) n) else n % 2 ^ EltTy.width ty)

/-- The least and the greatest value of an integer type. -/
def eltMin (ty : EltTy) : Int := if ty.isSigned then -(2 ^ (EltTy.width ty - 1) : Int) else 0

/-- The greatest value of an integer type. -/
def eltMax (ty : EltTy) : Int := if ty.isSigned then 2 ^ (EltTy.width ty - 1) - 1 else 2 ^ EltTy.width ty - 1

/-- An integer delivered to an integer type, wrapped or clamped with SAT (R200). -/
def deliverInt (ty : EltTy) (sat : Bool) (i : Int) : Nat × Flags :=
  let c := clampI (eltMin ty) (eltMax ty) i
  if sat then (wrapN (EltTy.width ty) c, if c = i then 0 else fSAT) else (wrapN (EltTy.width ty) i, 0)

/-! ## Lanes and masks (R185, R186) -/

/-- G of the executing slot's claim. -/
def grant (s : State) : Nat := s.sl.claim.g

/-- v[r] of lane `l`. -/
def lane (s : State) (r : Reg) (l : Nat) : BitVec 32 := (s.sl.claim.v[r]).getD l 0

/-- m[i] of lane `l`; m0 reads 1, a lane at or above G reads 0. -/
def maskBit (s : State) (i : Fin 8) (l : Nat) : Bool :=
  decide (l < grant s) && (i == 0 || (s.sl.claim.m[i]).getD l false)

/-- Lane `l` is active (R186). -/
def active (s : State) (g : Guard) (l : Nat) : Bool := decide (l < grant s) && maskBit s g.gi l != g.gn

/-- Some lane is active. -/
def anyActive (s : State) (g : Guard) : Bool := (List.range (grant s)).any (active s g)

/-- The flags of the active lanes together. -/
def laneFlags (s : State) (g : Guard) (f : Nat → Flags) : Flags :=
  (List.range (grant s)).foldl (fun x l => if active s g l then x ||| f l else x) 0

/-- Replaces register `d` of the claim in the active lanes (R186). -/
def writeLanes (s : State) (g : Guard) (d : Reg) (f : Nat → BitVec 32) : State :=
  let c := s.sl.claim
  let new := (List.range c.g).map fun l => if active s g l then f l else lane s d l
  s.setSl { s.sl with claim := { c with v := c.v.set d new } }

/-- Replaces mask `i` in the active lanes; a write to m0 is discarded (R185). -/
def writeMask (s : State) (g : Guard) (i : Fin 8) (f : Nat → Bool) : State :=
  if i = 0 then s
  else
    let c := s.sl.claim
    let new := (List.range c.g).map fun l => if active s g l then f l else maskBit s i l
    s.setSl { s.sl with claim := { c with m := c.m.set i new } }

/-- A lane trap (Table 16.5). -/
def laneTrap (sub info : Nat) : Trap := trapI 15 sub info

/-- A matrix drain of the executing slot has not yet written one of some registers (R189). -/
def drainPending (s : State) (rs : List Reg) : Bool :=
  (s.tme s.myTile).ops.any fun o =>
    o.slot == s.cur && o.claim == s.sl.claim.id &&
      (match o.kind with
        | .drain _ nrow _ _ (some v) _ => rs.any fun r => decide (v.val + o.rows ≤ r.val) && decide (r.val ≤ v.val + nrow)
        | _ => false)

/-- The issue of a vector head that reads some vector registers: the guard by lanes, the parcels (R249), and the wait for a drain into a register that it
reads, which holds when no lane is active too (R188, R189). -/
def vissue (s : State) (g : Guard) (f : Form) (rs : List Reg) (body : State → Eff) : State :=
  if !anyActive s g && drainPending s rs then s.setSl { s.sl with wait := .poll }
  else issue s f (anyActive s g) fun t => if drainPending t rs then .wait t .poll else body t

/-- A vector head that reads some vector registers: the lane traps of R194, of a lane number `n` too where it names one, and its issue. -/
def vhead (s : State) (g : Guard) (f : Form) (n : Option Nat) (rs : List Reg) (body : State → Eff) : Step :=
  if grant s = 0 then .next (headTrap (barrelMoved s) s.cur (laneTrap 1 0))
  else
    match n with
    | some n => if grant s ≤ n then .next (headTrap (barrelMoved s) s.cur (laneTrap 3 n)) else .next (vissue s g f rs body)
    | none => .next (vissue s g f rs body)

/-- A vector head that writes one register, lane by lane, with flags (R186, R187). -/
def lanewise (s : State) (g : Guard) (ty : EltTy) (d : Reg) (rs : List Reg) (f : State → Nat → Nat × Flags) : Step :=
  vhead s g {} none rs fun s =>
    .retire ((writeLanes s g d fun l => eltReg ty (f s l).1).addFlags (laneFlags s g fun l => (f s l).2)) .seq

/-! ## Arithmetic (R200, R201) -/

/-- The operations of Table 7.7 with two operands or three. -/
inductive Arith where
  | add | sub | mul | fma | fms
  deriving DecidableEq, Repr

/-- The exact integer of Table 7.7. -/
def arithInt (op : Arith) (a b c : Int) : Int :=
  match op with
  | .add => a + b
  | .sub => a - b
  | .mul => a * b
  | .fma => a * b + c
  | .fms => a * b - c

/-- The value of Table 7.7 on a float type, rounded once. -/
def arithFloat (f : FloatTy) (rm : Rm) (op : Arith) (a b c : Nat) : Nat × Flags :=
  let x := fdec f a
  let y := fdec f b
  let z := fdec f c
  match op with
  | .add => addVal f rm x y
  | .sub => addVal f rm x y.neg
  | .mul => fmul f rm x y
  | .fma => ffma f rm x y z
  | .fms => ffma f rm x y z.neg

/-- An arithmetic form of Table 7.7 on three elements. -/
def arithElt (ty : EltTy) (rm : Rm) (sat : Bool) (op : Arith) (a b c : BitVec 32) : Nat × Flags :=
  match EltTy.float ty with
  | some f => arithFloat f rm op (eltBits ty a) (eltBits ty b) (eltBits ty c)
  | none => deliverInt ty sat (arithInt op (eltInt ty a.toNat) (eltInt ty b.toNat) (eltInt ty c.toNat))

/-- R200. -/
def execVadd (g : Guard) (ty : EltTy) (rm : Rm) (d a b : Reg) (sat : Bool) (s : State) : Step :=
  lanewise s g ty d [a, b] fun s l => arithElt ty rm sat .add (lane s a l) (lane s b l) 0
/-- R200. -/
def execVsub (g : Guard) (ty : EltTy) (rm : Rm) (d a b : Reg) (sat : Bool) (s : State) : Step :=
  lanewise s g ty d [a, b] fun s l => arithElt ty rm sat .sub (lane s a l) (lane s b l) 0
/-- R200. -/
def execVmul (g : Guard) (ty : EltTy) (rm : Rm) (d a b : Reg) (sat : Bool) (s : State) : Step :=
  lanewise s g ty d [a, b] fun s l => arithElt ty rm sat .mul (lane s a l) (lane s b l) 0
/-- R200. -/
def execVfma (g : Guard) (ty : EltTy) (rm : Rm) (d a b c : Reg) (sat : Bool) (s : State) : Step :=
  lanewise s g ty d [a, b, c] fun s l => arithElt ty rm sat .fma (lane s a l) (lane s b l) (lane s c l)
/-- R200. -/
def execVfms (g : Guard) (ty : EltTy) (rm : Rm) (d a b c : Reg) (sat : Bool) (s : State) : Step :=
  lanewise s g ty d [a, b, c] fun s l => arithElt ty rm sat .fms (lane s a l) (lane s b l) (lane s c l)

/-- The minimum or maximum of two elements (Table 7.7, Table 2.4). -/
def minmaxElt (ty : EltTy) (max : Bool) (a b : Nat) : Nat × Flags :=
  match EltTy.float ty with
  | some f => fminmax f max a b
  | none =>
    let x := eltInt ty a
    let y := eltInt ty b
    (if decide (x < y) != max then a else b, 0)

/-- R200. -/
def execVmin (g : Guard) (ty : EltTy) (d a b : Reg) (s : State) : Step :=
  lanewise s g ty d [a, b] fun s l => minmaxElt ty false (eltBits ty (lane s a l)) (eltBits ty (lane s b l))
/-- R200. -/
def execVmax (g : Guard) (ty : EltTy) (d a b : Reg) (s : State) : Step :=
  lanewise s g ty d [a, b] fun s l => minmaxElt ty true (eltBits ty (lane s a l)) (eltBits ty (lane s b l))

/-- |a| or −a of an element (R200): only the sign bit on a float type, but a NaN becomes canonical. -/
def signElt (ty : EltTy) (abs sat : Bool) (a : Nat) : Nat × Flags :=
  match EltTy.float ty with
  | some f =>
    let v := fdec f a
    let top := 2 ^ (FloatTy.width f - 1)
    if v.isNan then (FloatTy.nanBits f, sigFlags [v])
    else (if abs then a % top else (a + top) % (2 * top), 0)
  | none =>
    let i := eltInt ty a
    deliverInt ty sat (if abs then i.natAbs else -i)

/-- R200. -/
def execVabs (g : Guard) (ty : EltTy) (d a : Reg) (sat : Bool) (s : State) : Step :=
  lanewise s g ty d [a] fun s l => signElt ty true sat (eltBits ty (lane s a l))
/-- R200. -/
def execVchs (g : Guard) (ty : EltTy) (d a : Reg) (sat : Bool) (s : State) : Step :=
  lanewise s g ty d [a] fun s l => signElt ty false sat (eltBits ty (lane s a l))

/-- R201. -/
def execVand (g : Guard) (ty : EltTy) (d a b : Reg) (s : State) : Step :=
  lanewise s g ty d [a, b] fun s l => ((lane s a l &&& lane s b l).toNat, 0)
/-- R201. -/
def execVor (g : Guard) (ty : EltTy) (d a b : Reg) (s : State) : Step :=
  lanewise s g ty d [a, b] fun s l => ((lane s a l ||| lane s b l).toNat, 0)
/-- R201. -/
def execVxor (g : Guard) (ty : EltTy) (d a b : Reg) (s : State) : Step :=
  lanewise s g ty d [a, b] fun s l => ((lane s a l ^^^ lane s b l).toNat, 0)

/-- The amount of a vector shift (R201). -/
def laneAmount (s : State) (ty : EltTy) (b : Reg) (imm : Bool) (n : BitVec 5) (l : Nat) : Nat :=
  (if imm then n.toNat else (lane s b l).toNat % 32) % EltTy.width ty

/-- R201. -/
def execVshl (g : Guard) (ty : EltTy) (d a b : Reg) (imm : Bool) (n : BitVec 5) (s : State) : Step :=
  lanewise s g ty d (a :: if imm then [] else [b]) fun s l => (eltBits ty (lane s a l) * 2 ^ laneAmount s ty b imm n l, 0)
/-- R201. -/
def execVshr (g : Guard) (ty : EltTy) (d a b : Reg) (imm : Bool) (n : BitVec 5) (s : State) : Step :=
  lanewise s g ty d (a :: if imm then [] else [b]) fun s l => (eltBits ty (lane s a l) / 2 ^ laneAmount s ty b imm n l, 0)
/-- R201. -/
def execVsar (g : Guard) (ty : EltTy) (d a b : Reg) (imm : Bool) (n : BitVec 5) (s : State) : Step :=
  lanewise s g ty d (a :: if imm then [] else [b]) fun s l =>
    (wrapN (EltTy.width ty) (sx (EltTy.width ty) (lane s a l).toNat / (2 ^ laneAmount s ty b imm n l : Nat)), 0)

/-! ## Compare and select (R202, R203) -/

/-- lt, eq and the flags of a compare of two elements (R202). -/
def cmpElt (ty : EltTy) (a b : Nat) : Bool × Bool × Flags :=
  match EltTy.float ty with
  | some f =>
    let x := fdec f a
    let y := fdec f b
    if x.isNan || y.isNan then (false, false, sigFlags [x, y]) else (ltVal x y, eqVal x y, 0)
  | none => (decide (eltInt ty a < eltInt ty b), a == b, 0)

/-- The combination of an old mask bit with a new one (R202). -/
def combine (c : CmbOp) (old new : Bool) : Bool :=
  match c with
  | .set => new
  | .and => old && new
  | .or => old || new
  | .xor => old != new

/-- R202. -/
def execVcmp (g : Guard) (ty : EltTy) (j : Fin 4) (a b : Reg) (cmb : CmbOp) (s : State) : Step :=
  vhead s g {} none [a, b] fun s =>
    let r := fun l => cmpElt ty (eltBits ty (lane s a l)) (eltBits ty (lane s b l))
    let m := Fin.ofNat 8 (2 * j.val)
    let e := Fin.ofNat 8 (2 * j.val + 1)
    let lt := fun l => combine cmb (maskBit s m l) (r l).1
    let eq := fun l => combine cmb (maskBit s e l) (r l).2.1
    let act := fun l => active s g l
    let c := s.sl.claim
    let put (m : Vector (List Bool) 8) (i : Fin 8) (f : Nat → Bool) : Vector (List Bool) 8 :=
      if i = 0 then m else m.set i ((List.range c.g).map fun l => if act l then f l else maskBit s i l)
    .retire ((s.setSl { s.sl with claim := { c with m := put (put c.m m lt) e eq } }).addFlags
      (laneFlags s g fun l => (r l).2.2)) .seq

/-- R203. -/
def execVsel (g : Guard) (_ : EltTy) (d a b : Reg) (m : Fin 8) (s : State) : Step :=
  vhead s g {} none [a, b] fun s =>
    .retire (writeLanes s g d fun l => if maskBit s m l then lane s a l else lane s b l) .seq
/-- R203. -/
def execVclamp (g : Guard) (ty : EltTy) (d a b c : Reg) (s : State) : Step :=
  lanewise s g ty d [a, b, c] fun s l =>
    let x := minmaxElt ty true (eltBits ty (lane s a l)) (eltBits ty (lane s b l))
    let y := minmaxElt ty false x.1 (eltBits ty (lane s c l))
    (y.1, x.2 ||| y.2)

/-! ## Conversion (R204 to R206) -/

/-- An element of one type as an element of another (R204). -/
def cvtElt (src dst : EltTy) (rm irm : Rm) (a : Nat) : Nat × Flags :=
  if src = dst then (a, 0)
  else
    match EltTy.float src, EltTy.float dst with
    | some f, some h => fcvt f h rm a
    | some f, none =>
      let r := ftoi f irm (eltMin dst) (eltMax dst) a
      (wrapN (EltTy.width dst) r.1, r.2)
    | none, some h => itof h rm (eltInt src a)
    | none, none => deliverInt dst true (eltInt src a)

/-- R204. -/
def execVcvt (g : Guard) (ty : EltTy) (rm : Rm) (d a : Reg) (irm : Rm) (src : EltTy) (s : State) : Step :=
  lanewise s g ty d [a] fun s l => cvtElt src ty rm irm (eltBits src (lane s a l))

/-- floor(log2) of a finite nonzero value m × 2^e. -/
def exponentOf (m : Nat) (e : Int) : Int := (Nat.log2 m : Int) + e

/-- Whether |m × 2^e| is below |n × 2^k|. -/
def magBelow (m : Nat) (e : Int) (n : Nat) (k : Int) : Bool := ltVal (.fin false m e) (.fin false n k)

/-- The scale byte of a block of source encodings (R46), subnormals taken as zero; 0xFF for a NaN or an infinity. -/
def mxScale (f : FloatTy) (l : List Nat) : Nat :=
  let vs := l.map fun n => fdec f (fflush f n)
  if vs.any fun v => match v with | .fin _ _ _ => false | _ => true then 255
  else
    vs.foldl (fun x v => match v with
      | .fin _ m e => if m = 0 then x else max x (exponentOf m e + 127).toNat
      | _ => x) 0

/-- The element of a source in a block with a scale byte, and its flags (R46). -/
def mxElement (f : FloatTy) (x n : Nat) : Int × Flags :=
  if x = 255 then (0, fNV)
  else
    match fdec f (fflush f n) with
    | .fin ng m e =>
      if m = 0 then (0, 0)
      else
        let r := roundInt .rne ng m (e + 6 - ((x : Int) - 127))
        (clampI (-128) 127 r.1, (if r.2 then fNX else 0) ||| (if 127 < r.1 then fSAT else 0))
    | _ => (0, fNV)

/-- The sources of block `b` of lanes, +0 where a lane is inactive (R205). -/
def mxBlock (s : State) (g : Guard) (ty : FloatTy) (a : Reg) (b : Nat) : List Nat :=
  (List.range 32).map fun i =>
    if active s g (32 * b + i) then eltBits (FloatTy.elt ty) (lane s a (32 * b + i)) else 0

/-- R205. -/
def execVmxq (g : Guard) (ty : FloatTy) (d a : Reg) (s : State) : Step :=
  vhead s g {} none [a] fun s =>
    let x := fun l => mxScale ty (mxBlock s g ty a (l / 32))
    let q := fun l => mxElement ty (x l) (eltBits (FloatTy.elt ty) (lane s a l))
    let p := writeLanes s g d fun l => eltReg .i8 (wrapN 8 (q l).1)
    .retire ((writeLanes p g (d + 1) fun l => eltReg .n8 (x l)).addFlags (laneFlags s g fun l => (q l).2)) .seq
/-- The value of an MXINT8 element p with its scale X (R47). The element p = −128 with X = 0xFE stands for −2^128, which lies outside the range that R47 gives and
in neither format: it is rounded as any other value, so it overflows with OF and NX (Table 2.3). DESIGN CHOICE (log entry 47). -/
def mxValue (f : FloatTy) (rm : Rm) (p x : Nat) : Nat × Flags :=
  let i := sx 8 p
  if x = 255 then (FloatTy.nanBits f, 0) else roundTo f rm (decide (i < 0)) i.natAbs ((x : Int) - 133)
/-- R206. -/
def execVmxd (g : Guard) (ty : FloatTy) (rm : Rm) (d a : Reg) (s : State) : Step :=
  lanewise s g (FloatTy.elt ty) d [a, a + 1] fun s l => mxValue ty rm ((lane s a l).toNat % 256) ((lane s (a + 1) l).toNat % 256)

/-! ## Ternarisation (R53, R54, R207) -/

/-- The 24-bit draw of R53. -/
def ternDraw (seed : Word) (i j : BitVec 32) : Nat :=
  let x := seed + i.setWidth 64 * 0x9E3779B97F4A7C15 + j.setWidth 64 * 0xD1B54A32D192ED03
  let x := (x ^^^ (x >>> 30)) * 0xBF58476D1CE4E5B9
  let x := (x ^^^ (x >>> 27)) * 0x94D049BB133111EB
  let x := x ^^^ (x >>> 31)
  x.toNat / 2 ^ 40

/-- floor(min(|v| / s, 1) × 2^24) of finite v = m × 2^e and s = n × 2^k, exactly (R54). -/
def ternRatio (m : Nat) (e : Int) (n : Nat) (k : Int) : Nat :=
  let d := e - k + 24
  min (if 0 ≤ d then m * 2 ^ d.toNat / n else m / (n * 2 ^ (-d).toNat)) (2 ^ 24)

/-- Stochastic ternarisation of a value by a scale and a draw (R54): the trit, and NV. -/
def ternStoch (v s : FVal) (draw : Nat) : Int × Bool :=
  if v.isNan || s.isNan || !(ltVal (.fin false 0 0) s) then (0, true)
  else
    let sg : Int := if v.sign then -1 else 1
    match v, s with
    | .fin _ m e, .fin _ n k => (if m ≠ 0 ∧ draw < ternRatio m e n k then sg else 0, false)
    | _, .inf _ => (0, false)
    | _, _ => (sg, false)

/-- Deterministic ternarisation (R207). -/
def ternDet (v s : FVal) : Int × Bool :=
  if v.isNan || s.isNan || ltVal s (.fin false 0 0) then (0, true)
  else if ltVal s v then (1, false)
  else if ltVal v s.neg then (-1, false)
  else (0, false)

/-- R207. -/
def execVtern (g : Guard) (ty : FloatTy) (d a b : Reg) (det : Bool) (s : State) : Step :=
  lanewise s g .i32 d [a, b] fun s l =>
    let v := fdec ty (eltBits (FloatTy.elt ty) (lane s a l))
    let q := fdec ty (eltBits (FloatTy.elt ty) (lane s b l))
    let c := s.sl.vcoord
    let r := if det then ternDet v q
      else ternStoch v q (ternDraw s.sl.vseed (c.extractLsb' 32 32) (c.extractLsb' 0 32 + BitVec.ofNat 32 l))
    (wrapN 32 r.1, if r.2 then fNV else 0)

/-! ## Reductions and moves (R208 to R210) -/

/-- The reduction of elements that are present (R208): as 64 bits. -/
def reduce (ty : EltTy) (rm : Rm) (red : RedOp) (l : List (Option Nat)) : Nat × Flags :=
  match EltTy.float ty with
  | some f =>
    match red with
    | .add => ftree f (fun x y => addVal f rm (fdec f x) (fdec f y)) 0 l
    | .min => ftree f (fminmax f false) (FloatTy.infBits f) l
    | .max => ftree f (fminmax f true) (FloatTy.signBit f true + FloatTy.infBits f) l
  | none =>
    let is := l.filterMap fun o => o.map (eltInt ty)
    (wrapN 64 (match red with
      | .add => is.foldl (· + ·) 0
      | .min => is.foldl (fun x y => if y < x then y else x) (eltMax ty)
      | .max => is.foldl (fun x y => if x < y then y else x) (eltMin ty)), 0)

/-- R208: the scalar destination is written even when no lane is active. -/
def execVred (g : Guard) (ty : EltTy) (rm : Rm) (d a : Reg) (red : RedOp) (s : State) : Step :=
  if grant s = 0 then .next (headTrap (barrelMoved s) s.cur (laneTrap 1 0))
  else
    .next (issue s {} true fun s =>
      if drainPending s [a] then .wait s .poll else
      let r := reduce ty rm red
        ((List.range (grant s)).map fun l => if active s g l then some (eltBits ty (lane s a l)) else none)
      .retire ((s.setS d (wordN r.1)).addFlags r.2) .seq)

/-- R209. -/
def execVsplat (g : Guard) (ty : EltTy) (d a : Reg) (s : State) : Step :=
  lanewise s g ty d [] fun s _ => ((s.getS a).toNat, 0)
/-- R209. -/
def execVext (g : Guard) (ty : EltTy) (d a b : Reg) (s : State) : Step :=
  vhead s g {} (some (s.getS b).toNat) [a] fun s =>
    let n := (s.getS b).toNat
    let e := (lane s a n).toNat
    .retire (if active s g n then
      s.setS d (if ty.isSigned then word (sx (EltTy.width ty) e) else wordN (e % 2 ^ EltTy.width ty)) else s) .seq
/-- R209. -/
def execVins (g : Guard) (ty : EltTy) (d a b : Reg) (s : State) : Step :=
  vhead s g {} (some (s.getS b).toNat) [] fun s =>
    .retire (writeLanes s g d fun l => if l = (s.getS b).toNat then eltReg ty (s.getS a).toNat else lane s d l) .seq
/-- A register number as a mask number (Table 7.8). -/
def maskNo (r : Reg) : Fin 8 := Fin.ofNat 8 r.val
/-- R210. FORM 2 takes the width w of Table 7.8 from TY, though R210 says that every FORM ignores TY: DESIGN CHOICE (log entry 55). -/
def execVmov (g : Guard) (ty : EltTy) (d a : Reg) (form : BitVec 2) (s : State) : Step :=
  vhead s g {} none (if form.getLsbD 0 then [] else [a]) fun s =>
    .retire (match form.toNat with
      | 0 => writeLanes s g d fun l => lane s a l
      | 1 => writeLanes s g d fun l => if maskBit s (maskNo a) l then 1 else 0
      | 2 => writeMask s g (maskNo d) fun l => eltBits ty (lane s a l) != 0
      | _ => writeMask s g (maskNo d) fun l => maskBit s (maskNo a) l) .seq

/-! ## Vector memory (R199) -/

/-- Bytes of a vector element size. -/
def VSize.bytes (z : VSize) : Nat := 2 ^ z.code

/-- What an element of a vector access reaches once it is checked and translated. -/
inductive Elem where
  | one (loc : Loc)
  | bytes (l : List (Nat × Nat))

/-- Steps 2 to 4 of R169 for an element: the neighbour aperture raises an access fault. -/
def elemCheck (s : State) (k : Access) (n : Nat) (va : Word) : Option Trap :=
  match whereIs va with
  | .neigh _ _ => checkWhere s s.cur k false va n
  | _ => checkWhere s s.cur k true va n

/-- Steps 1 to 4 of R169 for all lanes, one check at a time (R199). -/
def lanesCheck (s : State) (k : Access) (n : Nat) (vas : List Word) : Option Trap :=
  let ts := vas.filterMap (elemCheck s k n)
  firstSome [(vas.find? fun va => va.toNat % n ≠ 0).map (memTrap 8 k), ts.find? (·.cause = 7), ts.find? (·.cause = 9), ts.head?,
    if k = .write then
      (vas.find? fun va => heldSource s s.myCl (localKey s.myCore (whereIs va)) n &&
        (whereIs va).bound.isSome).map fun _ => trapI 21 0 0
    else none]
where
  /-- The first of several checks that fails. -/
  firstSome : List (Option Trap) → Option Trap
    | [] => none
    | some t :: _ => some t
    | none :: r => firstSome r

/-- Step 5 of R169 for the lanes in order: translation, and the index and element of a window. -/
def lanesXlate (s : State) (k : Access) (n : Nat) : List Word → Res (List Elem)
  | [] => .ok s []
  | va :: t =>
    let r : Res Elem := match whereIs va with
      | .window w off => (winWalk s s.cur w k off n (n + 1) off []).andThen fun s l => .ok s (.bytes l)
      | .global =>
        (xlate s s.cur k va).andThen fun s p =>
          match globLoc s s.cur k va false p.1 p.2 with
          | .ok l => .ok s (.one l)
          | .error x => .trap s x
      | w => .ok s (.one (.mem (localKey s.myCore w)))
    r.andThen fun s e => (lanesXlate s k n t).andThen fun s es => .ok s (e :: es)

/-- The bytes of the elements in order. -/
def elemsRead (s : State) (n : Nat) : List (Word × Elem) → Res (List Nat)
  | [] => .ok s []
  | (va, e) :: t =>
    let r : Res (List Byte) := match e with
      | .one l => readLoc s s.cur .read va n l
      | .bytes l => winRead s s.cur va l
    r.andThen fun s bs => (elemsRead s n t).andThen fun s r => .ok s (ofBytes bs :: r)

/-- Writes elements in order, the higher lane last. -/
def elemsWrite (s : State) : List (Word × Elem × List Byte) → Res Unit
  | [] => .ok s ()
  | (va, .one l, bs) :: t => (writeLoc s s.cur va bs l).andThen fun s _ => elemsWrite s t
  | (_, .bytes l, bs) :: t => elemsWrite (winWrite s s.cur (l.zip bs)) t

/-- The active lanes of a claim in order. -/
def activeLanes (s : State) (g : Guard) : List Nat := (List.range (grant s)).filter (active s g)

/-- A vector load or store whose lane `l` accesses address `addr l` (R199). The accesses of the lanes, which R199 does not order, are performed lowest lane first
in one step, so that no other agent acts between two of them: DESIGN CHOICE (log entry 53). A store that waits at a home slice retires when it is performed
(R337). -/
def vmem (s : State) (g : Guard) (store : Bool) (z : VSize) (d : Reg) (addr : Nat → Word) : Eff :=
  let n := VSize.bytes z
  let k := if store then Access.write else Access.read
  let ls := activeLanes s g
  let vas := ls.map addr
  match lanesCheck s k n vas with
  | some t => .trap s t
  | none =>
    let r := (lanesXlate s k n vas).andThen fun s es =>
      if store then
        (elemsWrite s ((vas.zip es).zip ls |>.map fun x => (x.1.1, x.1.2, bytesOf n (lane s d x.2).toNat))).andThen fun s _ => .ok s []
      else elemsRead s n (vas.zip es)
    (r.keepsWindows s.cur (vas.filterMap fun va => (whereIs va).windowNo)).effThen fun s vs =>
      if store then .sent s
      else .retire (writeLanes s g d fun l => BitVec.ofNat 32 (((ls.zip vs).find? fun p => p.1 == l).elim 0 (·.2))) .seq

/-- sext(off, 64) added to s[A]. -/
def vbase (s : State) (a : Reg) (off : BitVec 14) : Word := s.getS a + off.signExtend 64

/-- R199. -/
def execVld (g : Guard) (z : VSize) (d a : Reg) (off : BitVec 14) (sync : Option Eng) (s : State) : Step :=
  vhead s g { eng := sync } none [] fun s => vmem s g false z d fun l => vbase s a off + wordN (l * VSize.bytes z)
/-- R199. -/
def execVst (g : Guard) (z : VSize) (d a : Reg) (off : BitVec 14) (sync : Option Eng) (s : State) : Step :=
  vhead s g { eng := sync } none [d] fun s => vmem s g true z d fun l => vbase s a off + wordN (l * VSize.bytes z)
/-- R199. -/
def execVlds (g : Guard) (z : VSize) (d a b : Reg) (off : BitVec 14) (sync : Option Eng) (s : State) : Step :=
  vhead s g { eng := sync } none [] fun s => vmem s g false z d fun l => vbase s a off + wordN l * s.getS b
/-- R199. -/
def execVsts (g : Guard) (z : VSize) (d a b : Reg) (off : BitVec 14) (sync : Option Eng) (s : State) : Step :=
  vhead s g { eng := sync } none [d] fun s => vmem s g true z d fun l => vbase s a off + wordN l * s.getS b

/-! ## Claims (R179 to R181, R196 to R198) -/

/-- The pool of an octet. -/
def pool (s : State) (o : Nat) : Pool := tget Pool.init s.pools o

/-- Replaces the pool of an octet. -/
def setPool (s : State) (o : Nat) (p : Pool) : State := { s with pools := tset s.pools o p }

/-- A request reaches the pool of the executing slot's octet (R180). -/
def poolAsk (s : State) (o : Nat) (r : LaneReq) : State :=
  let p := pool s o
  setPool s o { p with reqs := p.reqs ++ [r] }

/-- 16 × ceil(min(n, 256) / 16). -/
def roundLanes (n : Nat) : Nat := 16 * ceilDiv (min n 256) 16

/-- R196. -/
def execVclaim (g : Guard) (d a : Reg) (wait : Bool) (min : BitVec 9) (s : State) : Step :=
  head s g {} fun s =>
    if grant s ≠ 0 then .trap s (laneTrap 2 0)
    else
      let want := roundLanes (s.getS a).toNat
      .wait (poolAsk s (octetOf s.cur) (.claim s.cur d want (Max.max 16 (Min.min min.toNat want)) wait)) .lanes
/-- The claim of slot `n` is given back (R197, R114): it holds none at once, and its lanes reach the pool. -/
def releaseClaim (s : State) (n : Nat) : State :=
  let l := s.slot n
  if l.claim.g = 0 then s
  else poolAsk (s.setSlot n { l with claim := Claim.none }) (octetOf n) (.back l.claim.g)
/-- R197. -/
def execVrel (g : Guard) (s : State) : Step := plain s g fun s => releaseClaim s s.cur
/-- R198. -/
def execVreneg (g : Guard) (d a : Reg) (want : BitVec 9) (s : State) : Step :=
  head s g {} fun s =>
    if grant s = 0 then .trap s (laneTrap 1 0)
    else
      .wait (poolAsk s (octetOf s.cur)
        (.reneg s.cur d (Min.min (roundLanes (s.getS a).toNat) (grant s)) (16 * ceilDiv want.toNat 16))) .lanes

/-- The first `n` elements of a list, then `z`. -/
def fitTo {α : Type} (l : List α) (n : Nat) (z : α) : List α := (List.range n).map fun i => l.getD i z

/-- A claim resized to `n` lanes: kept lanes keep their contents, new ones are zero (R181). -/
def Claim.resize (c : Claim) (k n : Nat) : Claim :=
  if n = 0 then Claim.none else ⟨c.id, n, c.v.map fun l => fitTo (l.take k) n 0, c.m.map fun l => fitTo (l.take k) n false⟩

/-- The reply to a slot: its claim has `n` lanes, of which it keeps `k`, and s[D] receives `n`; its head retires. -/
def laneReply (s : State) (m : Nat) (d : Reg) (k n : Nat) : State :=
  let s := s.setSlot m { s.slot m with claim := (s.slot m).claim.resize k n }
  finish (s.setSAt m d (wordN n)) m .seq (stepping s m) none

/-- Serves a claim that can be met with `free` lanes (R196). -/
def grantClaim (s : State) (o m : Nat) (d : Reg) (want : Nat) : State :=
  let p := pool s o
  let n := min want p.free
  let s := s.older
  let s := s.setSlot m { s.slot m with claim := { Claim.none with id := s.age } }
  laneReply (setPool s o { p with free := p.free - n }) m d 0 n

/-- Serves a request that has arrived at a pool (R180, R196, R198). -/
def serveLanes (s : State) (o : Nat) (r : LaneReq) : State :=
  let p := pool s o
  match r with
  | .back n => setPool s o { p with free := p.free + n }
  | .claim m d want k wait =>
    if want = 0 then laneReply s m d 0 0
    else if k ≤ p.free ∧ p.blocked = [] then grantClaim s o m d want
    else if wait then setPool s o { p with blocked := p.blocked ++ [r] }
    else laneReply s m d 0 0
  | .reneg m d k w =>
    let f := p.free + ((s.slot m).claim.g - k)
    let n := if k < w ∧ p.blocked = [] then k + min (w - k) f else k
    laneReply (setPool s o { p with free := f - (n - k) }) m d k n

/-- R180: the oldest waiting request that lanes now meet, or else the next request that has arrived. -/
def execVlpRequestService (octet : Nat) (s : State) : Step :=
  let p := pool s octet
  match p.blocked, p.reqs with
  | .claim m d want k _ :: r, rs =>
    if k ≤ p.free then .next (grantClaim (setPool s octet { p with blocked := r }) octet m d want)
    else
      match rs with
      | q :: t => .next (serveLanes (setPool s octet { p with reqs := t }) octet q)
      | [] => .next s
  | _, q :: t => .next (serveLanes (setPool s octet { p with reqs := t }) octet q)
  | _, [] => .next s

/-! ## Special functions (R190, R211) -/

/-- 1.0 in FP32. -/
def f32One : Nat := 0x3F800000

/-- Whether m × 2^e is a power of two, and its exponent. -/
def powerOfTwo (m : Nat) (e : Int) : Option Int := if m = 2 ^ Nat.log2 m then some (exponentOf m e) else none

/-- The integer that ±m × 2^e is, where it is one. -/
def asInt (neg : Bool) (m : Nat) (e : Int) : Option Int :=
  let i : Option Nat := if 0 ≤ e then some (m * 2 ^ e.toNat) else if m % 2 ^ (-e).toNat = 0 then some (m / 2 ^ (-e).toNat) else none
  i.map fun n => if neg then -(n : Int) else n

/-- The result that Table 7.9 fixes for an FP32 operand that is not a NaN, for the functions other than rcp and sqrt. -/
def sfnFixed (fn : SfnOp) (x : FVal) : Option (Nat × Flags) :=
  let nan := some (FloatTy.nanBits .f32, fNV)
  let inf := FloatTy.infBits .f32
  match fn, x with
  | .exp2, .inf ng => some (if ng then 0 else inf, 0)
  | .exp2, .fin ng m e =>
    match asInt ng m e with
    | some i => if -149 ≤ i ∧ i ≤ 127 then some (roundTo .f32 .rne false 1 i)
        else if 128 ≤ i then some (inf, fOF ||| fNX) else none
    | none => if !ng && !magBelow m e 1 7 then some (inf, fOF ||| fNX) else none
  | .log2, .inf ng => if ng then nan else some (inf, 0)
  | .log2, .fin ng m e =>
    if m = 0 then some (FloatTy.signBit .f32 true + inf, fDZ)
    else if ng then nan
    else (powerOfTwo m e).map fun i => itof .f32 .rne i
  | .rsqrt, .inf ng => if ng then nan else some (0, 0)
  | .rsqrt, .fin ng m _ =>
    if m = 0 then some (FloatTy.signBit .f32 ng + inf, fDZ) else if ng then nan else none
  | .sin, .inf _ => nan
  | .sin, .fin ng m _ => if m = 0 then some (FloatTy.signBit .f32 ng, 0) else none
  | .cos, .inf _ => nan
  | .cos, .fin _ m _ => if m = 0 then some (f32One, 0) else none
  | .tanh, .inf ng => some (FloatTy.signBit .f32 ng + f32One, 0)
  | .tanh, .fin ng m _ => if m = 0 then some (FloatTy.signBit .f32 ng, 0) else none
  | .sigmoid, .inf ng => some (if ng then 0 else f32One, 0)
  | .sigmoid, .fin _ m _ => if m = 0 then some (0x3F000000, 0) else none
  | .erf, .inf ng => some (FloatTy.signBit .f32 ng + f32One, 0)
  | .erf, .fin ng m _ => if m = 0 then some (FloatTy.signBit .f32 ng, 0) else none
  | _, _ => none

/-- A result of `rsqrt` is exact: its square times the operand is one. -/
def rsqrtExact (x r : FVal) : Bool :=
  match mulVal r r with
  | some q => match mulVal q x with
    | some p => eqVal p (.fin false 1 0)
    | none => false
  | none => false

/-- The flags of a result that the manual leaves to the implementation (R211): NX when it is not exact, UF when it is tiny too. -/
def sfnFreeFlags (fn : SfnOp) (x : FVal) (r : Nat) : Flags :=
  if fn = .rsqrt ∧ rsqrtExact x (fdec .f32 r) then 0
  else fNX ||| (if r % 2 ^ 31 < 2 ^ 23 then fUF else 0)

/-- The FP32 result of a function other than rcp and sqrt on an FP32 operand (R211): where the table fixes none, the implementation's choice within
the bound. -/
def sfnF32 (fn : SfnOp) (n : Nat) : Nat × Flags :=
  let x := fdec .f32 n
  if x.isNan then (FloatTy.nanBits .f32, sigFlags [x])
  else
    match sfnFixed fn x with
    | some r => r
    | none =>
      match x with
      | .fin ng m e =>
        let r := sfnChosen fn ng m e (Config.sfnBits fn (BitVec.ofNat 32 n))
        (r, sfnFreeFlags fn x r)
      | _ => (FloatTy.nanBits .f32, 0)

/-- A special function on an element (R211). -/
def sfnElt (fn : SfnOp) (f : FloatTy) (rm : Rm) (n : Nat) : Nat × Flags :=
  let x := fdec f n
  match fn with
  | .rcp =>
    match x with
    | .nan g => (FloatTy.nanBits f, if g then fNV else 0)
    | .inf ng => (FloatTy.signBit f ng, 0)
    | .fin ng m e => if m = 0 then (FloatTy.signBit f ng + FloatTy.infBits f, fDZ) else roundQuot f rm ng 1 m (-e)
  | .sqrt =>
    match x with
    | .nan g => (FloatTy.nanBits f, if g then fNV else 0)
    | .inf ng => if ng then (FloatTy.nanBits f, fNV) else (FloatTy.infBits f, 0)
    | .fin ng m e => if m = 0 then (FloatTy.signBit f ng, 0) else if ng then (FloatTy.nanBits f, fNV) else roundSqrt f rm m e
  | fn =>
    if f = .f32 then sfnF32 fn n
    else
      let sig : Flags := if x.isSig then fNV else 0
      let r := sfnF32 fn (fcvt f .f32 .rne n).1
      let q := fcvt .f32 f .rne r.1
      (q.1, r.2 ||| q.2 ||| sig)

/-- R190: one request of the active lanes enters the queue of the quad's SFU, and the slot is parked. -/
def execSfn (g : Guard) (d a : Reg) (fn : SfnOp) (fmt : FloatTy) (rm : Rm) (s : State) : Step :=
  vhead s g {} none [a] fun s =>
    let q := quadOf s.cur
    let r : SfuReq := ⟨s.cur, d, fn, fmt, rm,
      (List.range (grant s)).map fun l => if active s g l then some (lane s a l) else none⟩
    .wait { s with sfus := tset s.sfus q (tget [] s.sfus q ++ [r]) } .sfu

/-- R190: the SFU of a quad answers its oldest request: the destination lanes, the flags and the token. -/
def execSfuReturn (quad : Nat) (s : State) : Step :=
  match tget [] s.sfus quad with
  | [] => .next s
  | r :: t =>
    let ty := FloatTy.elt r.fmt
    let out := r.src.map fun o => o.map fun x => sfnElt r.fn r.fmt r.rm (eltBits ty x)
    let s := { s with sfus := tset s.sfus quad t }
    let l := s.slot r.slot
    let old := l.claim.v[r.d]
    let new := (List.range l.claim.g).map fun i =>
      match out.getD i none with
      | some e => eltReg ty e.1
      | none => old.getD i 0
    let fl : Flags := out.foldl (fun x o => match o with | some e => x ||| e.2 | none => x) 0
    let s := s.setSlot r.slot { l with claim := { l.claim with v := l.claim.v.set r.d new }, fpstat := l.fpstat ||| fl }
    .next (finish s r.slot .seq (stepping s r.slot) none)

end Sys2Proof.Machine
end

