-- ==== Sys2Proof/Machine/Matrix.lean ====
section
/-!
DEFINITION. The ternary matrix engines (08 R212 to R245) and the weight-tile record that they load (02 R48 to R52).
-/

namespace Sys2Proof.Machine

/-! ## Engine messages -/

/-- Header word 0 of a message to a core (Table 14.2): PCX, PCY, PCORE, the channel and the decrement. -/
def coreWord (core ch dec : Nat) : Word :=
  wordN (clX (core / 16) * 2 ^ 59 + clY (core / 16) * 2 ^ 54 + core % 16 * 2 ^ 50 + ch * 2 ^ 10 + dec)

/-- Sends a message of an engine to a core (R387). -/
def engineMessage (s : State) (core launch eng ch dec : Nat) (w1 w2 w3 : Word) (dests : List (Nat × Nat)) : State :=
  send s (.engine core launch eng ⟨coreWord core ch dec, w1, w2, w3, 0⟩ dests 0)

/-! ## Weight-tile records (R48 to R52) -/

/-- The five trits of a byte (R48). -/
def tritsOf (b : Byte) : List Int :=
  (List.range 5).map fun i =>
    match b.toNat / 3 ^ i % 3 with
    | 0 => 0
    | 1 => 1
    | _ => -1

/-- The 320 trits of column `n` of the 4,096 trit bytes of a record. -/
def columnTrits (data : List Byte) (n : Nat) : List Int := (sliceB data (64 * n) 64).flatMap tritsOf

/-- L[k][n] of a latch. -/
def Latch.trit (l : Latch) (k n : Nat) : Int := (tritsOf (l.data.getD (64 * n + k / 5) 0)).getD (k % 5) 0

/-- The nonzero trits of window `w` in a column. -/
def windowCount (col : List Int) (w : Nat) : Nat := ((col.drop (64 * w)).take 64).countP (· != 0)

/-- Window `w` is sparse-class (R50). -/
def sparseClass (cols : List (List Int)) (w : Nat) : Bool := cols.all fun c => decide (windowCount c w ≤ 32)

/-- NZ[w] of a matrix (Table 2.8). -/
def windowTotal (cols : List (List Int)) (w : Nat) : Nat := cols.foldl (fun n c => n + windowCount c w) 0

/-- The k of a one-hot column. -/
def oneHot (col : List Int) : Option Nat :=
  if col.countP (· != 0) = 1 then col.findIdx? (· == 1) else none

/-- The CHECK of a record (R51). -/
def recordCheck (bs : List Byte) : BitVec 32 := crc32c (bs.take 60 ++ (bs.drop 64).take 4224)

/-- The first condition of R52 that a record breaks, from 1. -/
def recordFault (bs : List Byte) : Option Nat :=
  let cols := (List.range 64).map (columnTrits (sliceB bs 64 4096))
  let bm := leAt bs 6 1
  if leAt bs 0 1 ≠ 1 ∨ leAt bs 1 1 ≠ 0 ∨ leAt bs 2 2 ≠ 320 ∨ leAt bs 4 2 ≠ 64 then some 1
  else if 1 < leAt bs 7 1 then some 2
  else if bm / 32 ≠ 0 then some 3
  else if !((sliceB bs 64 4096).all fun b => decide (b.toNat ≤ 242)) then some 4
  else if !((List.range 5).all fun w => !fB bm w || sparseClass cols w) then some 5
  else if !((List.range 5).all fun w => leAt bs (8 + 2 * w) 2 == windowTotal cols w) then some 6
  else if leAt bs 60 4 ≠ (recordCheck bs).toNat then some 7
  else none

/-- The latch that a valid record at a WS address makes (R237). -/
def latchOf (bs : List Byte) (addr : Nat) : Latch :=
  let data := sliceB bs 64 4096
  let bad := (List.range 64).find? fun n => (oneHot (columnTrits data n)).isNone
  ⟨true, false, addr, BitVec.ofNat 32 (leAt bs 60 4), BitVec.ofNat 5 (leAt bs 6 1), bad.isNone, bad.getD 0, data⟩

/-! ## The state of an engine -/

/-- The latch A (false) or B. -/
def Tme.latch (e : Tme) (l : Bool) : Latch := if l then e.lb else e.la

/-- Replaces a latch. -/
def Tme.setLatch (e : Tme) (l : Bool) (x : Latch) : Tme := if l then { e with lb := x } else { e with la := x }

/-- The 64 cells of a row of a bank. -/
def Tme.row (e : Tme) (bank : Bool) (r : Nat) : List Cell := tget (List.replicate 64 Cell.zero) e.acc (16 * bank.toNat + r)

/-- Replaces a row of a bank. -/
def Tme.setRow (e : Tme) (bank : Bool) (r : Nat) (cs : List Cell) : Tme :=
  { e with acc := tset e.acc (16 * bank.toNat + r) cs }

/-- MODE, BASE and ACT after an operation has been accepted (R228). -/
def TmeSet.apply (x : TmeSet) (c : TmeConf) : TmeConf :=
  match x with
  | .none => c
  | .cfg m b => { c with mode := m, base := b }
  | .act l => { c with act := l }
  | .flip => { c with act := !c.act }

/-- MODE, BASE and ACT of operations accepted after a restored state block (R245). -/
def reconf (c : TmeConf) : List TmeOp → List TmeOp × TmeConf
  | [] => ([], c)
  | o :: t => ({ o with conf := c } :: (reconf (o.sets.apply c) t).1, (reconf (o.sets.apply c) t).2)

/-! ## Issue checks (R235, R236) -/

/-- A memory operand: its first byte, its length, its access kind, and whether it must lie in the WS. -/
structure Operand where
  va : Word
  n  : Nat
  k  : Access
  ws : Bool

/-- Whether a range of CSP bytes lies in one allocation of the launch that runs there. -/
def inOneAlloc (s : State) (cl off n : Nat) : Bool :=
  match cspAllocAt s cl off with
  | some a => decide (off + n ≤ (a.base + a.blocks) * 4096)
  | none => false

/-- The region of the local aperture that an address lies in (R235): the TCM, the WS, or an allocation of the launch by its base; none elsewhere. -/
def regionOf (s : State) (va : Word) : Option Nat :=
  match whereIs va with
  | .tcm _ => some 0
  | .ws _ => some 1
  | .csp off => (cspAllocAt s s.myCl off).map (2 + ·.base)
  | _ => none

/-- The address check of an operand (R236 check 2): it touches a hole, its bytes lie in two classes, or it leaves the allocation in which it starts. -/
def operandAddress (s : State) (o : Operand) : Option Trap :=
  let bad := touchesHole o.va o.n || splitsClass o.va o.n ||
    match whereIs o.va with
    | .csp off => (cspAllocAt s s.myCl off).isSome && !inOneAlloc s s.myCl off o.n
    | _ => false
  if bad then some (memTrap 7 o.k o.va) else none

/-- The access check of an operand (R236 check 3, R153). -/
def operandAccess (s : State) (o : Operand) : Option Trap :=
  let bad := some (memTrap 6 o.k o.va)
  match whereIs o.va with
  | .tcm _ => if o.ws then bad else none
  | .ws off => if wsHeldAt s s.myCl off o.n then bad else none
  | .csp off => if o.ws || !inOneAlloc s s.myCl off o.n then bad else none
  | _ => bad

/-- Rows of an operand that leave the region of its first row (R236 check 2). -/
def rowsLeave (s : State) (l : List Operand) : Option Trap :=
  match l with
  | [] => none
  | o :: t => (regionOf s o.va).bind fun r => (t.find? fun x => regionOf s x.va != some r).map fun x => memTrap 7 x.k x.va

/-- The checks 1 to 3 of R236 for the bases and the ranges of an instruction. -/
def operandChecks (s : State) (bases : List (Word × Access)) (ranges : List (List Operand)) : Option Trap :=
  let all := ranges.flatten
  firstTrap [(bases.find? fun b => b.1.toNat % 64 ≠ 0).map fun b => memTrap 8 b.2 b.1,
    all.findSome? (operandAddress s), ranges.findSome? (rowsLeave s), all.findSome? (operandAccess s)]

/-- The stores that the slots of a core have issued are performed. -/
def coreStores (s : State) (core : Nat) : State := (numbers (4 * core) 4).foldl storesEnter s

/-- Acceptance of an operation of the executing slot's engine (R214 step 4), which sees the stores that its core has issued (R216): the slot blocks while the inbox
is full. -/
def tmeAccept (s : State) (maj min : Nat) (kind : TmeKind) (sets : TmeSet) (eng : Eng) : Eff :=
  let s := coreStores s s.myCore
  let e := s.tme s.myTile
  if 8 ≤ e.ops.length then .wait s .poll
  else
    let o : TmeOp := ⟨e.seq, maj, min, s.cur, s.sl.claim.id, kind, e.conf, sets, eng, false, 0, [], none, 0, [], [], .none⟩
    .retire (s.setTme s.myTile { e with ops := e.ops ++ [o], seq := e.seq + 1, conf := sets.apply e.conf }) .seq

/-- A matrix head with parcels (R214). -/
def mhead (s : State) (g : Guard) (eng : Eng) (body : State → Eff) : Step :=
  head s g { matrix := true, eng := some eng, sig := false } body

/-- Checks, then acceptance. -/
def checkedAccept (s : State) (t : Option Trap) (maj min : Nat) (kind : TmeKind) (sets : TmeSet) (eng : Eng) : Eff :=
  match t with
  | some t => .trap s t
  | none => tmeAccept s maj min kind sets eng

/-- The memory key of a local address seen from the executing core. -/
def myKey (s : State) (va : Word) : Nat := localKey s.myCore (whereIs va)

/-! ## Instructions -/

/-- R237. -/
def execMlw (g : Guard) (a : Reg) (l actv : Bool) (eng : Eng) (s : State) : Step :=
  mhead s g eng fun s =>
    let va := s.getS a
    checkedAccept s (operandChecks s [(va, .read)] [[⟨va, 4288, .read, true⟩]]) 36 0
      (.load l (myKey s va) va.toNat) (if actv then .act l else .none) eng

/-- K of a transfer (R222, R223). -/
def rowK (r : RowSpec) : Nat := if r.tr then 64 else 320

/-- A restoration of the state block has been accepted by the engine of a tile and has not executed (R245). -/
def restorePending (s : State) (tile : Nat) : Bool := (s.tme tile).ops.any fun o => match o.kind with
  | .rest 2 _ => true
  | _ => false

/-- R238. The scales are checked where the MODE that is readable at acceptance makes the instruction read them (R236); while a state block is still to be restored, they are
recorded where they pass the checks, since its MODE may ask for them (R245; log entry 55). -/
def execMrun (g : Guard) (d a b : Reg) (row : RowSpec) (eng : Eng) (s : State) : Step :=
  mhead s g eng fun s =>
    let va := s.getS a
    let sv := s.getS b
    let k := rowK row
    let n := row.nrow.toNat + 1
    let stride := if s.getS d = 0 then wordN k else s.getS d
    let mode := (s.tme s.myTile).conf.mode
    let rows := (List.range n).map fun i => (⟨va + wordN i * stride, k, .read, false⟩ : Operand)
    let scales := (List.range n).map fun i => (⟨sv + wordN (i * (k / 32)), k / 32, .read, false⟩ : Operand)
    let stride8 := if n = 1 ∨ (s.getS d).toNat % 64 = 0 then none else some (memTrap 8 .read (va + s.getS d))
    let t := match if va.toNat % 64 = 0 then stride8 else none with
      | some t => some t
      | none => operandChecks s [(va, .read)] ([rows] ++ if mode then [scales] else [])
    let ready := mode || (restorePending s s.myTile && (operandChecks s [] [scales]).isNone)
    checkedAccept s t 36 1 (.run va stride (if ready then some sv else none) row) .none eng

/-- R238, R226. -/
def execMrunq (g : Guard) (d a : Fin 4) (row : RowSpec) (fwd : Bool) (eng : Eng) (s : State) : Step :=
  mhead s g eng fun s => tmeAccept s 36 2 (.runq a (if fwd then some d else none) row) .none eng

/-- `mdrain` and `mdrs` (R239). -/
def drainForm (s : State) (reset : Bool) (d a : Reg) (nrow frow : BitVec 4) (bank dst : Bool) (eng : Eng) : Eff :=
  let va := s.getS a
  let t :=
    if dst then
      if grant s = 0 then some (laneTrap 1 0) else if grant s < 64 then some (laneTrap 4 (grant s)) else none
    else operandChecks s [(va, .write)] [[⟨va, 256 * (nrow.toNat + 1), .write, false⟩]]
  checkedAccept s t (if reset then 37 else 36) (if reset then 0 else 3)
    (.drain reset nrow.toNat frow.toNat bank (if dst then some d else none) (if dst then 0 else myKey s va)) .none eng

/-- R239. -/
def execMdrain (g : Guard) (d a : Reg) (nrow frow : BitVec 4) (bank dst : Bool) (eng : Eng) (s : State) : Step :=
  mhead s g eng fun s => drainForm s false d a nrow frow bank dst eng
/-- R239. -/
def execMdrs (g : Guard) (d a : Reg) (nrow frow : BitVec 4) (bank dst : Bool) (eng : Eng) (s : State) : Step :=
  mhead s g eng fun s => drainForm s true d a nrow frow bank dst eng
/-- R240. -/
def execMclr (g : Guard) (banks : BitVec 2) (eng : Eng) (s : State) : Step :=
  mhead s g eng fun s => tmeAccept s 37 1 (.clear banks) .none eng
/-- R241. -/
def execMswap (g : Guard) (l set : Bool) (eng : Eng) (s : State) : Step :=
  mhead s g eng fun s => tmeAccept s 37 2 .swap (if set then .act l else .flip) eng
/-- R242. -/
def execMpass (g : Guard) (d a : Reg) (nrow : BitVec 4) (esz : BitVec 2) (plane : BitVec 3) (eng : Eng) (s : State) : Step :=
  mhead s g eng fun s =>
    let src := s.getS a
    let dst := s.getS d
    let e := 2 ^ esz.toNat
    let n := nrow.toNat + 1
    checkedAccept s
      (operandChecks s [(src, .read), (dst, .write)] [[⟨src, 320 * e * n, .read, false⟩], [⟨dst, 64 * e * n, .write, false⟩]]) 37 3
      (.pass (myKey s dst) (myKey s src) nrow.toNat e plane.toNat) .none eng
/-- R243. -/
def execMcfg (g : Guard) (a : Reg) (mode clrf user : Bool) (base : BitVec 10) (s : State) : Step :=
  head s g { matrix := true } fun s =>
    let b := if user then (s.getS a).setWidth 10 else base
    tmeAccept s 38 0 (.cfg clrf) (.cfg mode b) ⟨0, 0, 0, 0⟩

/-- Bytes of the operand of `msave` and `mrest`. -/
def imageBytes (what : BitVec 2) : Nat := if what = 2 then 64 else 8192

/-- R244, R245. -/
def execMsave (g : Guard) (a : Reg) (what : BitVec 2) (eng : Eng) (s : State) : Step :=
  mhead s g eng fun s =>
    let va := s.getS a
    checkedAccept s (operandChecks s [(va, .write)] [[⟨va, imageBytes what, .write, false⟩]]) 38 1
      (.save what.toNat (myKey s va)) .none eng
/-- R244, R245. -/
def execMrest (g : Guard) (a : Reg) (what : BitVec 2) (eng : Eng) (s : State) : Step :=
  mhead s g eng fun s =>
    let va := s.getS a
    checkedAccept s (operandChecks s [(va, .read)] [[⟨va, imageBytes what, .read, false⟩]]) 38 2
      (.rest what.toNat (myKey s va)) .none eng

/-! ## Order of operations (R215) -/

/-- An operation reads a latch. -/
def TmeKind.reads : TmeKind → Bool
  | .run _ _ _ _ => true
  | .runq _ _ _ => true
  | .pass _ _ _ _ _ => true
  | _ => false

/-- `msave` or `mrest` of the state block. -/
def TmeKind.block : TmeKind → Bool
  | .save 2 _ => true
  | .rest 2 _ => true
  | _ => false

/-- An earlier operation lets a load of latch `l` start. -/
def lets (l : Bool) (e : TmeOp) : Bool :=
  match e.kind with
  | .load m _ _ => !e.started && m != l
  | k => !k.block && (!k.reads || e.conf.act != l)

/-- An earlier operation lets an operation other than `mlw` start. -/
def letsOther (o e : TmeOp) : Bool :=
  match e.kind with
  | .load m _ _ => !o.kind.block && (!o.kind.reads || m != o.conf.act)
  | _ => false

/-- Operation `i` of an engine may start. While HALT is 1 an `mlw` does not overtake an `mcfg` that clears it: results are those of acceptance
order. -/
def tmeMayStart (e : Tme) (i : Nat) : Bool :=
  match e.ops[i]? with
  | none => false
  | some o =>
    !o.started &&
      match o.kind with
      | .load l _ _ => (e.ops.take i).all (lets l) && !(e.halt && (e.ops.take i).any fun p => p.kind == .cfg true)
      | _ => (e.ops.take i).all (letsOther o)

/-- The first operation of an engine that may start; none while a restored engine reloads its latches (R230). -/
def tmeNext (e : Tme) : Option Nat := if e.resume = [] then (List.range e.ops.length).find? (tmeMayStart e) else none

/-! ## Ends of operations -/

/-- How the work of an operation ends. -/
inductive TmeEnd where
  | done
  /-- FCODE, DETAIL and the rows completed -/
  | fault (code detail rows : Nat)
  /-- it cannot go on yet -/
  | stall
  /-- there is more to do -/
  | more
  deriving DecidableEq, Repr

/-- Removes the operation of a SEQ. -/
def Tme.drop (e : Tme) (q : BitVec 16) : Tme := { e with ops := e.ops.filter fun o => o.seq != q }

/-- The number that tells the messages of a tile's engine apart. -/
def engTme (tile : Nat) : Nat := 65536 + tile

/-- The fault message of an operation (Table 8.3). -/
def tmeMessage (s : State) (tile : Nat) (o : TmeOp) (code detail rows : Nat) : State :=
  engineMessage s (2 * tile + 1) (((s.cluster (tile / 8)).launch).getD 0) (engTme tile) (s.tme tile).fch.toNat 1
    (wordN (code + 2 ^ 8 * o.maj + 2 ^ 15 * o.min)) (wordN o.seq.toNat) (wordN (detail + 2 ^ 16 * rows)) []

/-- A fault of an operation (R218). -/
def tmeFault (s : State) (tile : Nat) (o : TmeOp) (code detail rows : Nat) : State :=
  let e := (s.tme tile).drop o.seq
  let e := match o.kind with
    | .runq _ _ _ => { e with qrows := rows }
    | _ => e
  if e.halt then tmeMessage (s.setTme tile e) tile o code detail rows
  else
    let s := tmeMessage (s.setTme tile { e with halt := true, fcode := code, detail := detail, fseq := o.seq }) tile o code detail rows
    if (s.launchAt (tile / 8)).isNone then s
    else errorEntry s (s.ctxAt (tile / 8)) 2 (code + 2 ^ 16 * detail) 0 (placeId s (4 * (2 * tile + 1))) (wordN o.seq.toNat)

/-- The end of an operation: a fault, or its signal (R217). -/
def tmeFinish (s : State) (tile : Nat) (o : TmeOp) : TmeEnd → State
  | .done => semSignal (s.setTme tile ((s.tme tile).drop o.seq)) tile o.eng.sj.toNat o.eng.sn.toNat
  | .fault c d r => tmeFault s tile o c d r
  | .stall => s
  | .more => s

/-! ## Rows (R222 to R225) -/

/-- sat48. -/
def sat48 (v : Int) : Int := clampI (-(2 ^ 47)) (2 ^ 47 - 1) v

/-- The sum of products of trits and elements. -/
def dotTrits (ts xs : List Int) : Int := (ts.zip xs).foldl (fun c p => c + p.1 * p.2) 0

/-- Rounds P / 2^n to an integer, ties to even. -/
def rneShift (p : Int) (n : Nat) : Int :=
  let r := roundShift .rne (decide (p < 0)) p.natAbs n
  if p < 0 then -(r : Int) else r

/-- One block of an MXINT8 row into a cell with MOVF (R222): the scale byte, BASE and the partial sum P. -/
def blockInto (base : Int) (x : Nat) (p : Int) (c : Int × Bool × Bool) : Int × Bool × Bool :=
  if x = 255 then (c.1, true, c.2.2)
  else if p = 0 then c
  else
    let sh := (x : Int) - 133 - base
    let v := if 0 ≤ sh then p * (2 : Int) ^ sh.toNat else rneShift p (-sh).toNat
    let q := if 0 ≤ sh then sat48 v else v
    let a := sat48 (c.1 + q)
    (a, c.2.1, c.2.2 || q != v || a != c.1 + q)

/-- A cell after a row (R222): `xs` are the elements, `scales` the scale bytes in MXINT8 mode, `ts` the trits of the column. -/
def cellAfter (acc : Bool) (base : Int) (scales : Option (List Nat)) (xs ts : List Int) (old : Cell) : Cell × Bool :=
  let a0 : Int := if acc then old.a.toInt else 0
  let n0 := acc && old.nf
  match scales with
  | none => (⟨BitVec.ofInt 48 (sx 32 (wrapN 32 (a0 + dotTrits ts xs))), n0⟩, false)
  | some ss =>
    let r := (List.range ss.length).foldl (fun c q =>
      blockInto base (ss.getD q 0) (dotTrits ((ts.drop (32 * q)).take 32) ((xs.drop (32 * q)).take 32)) c) (a0, n0, false)
    (⟨BitVec.ofInt 48 r.1, r.2.1⟩, r.2.2)

/-- The trits that meet a row in column `n` (R222, R223). -/
def rowTrits (l : Latch) (row : RowSpec) (n : Nat) : List Int :=
  if row.tr then (List.range 64).map fun k => l.trit (64 * row.sq.toNat + n) k else columnTrits l.data n

/-- A row written through the latch into its bank (R222). -/
def rowInto (e : Tme) (o : TmeOp) (row : RowSpec) (i : Nat) (xs : List Byte) (scales : Option (List Byte)) : Tme :=
  let l := e.latch o.conf.act
  let is := xs.map fun b => sx 8 b.toNat
  let ss := scales.map fun l => l.map (·.toNat)
  let old := e.row row.bank (row.frow.toNat + i)
  let new := (List.range 64).map fun n =>
    cellAfter row.acc o.conf.base.toInt ss is (rowTrits l row n) (old.getD n Cell.zero)
  { e.setRow row.bank (row.frow.toNat + i) (new.map (·.1)) with movf := e.movf || new.any (·.2) }

/-! ## Reads of operands, and their faults (R216, Table 8.2) -/

/-- Whether a range (key, length) has been freed since the operation was accepted (R178). -/
def TmeOp.isFreed (o : TmeOp) (key n : Nat) : Bool := o.freed.any fun r => overlap r.1 r.2 key n

/-- Bytes of an operand as the operation reads them: a word that it has read already keeps the value that it had then (R216). -/
def tmeBytes (s : State) (o : TmeOp) (key n : Nat) : List Byte :=
  (List.range n).map fun i =>
    match o.seen.find? fun p => p.1 == (key + i) / 8 with
    | some p => p.2.getD ((key + i) % 8) 0
    | none => s.mem.get (key + i)

/-- The number under which an error in the contents of a latch stands among the lost words (log entry 8). -/
def latchWord (tile : Nat) (l : Bool) : Nat := 2 ^ 57 + 2 * tile + l.toNat

/-- The number under which an error in a piece of 8 cells of an accumulator row stands among the lost words (log entry 8). -/
def accWord (tile : Nat) (bank : Bool) (row piece : Nat) : Nat := 2 ^ 58 + 256 * tile + 128 * bank.toNat + 8 * row + piece

/-- The numbers of the pieces of an accumulator row. -/
def rowWords (tile : Nat) (bank : Bool) (row : Nat) : List Nat := (List.range 8).map (accWord tile bank row)

/-- A read of an operation meets a freed block or an uncorrectable error (Table 8.2). Where it meets both, the freed block is reported: DESIGN CHOICE (log entry 55). -/
def readFault (s : State) (o : TmeOp) (rows key n : Nat) : Option TmeEnd :=
  if o.isFreed key n then some (.fault 9 0 rows)
  else if s.lostIn key n then some (.fault 5 (lossSub key) rows)
  else none

/-- The latch that an operation reads holds an uncorrectable error (Table 8.2, DETAIL 3). -/
def latchLoss (s : State) (tile : Nat) (o : TmeOp) (rows : Nat) : Option TmeEnd :=
  if s.anyLost [latchWord tile o.conf.act] then some (.fault 5 3 rows) else none

/-- Accumulator cells that an operation reads hold an uncorrectable error (Table 8.2, DETAIL 4). -/
def cellLoss (s : State) (ws : List Nat) (rows : Nat) : Option TmeEnd := if s.anyLost ws then some (.fault 5 4 rows) else none

/-- The first of several conditions that holds. -/
def firstEnd (l : List (Option TmeEnd)) : Option TmeEnd := l.findSome? id

/-- A row of `mrun` and `mrunq` enters its bank (R222, R238), unless the latch or a row that is added to holds an error. -/
def rowEnters (s : State) (tile : Nat) (o : TmeOp) (row : RowSpec) (i : Nat) (xs : List Byte) (scales : Option (List Byte)) :
    State × Option TmeEnd :=
  let ws := rowWords tile row.bank (row.frow.toNat + i)
  match firstEnd [latchLoss s tile o i, if row.acc then cellLoss s ws i else none] with
  | some f => (s, some f)
  | none => ((s.setTme tile (rowInto (s.tme tile) o row i xs scales)).mended ws, none)

/-! ## Units of work -/

/-- The memory key of an operand address of an operation (R235). -/
def opKey (o : TmeOp) (va : Word) : Nat := localKey (coreOf o.slot) (whereIs va)

/-- The key of row `i` of an `mrun`, and in MXINT8 mode the key of its scales (R238). -/
def runKeys (o : TmeOp) (va stride : Word) (scales : Option Word) (row : RowSpec) (i : Nat) : Nat × Option Nat :=
  (opKey o (va + wordN i * stride), if o.conf.mode then scales.map fun q => opKey o (q + wordN (i * (rowK row / 32))) else none)

/-- The scale bytes of a row in MXINT8 mode: those at a key, or free values where none were recorded (log entry 55). -/
def rowScales (s : State) (o : TmeOp) (k : Nat) : Option Nat → List Byte
  | some m => tmeBytes s o m (k / 32)
  | none => (List.range (k / 32)).map (Config.missingScale s.free)

/-- Row `o.rows` of an `mrun` (R238). -/
def runRow (s : State) (tile : Nat) (o : TmeOp) (va stride : Word) (scales : Option Word) (row : RowSpec) : State × Option TmeEnd :=
  let k := rowK row
  let q := runKeys o va stride scales row o.rows
  match firstEnd [readFault s o o.rows q.1 k, q.2.bind fun m => readFault s o o.rows m (k / 32)] with
  | some f => (s, some f)
  | none => rowEnters (if o.conf.mode && q.2.isNone then s.draw else s) tile o row o.rows (tmeBytes s o q.1 k) (if o.conf.mode then some (rowScales s o k q.2) else none)

/-- The FP32 bits of a cell under a base exponent, and whether they overflowed (R225). -/
def drainCell (base : Int) (c : Cell) : Nat × Bool :=
  if c.nf then (FloatTy.nanBits .f32, false)
  else
    let a := c.a.toInt
    let y := (roundTo .f32 .rne (decide (a < 0)) a.natAbs base).1
    (y, y % 2 ^ 31 == FloatTy.infBits .f32)

/-- Writes a drained row into vector register `v` of the claim that the operation named (R189, R225). Where the slot has written a lane since the drain was
issued, R189 permits either value: the model's drain overwrites it (log entry 52). -/
def drainLanes (s : State) (o : TmeOp) (v : Reg) (ys : List Nat) : State :=
  let l := s.slot o.slot
  if l.claim.id = o.claim then
    let old := l.claim.v[v]
    let new := (List.range l.claim.g).map fun i => match ys[i]? with
      | some y => BitVec.ofNat 32 y
      | none => old.getD i 0
    s.setSlot o.slot { l with claim := { l.claim with v := l.claim.v.set v new } }
  else s

/-- Row `o.rows` of a drain (R225). -/
def drainRow (s : State) (tile : Nat) (o : TmeOp) (reset : Bool) (frow : Nat) (bank : Bool) (v : Option Reg) (key : Nat) :
    State × Option TmeEnd :=
  let i := o.rows
  match firstEnd [if v.isNone && o.isFreed (key + 256 * i) 256 then some (.fault 9 1 i) else none,
    cellLoss s (rowWords tile bank (frow + i)) i] with
  | some f => (s, some f)
  | none =>
    let e := s.tme tile
    let ys := (e.row bank (frow + i)).map (drainCell o.conf.base.toInt)
    let e := { e with movf := e.movf || ys.any (·.2) }
    let e := if reset then e.setRow bank (frow + i) (List.replicate 64 Cell.zero) else e
    let s := s.setTme tile e
    (match v with
      | some r => drainLanes s o (Fin.ofNat 32 (r.val + i)) (ys.map (·.1))
      | none => s.write (key + 256 * i) (ys.flatMap fun y => bytesOf 4 y.1), none)

/-- The keys of the source bytes of row `i` of an `mpass`, column by column (R224). -/
def passKeys (s : State) (tile : Nat) (o : TmeOp) (src e plane i : Nat) : List Nat :=
  let l := (s.tme tile).latch o.conf.act
  (List.range 64).map fun c => src + 320 * e * i + e * ((oneHot (columnTrits l.data c)).getD 0) + plane

/-- Row `o.rows` of an `mpass` (R224). -/
def passRow (s : State) (tile : Nat) (o : TmeOp) (dst src e plane : Nat) : State × Option TmeEnd :=
  let i := o.rows
  let ks := passKeys s tile o src e plane i
  match firstEnd [latchLoss s tile o i, ks.findSome? fun k => readFault s o i k 1,
    if o.isFreed (dst + 64 * e * i) (64 * e) then some (.fault 9 1 i) else none] with
  | some f => (s, some f)
  | none =>
    (((List.range 64).zip (ks.map fun k => tmeBytes s o k 1)).foldl
      (fun s p => s.write (dst + 64 * e * i + e * p.1 + plane) p.2) s, none)

/-! ## The queue form (R226) -/

/-- Entries of a queue that make a row (R226). -/
def rowEntries (mode tr : Bool) : Nat := if mode then (if tr then 9 else 42) else if tr then 8 else 40

/-- Replaces the operation of a SEQ. -/
def Tme.put (e : Tme) (o : TmeOp) : Tme := { e with ops := e.ops.map fun x => if x.seq = o.seq then o else x }

/-- A unit of an `mrunq` (R226): the entry read last is forwarded, in its turn among the pushes to that queue (R255); a row whose entries are there is
written; or the next entry of the input port is taken; `q` is that port, numbered 4 core + port. -/
def queueUnit (s : State) (tile : Nat) (o : TmeOp) (q : Nat) (row : RowSpec) : State × TmeOp × TmeEnd :=
  match o.fwd with
  | some (t, some w) =>
    if portRoom (portQueue s t) = 0 || olderPush s none t o.age then (s, o, .stall)
    else (reserveEntry s (q / 4) t ⟨w, false⟩, { o with fwd := some (t, none), age := 0 }, .more)
  | f =>
    if o.got.length = rowEntries o.conf.mode row.tr then
      let bs := o.got.flatMap fun w => bytesOf 8 w.toNat
      let k := rowK row
      let r := rowEnters s tile o row o.rows (bs.take k) (if o.conf.mode then some ((bs.drop k).take (k / 32)) else none)
      match r.2 with
      | some x => (r.1, o, x)
      | none => (r.1, { o with got := [], rows := o.rows + 1 }, .more)
    else if o.rows = row.nrow.toNat + 1 then (s, o, .done)
    else
      let pq := portQueue s q
      match pq.entries with
      | [] => (s, o, .stall)
      | e :: r =>
        if e.c then (s, o, if o.got = [] then .done else .fault 4 o.rows o.rows)
        else
          let t := dequeued s q r
          if s.anyLost [portWord q] then (t, o, .fault 5 5 o.rows)
          else
            let t := if f.isSome then t.older else t
            (t, { o with got := o.got ++ [e.data], fwd := f.map fun x => (x.1, some e.data), age := if f.isSome then t.age else 0 }, .more)

/-! ## Images (R244, R245) -/

/-- The 8-byte word of a cell in a bank image. -/
def cellWord (c : Cell) : Nat := (wrapN 63 c.a.toInt) + 2 ^ 63 * c.nf.toNat

/-- The cell of an 8-byte word of a bank image. -/
def cellOf (w : Nat) : Cell := ⟨BitVec.ofNat 48 w, fB w 63⟩

/-- Piece `o.rows` of 64 bytes of a bank image, saved or restored. After a fault the pieces before the one that failed stay written or restored
(log entry 54). -/
def bankPiece (s : State) (tile : Nat) (o : TmeOp) (save : Bool) (bank : Bool) (key : Nat) : State × Option TmeEnd :=
  let k := key + 64 * o.rows
  let r := o.rows / 8
  let j := o.rows % 8
  let cells := (s.tme tile).row bank r
  if save then
    match firstEnd [if o.isFreed k 64 then some (.fault 9 1 r) else none, cellLoss s [accWord tile bank r j] r] with
    | some f => (s, some f)
    | none => (s.write k (((cells.drop (8 * j)).take 8).flatMap fun c => bytesOf 8 (cellWord c)), none)
  else
    match readFault s o r k 64 with
    | some f => (s, some f)
    | none =>
      let bs := tmeBytes s o k 64
      let new := (List.range 8).map fun i => cellOf (leAt bs (8 * i) 8)
      ((s.setTme tile ((s.tme tile).setRow bank r (cells.take (8 * j) ++ new ++ cells.drop (8 * j + 8)))).mended [accWord tile bank r j], none)

/-- The state block (Table 8.11). -/
def stateBlock (e : Tme) : List Byte :=
  let c := e.conf
  let ad (l : Latch) : Nat := if l.loaded then l.addr else 0
  let ck (l : Latch) : Nat := if l.loaded then l.check.toNat else 0
  bytesOf 1 c.mode.toNat ++ bytesOf 1 c.act.toNat ++ bytesOf 2 (wrapN 16 c.base.toInt) ++ bytesOf 1 (2 * e.la.loaded.toNat) ++
    bytesOf 1 (2 * e.lb.loaded.toNat) ++ bytesOf 1 e.movf.toNat ++ bytesOf 1 0 ++ bytesOf 8 (ad e.la) ++ bytesOf 8 (ad e.lb) ++
    bytesOf 4 (ck e.la) ++ bytesOf 4 (ck e.lb) ++ bytesOf 32 0

/-- A saved WS address is right for a latch state. A record that would run past the end of the WS counts as an invalid field (log entry 54). -/
def blockAddrOk (st a : Nat) : Bool :=
  if st = 2 then a % 64 == 0 && decide (0x200000 ≤ a) && decide (a + 4288 ≤ 0x400000) else a == 0

/-- The offset of the first invalid field of a state block (R245). -/
def blockFault (bs : List Byte) : Option Nat :=
  let b := sx 16 (leAt bs 2 2)
  let la := leAt bs 4 1
  let lb := leAt bs 5 1
  let bad : List (Nat × Bool) :=
    [(0, decide (1 < leAt bs 0 1)), (1, decide (1 < leAt bs 1 1)), (2, decide (b < -512) || decide (511 < b)),
     (4, la != 0 && la != 2), (5, lb != 0 && lb != 2), (6, decide (1 < leAt bs 6 1)), (7, leAt bs 7 1 != 0),
     (8, !blockAddrOk la (leAt bs 8 8)), (16, !blockAddrOk lb (leAt bs 16 8)),
     (24, la == 0 && leAt bs 24 4 != 0), (28, lb == 0 && leAt bs 28 4 != 0), (32, leAt bs 32 32 != 0)]
  (bad.find? (·.2)).map (·.1)

/-! ## Loads of latches (R230, R237, R245) -/

/-- The latch of a tile is being loaded, or is no longer. -/
def setLoading (s : State) (tile : Nat) (l b : Bool) : State :=
  s.setTme tile ((s.tme tile).setLatch l { (s.tme tile).latch l with loading := b })

/-- A latch takes a record from the WS. -/
def putLatch (s : State) (tile : Nat) (l : Bool) (x : Latch) : State :=
  (s.setTme tile ((s.tme tile).setLatch l x)).mended [latchWord tile l]

/-- The end of a load of latch `l` from the record `bs` at an address: the latch, or FCODE and DETAIL; `check` is the CHECK that a reload
requires. -/
def loadEnd (lost : Bool) (bs : List Byte) (addr : Nat) (check : Option Nat) : Except (Nat × Nat) Latch :=
  if lost then .error (5, 0)
  else
    match recordFault bs with
    | some n => .error (1, n)
    | none => if check.all (leAt bs 60 4 == ·) then .ok (latchOf bs addr) else .error (1, 8)

/-- A latch is loaded, or keeps its state and the operation ends with a fault; a record with another CHECK than the saved one leaves it empty
(R237, R245). -/
def loadLatch (s : State) (tile : Nat) (o : TmeOp) (l : Bool) (key addr : Nat) (check : Option Nat) : State × Option TmeEnd :=
  match loadEnd (s.lostIn key 4288) (tmeBytes s o key 4288) addr check with
  | .ok x => (putLatch s tile l x, none)
  | .error (c, d) => (if d = 8 then putLatch s tile l Latch.init else setLoading s tile l false, some (.fault c d 0))

/-- A saved latch of a state block: its state, WS address and CHECK. -/
def savedLatch (bs : List Byte) (l : Bool) : Nat × Nat × Nat := (leAt bs (4 + l.toNat) 1, leAt bs (8 + 8 * l.toNat) 8, leAt bs (24 + 4 * l.toNat) 4)

/-- MODE, BASE, ACT, MOVF and the empty latches of a valid state block are restored (R245). Until an accepted `mrest` does so, MCONF reads as the operations accepted
before it leave it: DESIGN CHOICE (log entry 55). -/
def restoreBlock (s : State) (tile : Nat) (o : TmeOp) (bs : List Byte) : State :=
  let e := s.tme tile
  let c : TmeConf := ⟨leAt bs 0 1 == 1, BitVec.ofNat 10 (leAt bs 2 2), leAt bs 1 1 == 1⟩
  let before := e.ops.takeWhile fun x => x.seq != o.seq
  let r := reconf c (e.ops.drop (before.length + 1))
  let s := s.setTme tile { e with conf := r.2, ops := before ++ [o] ++ r.1, movf := leAt bs 6 1 == 1 }
  [false, true].foldl (fun s l => if (savedLatch bs l).1 = 0 then putLatch s tile l Latch.init else s) s

/-- A unit of `mrest` of the state block (R245): the block; then each latch that it names, A first. After a fault in the reload of latch A the operation
has ended, and B is not reloaded (log entry 54). -/
def restUnit (s : State) (tile : Nat) (o : TmeOp) (key : Nat) : State × TmeOp × TmeEnd :=
  let bs := o.got.flatMap fun w => bytesOf 8 w.toNat
  let l := decide (3 ≤ o.rows)
  let sv := savedLatch bs l
  match o.rows with
  | 0 =>
    match readFault s o 0 key 64 with
    | some f => (s, o, f)
    | none =>
      let bs := tmeBytes s o key 64
      match blockFault bs with
      | some d => (s, o, .fault 7 d 0)
      | none => (restoreBlock s tile o bs, { o with rows := 1, got := (List.range 8).map fun i => wordN (leAt bs (8 * i) 8) }, .more)
  | 1 | 3 =>
    if sv.1 = 2 then (setLoading s tile l true, { o with rows := o.rows + 1 }, .more) else (s, { o with rows := o.rows + 2 }, .more)
  | 2 | 4 =>
    let r := loadLatch s tile o l (wsKey tile (sv.2.1 - 0x200000)) sv.2.1 (some sv.2.2)
    match r.2 with
    | some f => (r.1, o, f)
    | none => (r.1, { o with rows := o.rows + 1 }, .more)
  | _ => (s, o, .done)

/-! ## The work of an operation (R216, R217, R229) -/

/-- The ranges (key, length) that the next unit of an operation reads, and that park on guards (R216). -/
def unitReads (s : State) (tile : Nat) (o : TmeOp) : List (Nat × Nat) :=
  match o.kind with
  | .load _ k _ => [(k, 4288)]
  | .run va stride ss row =>
    if row.nrow.toNat < o.rows then []
    else
      let q := runKeys o va stride ss row o.rows
      (q.1, rowK row) :: (q.2.map fun m => (m, rowK row / 32)).toList
  | .pass _ src nrow e plane => if nrow < o.rows then [] else (passKeys s tile o src e plane o.rows).map fun k => (k, 1)
  | .rest what k =>
    if what = 2 then
      match o.rows with
      | 0 => [(k, 64)]
      | 2 | 4 => [(wsKey tile ((savedLatch (o.got.flatMap fun w => bytesOf 8 w.toNat) (o.rows == 4)).2.1 - 0x200000), 4288)]
      | _ => []
    else if o.rows < 128 then [(k + 64 * o.rows, 64)] else []
  | _ => []

/-- The age at which a read of an engine at a key has parked, if it has. -/
def EngWait.ageAt (w : EngWait) (key : Nat) : Option Nat :=
  match w with
  | .parked a k _ => if k = key then some a else Option.none
  | _ => Option.none

/-- A read of `n` bytes at a key by an agent of a cluster, which waits so far as given, parks: on a guard, or, where it has parked, behind a read of the cluster that
parked before it (R359). -/
def engParks (s : State) (cl : Nat) (w : EngWait) (key n : Nat) : Bool :=
  guarded s cl key n || (w.ageAt key).any (parkedOlder s cl)

/-- The wait of a parked read of an engine, with the age at which it parked. -/
def engParked (s : State) (w : EngWait) (key n : Nat) : State × EngWait :=
  match w.ageAt key with
  | some a => (s, .parked a key n)
  | none => (s.older, .parked s.older.age key n)

/-- The next read of the operation that parks (R216). -/
def tmeParked (s : State) (tile : Nat) (o : TmeOp) : Option (Nat × Nat) :=
  (unitReads s tile o).find? fun r => engParks s (tile / 8) o.wait r.1 r.2

/-- A row or a piece is done, or has ended the operation. -/
def rowDone (o : TmeOp) (r : State × Option TmeEnd) : State × TmeOp × TmeEnd :=
  match r.2 with
  | some f => (r.1, o, f)
  | none => (r.1, { o with rows := o.rows + 1 }, .more)

/-- The next unit of `n` rows or pieces. -/
def rowUnit (s : State) (o : TmeOp) (n : Nat) (r : State × Option TmeEnd) : State × TmeOp × TmeEnd :=
  if n ≤ o.rows then (s, o, .done) else rowDone o r

/-- The next unit of work of an operation that has started: a row, a piece of 64 bytes, an entry, the load of a latch, or all of it. -/
def tmeUnit (s : State) (tile : Nat) (o : TmeOp) : State × TmeOp × TmeEnd :=
  let e := s.tme tile
  match o.kind with
  | .load l k addr =>
    if o.rows = 0 then (setLoading s tile l true, { o with rows := 1 }, .more)
    else
      let r := loadLatch s tile o l k addr none
      (r.1, o, r.2.getD .done)
  | .run va stride ss row => rowUnit s o (row.nrow.toNat + 1) (runRow s tile o va stride ss row)
  | .runq q _ row => queueUnit s tile o (4 * (2 * tile + 1) + q.val) row
  | .drain reset nrow frow bank v k => rowUnit s o (nrow + 1) (drainRow s tile o reset frow bank v k)
  | .clear banks =>
    let keep := fun p : Nat × List Cell => !(banks.getLsbD (p.1 / 16))
    let ws := [false, true].flatMap fun b => if banks.getLsbD b.toNat then (List.range 16).flatMap (rowWords tile b) else []
    ((s.setTme tile { e with acc := e.acc.filter keep }).mended ws, o, .done)
  | .swap => (s, o, .done)
  | .pass dst src nrow esz plane => rowUnit s o (nrow + 1) (passRow s tile o dst src esz plane)
  | .cfg clrf =>
    (if clrf then s.setTme tile { e with halt := false, fcode := 0, detail := 0, fseq := 0, movf := false } else s, o, .done)
  | .save what k =>
    if what = 2 then
      if o.isFreed k 64 then (s, o, .fault 9 1 0)
      else (s.write k (stateBlock { e with conf := o.conf }), o, .done)
    else rowUnit s o 128 (bankPiece s tile o true (what == 1) k)
  | .rest what k => if what = 2 then restUnit s tile o k else rowUnit s o 128 (bankPiece s tile o false (what == 1) k)

/-- The units of an operation, one after another, while it does not park and does not stall; its progress stands in the engine. -/
def tmeWork (tile : Nat) : Nat → State → TmeOp → State × TmeOp × TmeEnd
  | 0, s, o => (s, o, .more)
  | fuel + 1, s, o =>
    match tmeParked s tile o with
    | some p =>
      let w := engParked s o.wait p.1 p.2
      let o := { o with wait := w.2 }
      (w.1.setTme tile ((w.1.tme tile).put o), o, .stall)
    | none =>
      let r := tmeUnit s tile { o with wait := .none }
      let s := r.1.setTme tile ((r.1.tme tile).put r.2.1)
      match r.2.2 with
      | .more => tmeWork tile fuel s r.2.1
      | x => (s, r.2.1, x)

/-! ## Events -/

/-- What the start of an operation finds (R218, R224, R226, R238). An empty latch is reported before a forward port without a target: DESIGN CHOICE (log entry 55). -/
def tmeStartFault (s : State) (tile : Nat) (o : TmeOp) : Option (Nat × Nat) :=
  let l := (s.tme tile).latch o.conf.act
  if o.kind.reads && !l.loaded then some (2, o.conf.act.toNat)
  else
    match o.kind with
    | .pass _ _ _ _ _ => if l.oneh then none else some (3, l.badcol)
    | .runq _ (some d) _ => if (portTarget s (2 * tile + 1) d).isNone then some (8, d.val) else none
    | _ => none

/-- R215, R218: the engine of a tile starts its next operation, or skips it while it is halted. An operation that was accepted before an `mlw` which has overtaken it and
faulted is skipped too, by the words of R218: DESIGN CHOICE (log entry 55). -/
def execTmeOperationStart (tile : Nat) (s : State) : Step :=
  let e := s.tme tile
  match (tmeNext e).bind fun i => e.ops[i]? with
  | none => .next s
  | some o =>
    if engHalted s (tile / 8) then .next s
    else if e.halt && o.kind != .cfg true then .next (tmeMessage (s.setTme tile (e.drop o.seq)) tile o 6 0 0)
    else
      match tmeStartFault s tile o with
      | some (c, d) => .next (tmeFault s tile o c d 0)
      | none =>
        let o := { o with started := true, fwd := match o.kind with
          | .runq _ (some d) _ => (portTarget s (2 * tile + 1) d).map fun t => (t, none)
          | _ => none }
        let s := s.setTme tile (e.put o)
        match o.kind with
        | .load _ _ _ => .next (let r := tmeUnit s tile o; r.1.setTme tile ((r.1.tme tile).put r.2.1))
        | _ => .next s

/-- An operation that is complete when it is stopped (Table 8.8). -/
def TmeKind.whole : TmeKind → Bool
  | .clear _ | .swap | .cfg _ => true
  | _ => false

/-- An operation of an engine that may go on: it has started, the engine does not reload its latches, and ENGHALT does not hold it (R230, R231). -/
def tmeGoes (s : State) (tile : Nat) (o : TmeOp) : Bool :=
  o.started && (s.tme tile).resume.isEmpty && (o.kind.whole || !engHalted s (tile / 8))

/-- The end of an operation, with MSTAT.QROWS of an `mrunq` (R226). -/
def tmeEnded (s : State) (tile : Nat) (o : TmeOp) (x : TmeEnd) : State :=
  tmeFinish (match o.kind, x with
    | .runq _ _ _, .done => s.setTme tile { s.tme tile with qrows := o.rows }
    | _, _ => s) tile o x

/-- R217, R226, R229: operation `k` of the engine of a tile, if it has started and does not park, does the rest of its work and completes; an `mrunq` takes the
entries that are there. -/
def execTmeOperationComplete (tile k : Nat) (s : State) : Step :=
  match (s.tme tile).ops[k]? with
  | none => .next s
  | some o =>
    if tmeGoes s tile o then
      let r := tmeWork tile 4096 s o
      .next (tmeEnded r.1 tile r.2.1 r.2.2)
    else .next s

/-! ## What an engine does between these events -/

/-- Operation `k` of the engine of a tile does one unit of its work (R216, R229). -/
def tmeProgress (s : State) (tile k : Nat) : State :=
  match (s.tme tile).ops[k]? with
  | none => s
  | some o =>
    if tmeGoes s tile o then
      let r := tmeWork tile 1 s o
      tmeEnded r.1 tile r.2.1 r.2.2
    else s

/-- The memory that an operation writes (key, length). -/
def tmeWrites (o : TmeOp) : List (Nat × Nat) :=
  match o.kind with
  | .drain _ nrow _ _ none k => [(k, 256 * (nrow + 1))]
  | .pass dst _ nrow e _ => [(dst, 64 * e * (nrow + 1))]
  | .save what k => [(k, if what = 2 then 64 else 8192)]
  | _ => []

/-- The ranges that an accepted operation has still to read. -/
def tmeToRead (s : State) (tile : Nat) (o : TmeOp) : List (Nat × Nat) :=
  match o.kind with
  | .run _ _ _ row => (List.range (row.nrow.toNat + 1)).flatMap fun i => unitReads s tile { o with rows := i }
  | .pass _ src nrow e _ => [(src, 320 * e * (nrow + 1))]
  | .rest what k => if what = 2 then unitReads s tile o else [(k, 8192)]
  | _ => unitReads s tile o

/-- Operation `k` of the engine of a tile reads a word of its operands before its work needs it: R216 permits the old value of a word that is
written between the acceptance and the engine's read. Words that an earlier operation of the engine writes are read after it (R215); a guarded
word parks. Which word it is is free. -/
def tmeReadsWord (s : State) (tile k : Nat) : State :=
  match (s.tme tile).ops[k]? with
  | none => s
  | some o =>
    let rs := tmeToRead s tile o
    let t := s.draw
    match rs[Config.pick s.free % rs.length]? with
    | none => t
    | some r =>
      let w := (r.1 + Config.pick (s.free + 1) % r.2) / 8
      let t := t.draw
      let earlier := ((s.tme tile).ops.take k).flatMap tmeWrites
      if engParks s (tile / 8) o.wait (8 * w) 8 || s.lostIn (8 * w) 8 || earlier.any (fun x => overlap x.1 x.2 (8 * w) 8) || o.seen.any (·.1 == w) then t
      else t.setTme tile ((t.tme tile).put { o with seen := tset o.seen w (s.read (8 * w) 8) })

/-! ## Stops and resumption (R229, R230) -/

/-- An operation that is stopped: a load of latches is restarted from the beginning, and words read early are read again. -/
def TmeOp.stopped (o : TmeOp) : TmeOp :=
  match o.kind with
  | .load _ _ _ => { o with rows := 0, seen := [] }
  | .rest 2 _ => { o with rows := 0, got := [], seen := [] }
  | _ => { o with seen := [] }

/-- The operations of an engine that complete when they are stopped complete, and the others reach their stop points; a latch that was being loaded keeps its
previous contents (Table 8.8). -/
def tmeStop (s : State) (tile : Nat) : State :=
  let s := (List.range (s.tme tile).ops.length).foldl (fun s k =>
    match (s.tme tile).ops.findIdx? fun o => o.started && o.kind.whole with
    | some i => (match execTmeOperationComplete tile i s with
      | .next t => t
      | _ => s)
    | none => s) s
  let e := s.tme tile
  s.setTme tile { e with ops := e.ops.map TmeOp.stopped, la := { e.la with loading := false }, lb := { e.lb with loading := false } }

/-- A latch that cannot be reloaded is empty, and its engine faults (R230). The fault belongs to no operation: its message carries the next SEQ and the MAJ and
MIN of `mlw` (log entry 54). A stopped operation that reads the latch goes on through the empty latch, and signals: DESIGN CHOICE (log entry 55). -/
def latchFault (s : State) (tile : Nat) (b : Bool) (code detail : Nat) : State :=
  let e := s.tme tile
  let o : TmeOp := ⟨e.seq, 36, 0, 4 * (2 * tile + 1), 0, .swap, e.conf, .none, ⟨0, 0, 0, 0⟩, true, 0, [], none, 0, [], [], .none⟩
  tmeFault (putLatch s tile b Latch.init) tile o code detail 0

/-- A restored engine reloads the next of its latches as by `mlw` (R230); a guarded region parks the read. -/
def tmeReload (s : State) (tile : Nat) : State :=
  match (s.tme tile).resume with
  | [] => s
  | l :: t =>
    let x := (s.tme tile).latch l
    let k := wsKey tile (x.addr - 0x200000)
    if engHalted s (tile / 8) || guarded s (tile / 8) k 4288 then s
    else
      let s := s.setTme tile { s.tme tile with resume := t }
      match loadEnd (s.lostIn k 4288) (s.read k 4288) x.addr (some x.check.toNat) with
      | .ok y => putLatch s tile l y
      | .error f => latchFault s tile l f.1 f.2

end Sys2Proof.Machine
end

