-- ==== Sys2Proof/Machine/Copies.lean ====
section
/-!
DEFINITION. The copy engines, their conversions and the threshold unit, transaction barriers and guarded regions (13 R346 to R382).
-/

namespace Sys2Proof.Machine

/-! ## Transaction barriers (R356 to R358) -/

/-- The fields of Table 13.5. -/
structure Barrier where
  landed  : Nat
  expect  : Nat
  arrive  : Nat
  arrinit : Nat
  wait    : Nat
  phase   : Nat
  bf      : Bool
  deriving DecidableEq, Repr

/-- The barrier at a memory key. -/
def barrierAt (s : State) (k : Nat) : Barrier :=
  ⟨s.num k 4, s.num (k + 4) 4, s.num (k + 8) 2, s.num (k + 10) 2, s.num (k + 12) 2, s.num (k + 14) 1 % 16, fB (s.num (k + 14) 1) 4⟩

/-- Writes the barrier at a key; the reserved bits become zero. -/
def setBarrier (s : State) (k : Nat) (b : Barrier) : State :=
  s.write k (bytesOf 4 b.landed ++ bytesOf 4 b.expect ++ bytesOf 2 b.arrive ++ bytesOf 2 b.arrinit ++ bytesOf 2 b.wait ++
    bytesOf 2 (b.phase + 16 * b2n b.bf))

/-- An update of a barrier (R357): landed bytes, expected bytes and arrivals; and whether it opens. -/
def Barrier.update (b : Barrier) (dl de da : Nat) : Barrier × Bool :=
  if b.bf then (b, false)
  else
    let nl := b.landed + dl
    let ne := b.expect + de
    if b.arrive < da ∨ 2 ^ 32 - 1 < ne ∨ ne < nl then ({ b with bf := true }, false)
    else if b.arrive = da ∧ nl = ne then
      ({ b with phase := (b.phase + 1) % 16, arrive := b.arrinit, landed := 0, expect := 0 }, true)
    else ({ b with landed := nl, expect := ne, arrive := b.arrive - da }, false)

/-- The status word of R380; `seen` is bit 5. -/
def barrierStatus (b : Barrier) (seen : Bool) : Word := wordN (b.phase + 16 * b2n b.bf + 32 * b2n seen)

/-- The slots blocked in `tbwait` on the barrier at a key: slot, D and the phase waited on. -/
def barrierWaiters (s : State) (k : Nat) : List (Nat × Reg × Nat) :=
  s.slots.filterMap fun p =>
    match p.2.wait with
    | .barrier k' d ph => if k' = k then some (p.1, d, ph) else none
    | _ => none

/-- A slot blocked in `tbwait` goes on (R381): WAIT goes down, s[D] receives the status, and the head retires. -/
def barrierWake (s : State) (k : Nat) (w : Nat × Reg × Nat) : State :=
  let b := barrierAt s k
  let s := setBarrier s k { b with wait := b.wait - 1 }
  finish (s.setSAt w.1 w.2.1 (barrierStatus b (b.phase != w.2.2))) w.1 .seq (stepping s w.1) none

/-- An update of the barrier at a key (R357): an opening frees its guards, and an opening or a barrier fault wakes `tbwait`. -/
def barrierUpdate (s : State) (k dl de da : Nat) : State × Bool :=
  let r := (barrierAt s k).update dl de da
  let t := setBarrier s k r.1
  let t := if r.2 then
      { t with clusters := t.clusters.map fun p => (p.1, { p.2 with guards := p.2.guards.filter fun g => g.barrier != k }) }
    else t
  (if r.2 || r.1.bf then (barrierWaiters t k).foldl (fun t w => barrierWake t k w) t else t, r.2)

/-- The barrier that an instruction names (R380), once the slot's earlier stores have entered the cache (R425): its key. -/
def barrierKey (s : State) (k : Access) (va : Word) : Res Nat :=
  if va.toNat % 16 ≠ 0 then .trap s (memTrap 8 k va)
  else
    match checkWhere s s.cur k false va 16 with
    | some t => .trap s t
    | none =>
      if whereIs va = .global then .trap s (memTrap 6 k va)
      else
        let key := localKey s.myCore (whereIs va)
        let s := storesEnter s s.cur
        if s.lostIn key 16 then dataLoss s s.cur (lossSub key) va else .ok s key

/-- R379. -/
def execTbinit (g : Guard) (a : Reg) (n : BitVec 16) (s : State) : Step :=
  head s g {} fun s => (barrierKey s .write (s.getS a)).eff fun s k =>
    setBarrier s k { barrierAt s k with landed := 0, expect := 0, bf := false, arrive := n.toNat, arrinit := n.toNat }
/-- `tbarr` and `tbexp` (R380): a release at the natural scope of the barrier's memory (R358). -/
def barrierForm (s : State) (d : Reg) (va : Word) (de da : Nat) : Eff :=
  (barrierKey s .write va).eff fun s k =>
    let r := barrierUpdate s k 0 de da
    r.1.setS d (barrierStatus (barrierAt r.1 k) r.2)
/-- R380. -/
def execTbarr (g : Guard) (d a : Reg) (s : State) : Step :=
  head s g {} fun s => barrierForm s d (s.getS a) 0 1
/-- R380. -/
def execTbexp (g : Guard) (d a b : Reg) (arr : Bool) (s : State) : Step :=
  head s g {} fun s => barrierForm s d (s.getS a) ((s.getS b).toNat % 2 ^ 32) (b2n arr)
/-- R381. A slot that already waits is counted in WAIT once. -/
def execTbwait (g : Guard) (d a b : Reg) (s : State) : Step :=
  head s g {} fun s => (barrierKey s .write (s.getS a)).effThen fun s k =>
    let s := leaveBarrier s s.cur
    let bar := barrierAt s k
    let ph := (s.getS b).toNat % 16
    if bar.phase ≠ ph ∨ bar.bf then .retire (s.setS d (barrierStatus bar (bar.phase != ph))) .seq
    else .wait (setBarrier s k { bar with wait := min (bar.wait + 1) 65535 }) (.barrier k d ph)
/-- R381. -/
def execTbtest (g : Guard) (d a b : Reg) (s : State) : Step :=
  head s g {} fun s => (barrierKey s .read (s.getS a)).eff fun s k =>
    let bar := barrierAt s k
    s.setS d (barrierStatus bar (bar.phase != (s.getS b).toNat % 16))

/-- The checks of a guarded region (R382): its address and length. -/
def guardRegion (s : State) (off n : Nat) (rsv : Bool) : Option Trap :=
  let va := wordN off
  let bad7 := some (memTrap 7 .read va)
  if rsv then bad7
  else if n = 0 then none
  else
    match localWhere off with
    | .tcm o => if 0x10000 - o < n then bad7 else none
    | .ws o => if 0x200000 - o < n then bad7 else if wsHeldAt s s.myCl o n then some (memTrap 6 .read va) else none
    | .csp o => if 0x800000 - o < n then bad7 else if inOneAlloc s s.myCl o n then none else some (memTrap 6 .read va)
    | _ => bad7

/-- R382. -/
def execTbguard (g : Guard) (d a b : Reg) (s : State) : Step :=
  head s g {} fun s => (barrierKey s .write (s.getS a)).effThen fun s k =>
    let v := (s.getS b).toNat
    let off := v % 2 ^ 24
    let n := v / 2 ^ 24 % 2 ^ 24
    match guardRegion s off n (v / 2 ^ 48 != 0) with
    | some t => .trap s t
    | none =>
      let c := s.cluster s.myCl
      if n = 0 then
        let keep := c.guards.filter fun e => e.barrier != k
        .retire ((s.setCluster s.myCl { c with guards := keep }).setS d (wordN (c.guards.length - keep.length))) .seq
      else if 16 ≤ c.guards.length then .retire (s.setS d 1) .seq
      else
        .retire ((s.setCluster s.myCl { c with
          guards := c.guards ++ [⟨localKey s.myCore (localWhere off), n, k, (barrierAt s k).phase⟩] }).setS d 0) .seq

/-! ## cfree (R378) -/

/-- R378. -/
def execCfree (g : Guard) (a : Reg) (place : Place) (s : State) : Step :=
  head s g {} fun s =>
    match placeCore s.myCore place with
    | none => .trap s (trapI 9 0 place.toNat)
    | some dst =>
      let v := (s.getS a).toNat
      if v / 2 ^ 16 ≠ 0 then .trap s (trapI 20 0 0)
      else if v % 256 = 0 then .retire s .seq
      else .retire (send s (.cfree dst s.myLaunch s.ctx (v / 256) (v % 256))) .seq

/-- The status with which a core refuses a message of a launch (Table 14.4): 1 unit absent, 3 no such launch. -/
def coreStatus (s : State) (core launch : Nat) : Nat :=
  if !clusterOn s (core / 16) then 1
  else if (s.cluster (core / 16)).launch ≠ some launch then 3
  else 0

/-- Takes message `n` off the mesh. -/
def unsend (s : State) (n : Nat) : State := { s with net := tdel s.net n }

/-- Message `n` on the mesh. -/
def flight? (s : State) (n : Nat) : Option Flight := (s.net.find? fun p => p.1 == n).map (·.2)

/-- The launch that a message in flight belongs to. -/
def Flight.launch : Flight → Nat
  | .user _ _ u _ _ _ => u
  | .back _ u _ => u
  | .ack _ u => u
  | .engine _ u _ _ _ _ => u
  | .start _ u _ => u
  | .store _ _ u _ _ _ _ => u
  | .storeAck _ u _ => u
  | .storeRefused _ u _ _ => u
  | .late _ _ _ _ _ => 0
  | .load _ _ u _ _ _ => u
  | .loadReply _ u _ _ => u
  | .credit _ u _ => u
  | .cfree _ u _ _ _ => u

/-- The core at which a message arrives; none for the refusal of a posted store, which comes to the error record where its core is torn down (R396). -/
def Flight.target : Flight → Option Nat
  | .user _ dst _ _ _ _ => some dst
  | .back slot _ _ => some (coreOf slot)
  | .ack slot _ => some (coreOf slot)
  | .engine dst _ _ _ _ _ => some dst
  | .start dst _ _ => some dst
  | .store _ dst _ _ _ _ _ => some dst
  | .storeAck src _ _ => some src
  | .storeRefused _ _ _ _ => none
  | .late _ _ _ _ _ => none
  | .load _ dst _ _ _ _ => some dst
  | .loadReply slot _ _ _ => some (coreOf slot)
  | .credit dst _ _ => some dst
  | .cfree dst _ _ _ _ => some dst

/-- The teardown of the context that a core runs has reached the network interfaces: messages to the core are discarded there (Table 16.8, step 7). -/
def tornCore (s : State) (core : Nat) : Bool := (s.launchAt (core / 16)).any fun l => s.tear.any fun p => p.1 == l.ctx && decide (7 ≤ p.2)

/-- The message `sel`, unless it is held for a launch that is switched out (R455) or comes to a core that is torn down. -/
def arriving (s : State) : Option Flight := (flight? s s.sel).filter fun m => !launchOut s m.launch && !m.target.any (tornCore s)

/-- A message of a save area (R455): one of an engine or of the queue manager. -/
def Flight.saved : Flight → Bool
  | .engine _ _ _ _ _ _ => true
  | .start _ _ _ => true
  | _ => false

/-- The message `sel` of an engine or of the queue manager for a launch that is switched out is diverted into its save area (R455), and one to a core that is torn down is
discarded (Table 16.8). -/
def notArriving (s : State) : State :=
  match flight? s s.sel with
  | none => s
  | some m =>
    if m.target.any (tornCore s) then unsend s s.sel
    else if m.saved && launchOut s m.launch then
      { unsend s s.sel with qm := { s.qm with saved := s.qm.saved.map fun p =>
        if p.1 = m.launch then (p.1, { p.2 with held := p.2.held ++ [m] }) else p } }
    else s

/-- R378, R506: the `cfree` message `sel` reaches its tile. -/
def execCfreeArrival (s : State) : Step :=
  match arriving s with
  | some (.cfree dst launch ctx sem inc) =>
    let s := unsend s s.sel
    match coreStatus s dst launch with
    | 0 => .next (semSignal s (dst / 2) sem inc)
    | st => .next (errorEntry s ctx 13 st 0 (placeId s (4 * dst)) (wordN (256 * sem + inc)))
  | some _ => .next s
  | none => .next (notArriving s)

/-! ## Conversions (R42, R360, R361) -/

/-- ssize and dsize of a conversion code (Table 13.6). -/
def convSizes : Nat → Nat × Nat
  | 1 | 2 => (4, 2)
  | 3 | 4 => (2, 4)
  | 5 => (4, 1)
  | 6 => (1, 4)
  | 7 | 8 => (1, 2)
  | 9 => (1, 4)
  | _ => (1, 1)

/-- Destination bytes of a source length (R360). -/
def convOut (conv n : Nat) : Nat := n * (convSizes conv).2 / (convSizes conv).1

/-- Flags of a copy operation: NV, OF, SAT in bits 0 to 2 (Table 13.11). -/
def copyNV : BitVec 3 := 1
/-- OF. -/
def copyOF : BitVec 3 := 2
/-- SAT. -/
def copySAT : BitVec 3 := 4

/-- An integer as a value. -/
def intVal (i : Int) : FVal := .fin (decide (i < 0)) i.natAbs 0

/-- A product rounded to a floating-point destination (R42). -/
def copyFloat (f : FloatTy) : Option FVal → Nat × BitVec 3
  | none | some (.nan _) => (FloatTy.nanBits f, copyNV)
  | some (.inf n) => (FloatTy.signBit f n + FloatTy.infBits f, 0)
  | some (.fin n m e) =>
    let r := roundTo f .rne n m e
    (r.1, if r.2 &&& fOF = 0 then 0 else copyOF)

/-- A product rounded to an 8-bit integer (R42, R360). -/
def copyInt8 : Option FVal → Nat × BitVec 3
  | none | some (.nan _) => (0, copyNV)
  | some (.inf n) => (if n then 128 else 127, copySAT)
  | some (.fin n m e) =>
    let i := (roundInt .rne n m e).1
    if i < -128 then (128, copySAT) else if 127 < i then (127, copySAT) else (wrapN 8 i, 0)

/-- T(x) of a table slot (R361). -/
def tableVal (t : TabSlot) (x : Nat) : FVal :=
  let v := (t.data.getD x 0).toNat
  match t.fmt with
  | 0 => fdec .bf16 v
  | 1 => fdec .f16 v
  | _ => intVal (sx 16 v)

/-- The value of a source element of a conversion, subnormal floating-point sources flushed (Table 13.6). -/
def convSource (conv : Nat) (t : TabSlot) (x : Nat) : FVal :=
  match conv with
  | 1 | 2 | 5 => fdec .f32 (fflush .f32 x)
  | 3 => fdec .bf16 (fflush .bf16 x)
  | 4 => fdec .f16 (fflush .f16 x)
  | 6 => intVal (sx 8 x)
  | _ => tableVal t x

/-- The result of a source element (Table 13.6). -/
def convElement (conv : Nat) (scale : BitVec 32) (t : TabSlot) (x : Nat) : Nat × BitVec 3 :=
  let p := mulVal (convSource conv t x) (fdec .f32 scale.toNat)
  match conv with
  | 1 | 7 => copyFloat .bf16 p
  | 2 | 8 => copyFloat .f16 p
  | 5 => copyInt8 p
  | _ => copyFloat .f32 p

/-- The bytes that a conversion makes of source bytes, and its flags. -/
def convBytes (conv : Nat) (scale : BitVec 32) (t : TabSlot) (bs : List Byte) : List Byte × BitVec 3 :=
  if conv = 0 then (bs, 0)
  else
    let z := convSizes conv
    let rs := (List.range (bs.length / z.1)).map fun i => convElement conv scale t (leAt bs (z.1 * i) z.1)
    (rs.flatMap fun r => bytesOf z.2 r.1, rs.foldl (fun f r => f ||| r.2) 0)

/-! ## The threshold unit (R57, R364) -/

/-- The sum of |w[k]| in FP32 in order, and whether an addition of finite values overflowed (R57, R364). -/
def columnSum : List Nat → Nat → Bool → Nat × Bool
  | [], acc, o => (acc, o)
  | w :: t, acc, o =>
    let r := addVal .f32 .rne (fdec .f32 acc) (fdec .bf16 (w % 2 ^ 15))
    columnSum t r.1 (o || r.2 &&& fOF != 0)

/-- An FP32 value divided by 320 and rounded (R57). -/
def over320 (n : Nat) : Nat :=
  match fdec .f32 n with
  | .fin ng m e => (roundQuot .f32 .rne ng m 320 e).1
  | .inf _ => FloatTy.infBits .f32
  | .nan _ => FloatTy.nanBits .f32

/-- The BF16 scale of a column of flushed latents, and OF. -/
def columnScale (ws : List Nat) : Nat × Bool :=
  let r := columnSum ws 0 false
  ((fcvt .f32 .bf16 .rne (over320 r.1)).1, r.2)

/-- The trits of a column of flushed latents, and NV (R364). -/
def thresholdColumn (ws : List Nat) (n scale alpha : Nat) (i0 : BitVec 32) (stoch : Option Word) : List Int × Bool :=
  let theta := mulVal (fdec .bf16 alpha) (fdec .bf16 scale)
  let zero : FVal := .fin false 0 0
  let rs := (List.range ws.length).map fun k =>
    let v := fdec .bf16 (ws.getD k 0)
    match theta with
    | none => ((0 : Int), true)
    | some th =>
      if v.isNan || th.isNan then (0, true)
      else
        match stoch with
        | none => (if ltVal th v then 1 else if ltVal v th.neg then -1 else 0, false)
        | some seed =>
          if eqVal th zero then (0, false)
          else ternStoch v th (ternDraw seed (i0 + BitVec.ofNat 32 k) (BitVec.ofNat 32 n))
  (rs.map (·.1), rs.any (·.2))

/-- The byte of five trits (R48). -/
def packTrits (ts : List Int) : Byte :=
  BitVec.ofNat 8 (ts.foldr (fun t n => (if t = 0 then 0 else if t = 1 then 1 else 2) + 3 * n) 0)

/-- The trit bytes of a column of 320 trits. -/
def packColumn (ts : List Int) : List Byte := (List.range 64).map fun i => packTrits ((ts.drop (5 * i)).take 5)

/-- The weight-tile record of columns of trits with scales and a tag (R49 to R51). -/
def formRecord (cols : List (List Int)) (scales : List Nat) (tag : Nat) : List Byte :=
  let bm := (List.range 5).foldl (fun n w => n + 2 ^ w * b2n (sparseClass cols w)) 0
  let head := bytesOf 1 1 ++ bytesOf 1 0 ++ bytesOf 2 320 ++ bytesOf 2 64 ++ bytesOf 1 bm ++ bytesOf 1 0 ++
    (List.range 5).flatMap (fun w => bytesOf 2 (windowTotal cols w)) ++ bytesOf 38 0 ++ bytesOf 4 tag
  let body := cols.flatMap packColumn ++ scales.flatMap (bytesOf 2)
  head ++ bytesOf 4 (crc32c (head ++ body)).toNat ++ body

/-- The record of a tile of latents, 320 rows of 128 bytes, and its flags (R364). -/
def thresholdRecord (rows : List (List Byte)) (tag alpha : Nat) (i0 : BitVec 32) (stoch : Option Word) : List Byte × BitVec 3 :=
  let cols := (List.range 64).map fun n =>
    let ws := rows.map fun r => fflush .bf16 (leAt r (2 * n) 2)
    let sc := columnScale ws
    (thresholdColumn ws n sc.1 alpha i0 stoch, sc)
  (formRecord (cols.map (·.1.1)) (cols.map (·.2.1)) tag,
    (if cols.any (·.1.2) then copyNV else 0) ||| (if cols.any (·.2.2) then copyOF else 0))

/-! ## Operations -/

/-- The engine that serves a cluster (R346). -/
def engineOf (cl : Nat) : Nat := 4 * dieOf cl + localIdx cl / 16

/-- Operation `id` of an engine. -/
def CopyEngine.op? (e : CopyEngine) (id : Nat) : Option CopyOp := e.ops.find? fun o => o.id == id

/-- Replaces an operation of an engine. -/
def setCopyOp (s : State) (eng : Nat) (o : CopyOp) : State :=
  let e := s.copyEng eng
  s.setCopyEng eng { e with ops := e.ops.map fun x => if x.id == o.id then o else x }

/-- The cluster of the core that issued an operation. -/
def CopyOp.cl (o : CopyOp) : Nat := clusterOf o.slot

/-- The number of targets of an operation (R373). -/
def CopyOp.targets (o : CopyOp) : Nat :=
  match o.dst with
  | .rect _ _ w h _ => w * h
  | _ => 1

/-- Destination bytes of a row. -/
def CopyOp.rowOut (o : CopyOp) : Nat :=
  match o.kind with
  | .record _ _ _ _ => 4288
  | _ => convOut o.conv o.len

/-- BLK of a slab; 0 for an operation that delivers the same bytes to every target. -/
def CopyOp.blk (o : CopyOp) : Nat :=
  match o.kind with
  | .rows b => b
  | _ => 0

/-- Chunks of a row (R350). -/
def CopyOp.perRow (o : CopyOp) : Nat := ceilDiv o.rowOut 512

/-- The chunks of an operation; a `ctab` sends none. -/
def CopyOp.chunks (o : CopyOp) : Nat :=
  match o.kind with
  | .table _ _ _ _ => 0
  | _ => (if o.blk = 0 then o.targets else o.nrows) * o.perRow

/-- The target, the row and the part of the row of a chunk (R374). -/
def CopyOp.split (o : CopyOp) (c : Nat) : Nat × Nat × Nat :=
  let r := c / o.perRow
  if o.blk = 0 then (r, 0, c % o.perRow) else (r / o.blk % o.targets, r, c % o.perRow)

/-- The offset from the destination at which row `r` lands in its target (R374). -/
def CopyOp.rowAt (o : CopyOp) (r : Nat) : Nat :=
  if o.blk = 0 then 0 else (r / o.blk / o.targets * o.blk + r % o.blk) * o.rowOut

/-- The bytes of the destination range at each target (R371, R374). -/
def CopyOp.span (o : CopyOp) : Nat :=
  if o.blk = 0 then o.rowOut else ceilDiv (ceilDiv o.nrows o.blk) o.targets * o.blk * o.rowOut

/-- Core `u` of a rectangle of cores of `w` columns from a first core, or the first core of cluster `u` of a rectangle of clusters
(R373). -/
def rectCore (unit : Bool) (first w u : Nat) : Nat :=
  if unit then 16 * (32 * (clY first + u / w) + (clX first + u % w))
  else
    let x := 4 * clX (first / 16) + first % 16 / 2 % 4 + u % w
    let y := 2 * clY (first / 16) + first % 16 / 8 + u / w
    16 * (32 * (y / 2) + x / 4) + 2 * (x % 4 + 4 * (y % 2)) + first % 2

/-- Target `u` of an operation as a core; the issuing core for its own aperture and for global memory. -/
def CopyOp.target (o : CopyOp) (u : Nat) : Nat :=
  match o.dst with
  | .rect unit first w _ _ => rectCore unit first w u
  | .ring core _ => core
  | _ => coreOf o.slot

/-- A target has met a condition. -/
def CopyOp.stopped (o : CopyOp) (u : Nat) : Bool := o.halted || o.conds.any fun c => c.2.1 == u

/-- The chunks that have not landed and are still to be sent (R353). -/
def CopyOp.pending (o : CopyOp) : List Nat :=
  (List.range o.chunks).filter fun c => !o.stopped (o.split c).1 && !o.landed.contains c

/-- The ranges of memory that an operation reads: rows of `len` bytes at a stride. -/
def CopyOp.ranges (o : CopyOp) : List (Nat × Nat) :=
  match o.src with
  | .key k => (List.range o.nrows).map fun r => (k + r * o.stride, o.len)
  | .glob _ => []

/-- A source block has been freed since the acceptance (R178, R353). -/
def CopyOp.lostSource (o : CopyOp) : Bool :=
  o.freed.any fun f => o.ranges.any fun r => overlap r.1 r.2 f.1 f.2

/-! ## Engine reads (R349) -/

/-- What an engine finds: a value; that it has to try again, and why; or CODE 1 or 5 of Table 13.3 and the faulting address. -/
inductive EngAns (α : Type) where
  | ok (s : State) (a : α)
  | later (s : State) (w : EngWait)
  | err (s : State) (code : Nat) (va : Word)

/-- Goes on after a part that found a value. -/
def EngAns.andThen {α β : Type} (r : EngAns α) (f : State → α → EngAns β) : EngAns β :=
  match r with
  | .ok s a => f s a
  | .later s w => .later s w
  | .err s c va => .err s c va

/-- Who reads: the agent, the cluster for which it translates, context and mode, and why the read has waited so far. -/
structure Reader where
  who  : Nat
  cl   : Nat
  ctx  : Nat
  priv : Bool
  wait : EngWait

/-- What an agent waits for before it tries again: a walk, or 16 cc after a full walk queue (R330). -/
def EngWait.awaits (w : EngWait) (cc : Nat) : Bool :=
  match w with
  | .walk => true
  | .full due => decide (cc < due)
  | _ => false

/-- The local-aperture address of a memory key. -/
def keyAddr (k : Nat) : Word :=
  if k < 2 ^ 53 then wordN (k % 2 ^ 16)
  else if k < 2 ^ 54 then wordN (0x200000 + k % 2 ^ 21)
  else wordN (0x800000 + k % 2 ^ 23)

/-- Pieces (offset, length) of a range of `n` bytes from an address, each within a line. -/
def linePieces (va : Nat) : Nat → Nat → Nat → List (Nat × Nat)
  | 0, _, _ => []
  | fuel + 1, o, n =>
    if n ≤ o then []
    else
      let c := min (512 - (va + o) % 512) (n - o)
      (o, c) :: linePieces va fuel (o + c) n

/-- The lines that a range touches, as pieces. -/
def piecesOf (va : Word) (n : Nat) : List (Nat × Nat) := linePieces va.toNat (n / 512 + 2) 0 n

/-- Translates an address for an engine (R353): a physical address that reaches no memory counts as a translation fault, CODE 1; a table line that is lost
to an error as a data loss, CODE 5 (R310). -/
def engXlate (s : State) (r : Reader) (k : Access) (va : Word) : EngAns (Nat × Nat) :=
  let res := match r.wait with
    | .walked page cause => some (page, cause)
    | _ => none
  match xlateFor s r.cl r.ctx r.who r.priv k va res with
  | (s, .ok pa key) => if storable s pa then .ok s (pa, key) else .err s 1 va
  | (s, .fault c) => .err s (if c = 26 then 5 else 1) va
  | (s, .later w) => .later s w

/-- Another module answers the read of an engine, or it is awaited for 1 ms of the time base (R399). -/
def engGate (s : State) (r : Reader) (pa : Nat) (va : Word) : EngAns Unit :=
  let q := remoteGate s [pa]
  if q.2 then .ok q.1 ()
  else
    match r.wait with
    | .reply a due =>
      if a ≠ va then .later q.1 (.reply va (s.tb + 1000000)) else if due ≤ s.tb then .err q.1 5 va else .later q.1 (.reply va due)
    | _ => .later q.1 (.reply va (s.tb + 1000000))

/-- Reads bytes within a line at their home for an engine (R349, R399). -/
def engReadHome (s : State) (r : Reader) (pa key n : Nat) (va : Word) : EngAns (List Byte) :=
  (engGate s r pa va).andThen fun s _ =>
    match homeRead s r.who pa key n with
    | (s, .bytes bs) => .ok s bs
    | (s, .lost) => .err s 5 va
    | (s, .later) => .later s .none

/-- How an agent translates an address. -/
abbrev Translator := State → Reader → Access → Word → EngAns (Nat × Nat)

/-- Reads pieces of a global range at their home slices for an agent (R349). -/
def readPieces (x : Translator) (s : State) (r : Reader) (va : Word) : List (Nat × Nat) → List Byte → EngAns (List Byte)
  | [], acc => .ok s acc
  | (o, n) :: t, acc =>
    (x s r .read (va + wordN o)).andThen fun s p =>
      (engReadHome s r p.1 p.2 n (va + wordN o)).andThen fun s bs => readPieces x s r va t (acc ++ bs)

/-- Reads `n` bytes of a source from an offset; a read of a guarded region parks (R359). -/
def engRead (s : State) (r : Reader) (src : CopySrc) (off n : Nat) : EngAns (List Byte) :=
  match src with
  | .key k =>
    if engParks s r.cl r.wait (k + off) n then .later (engParked s r.wait (k + off) n).1 (engParked s r.wait (k + off) n).2
    else if s.lostIn (k + off) n then .err s 5 (keyAddr (k + off))
    else .ok s (s.read (k + off) n)
  | .glob va => readPieces engXlate s r (va + wordN off) (piecesOf (va + wordN off) n) []

/-- Reads rows of `n` bytes at a stride. -/
def engReadRows (s : State) (r : Reader) (src : CopySrc) (stride n : Nat) : Nat → Nat → List Byte → EngAns (List Byte)
  | 0, _, acc => .ok s acc
  | k + 1, off, acc => (engRead s r src off n).andThen fun s bs => engReadRows s r src stride n k (off + stride) (acc ++ bs)

/-- The wait of the read of an operation that has parked under a key, or of the operation. -/
def CopyOp.waitAt (o : CopyOp) (key : Nat) : EngWait :=
  match o.parked.find? fun p => p.2.1 == key with
  | some p => .parked p.1 p.2.1 p.2.2
  | none => o.wait

/-- An operation whose read under a key waits: a parked read keeps its age beside those that have parked before it. -/
def CopyOp.waiting (o : CopyOp) (w : EngWait) : CopyOp :=
  match w with
  | .parked a k n => { o with wait := .none, parked := o.parked.filter (fun p => p.2.1 != k) ++ [(a, k, n)] }
  | w => { o with wait := w }

/-- The read of an operation under a key is over. -/
def CopyOp.went (o : CopyOp) (key : Nat) : CopyOp := { o with wait := .none, parked := o.parked.filter fun p => p.2.1 != key }

/-- An operation of a copy engine as a reader (R346). -/
def CopyOp.reader (o : CopyOp) (key : Nat) : Reader := ⟨whoOp o.id, o.cl, o.ctx, o.priv, o.waitAt key⟩

/-! ## Issue checks (R371) -/

/-- The address check of a copy range (R371 check 2): it touches a hole or leaves its memory, or its bytes lie in two classes (R323). -/
def copyAddress (k : Access) (va : Word) (n : Nat) : Option Trap :=
  if touchesHole va (max n 1) || splitsClass va (max n 1) then some (memTrap 7 k va) else none

/-- The memory of the local aperture, or the class, that an address lies in. -/
def memoryOf (va : Word) : Nat :=
  match whereIs va with
  | .tcm _ => 0
  | .ws _ => 1
  | .csp _ => 2
  | .neigh _ _ => 3
  | .window _ _ => 4
  | _ => 5

/-- The address check of the rows of a source (R371 check 2): a row may not leave the memory of the first one. -/
def rowsAddress (starts : List Word) (n : Nat) : Option Trap :=
  match starts with
  | [] => none
  | a :: _ => starts.findSome? fun x => if memoryOf x = memoryOf a then copyAddress .read x n else some (memTrap 7 .read x)

/-- The place check of a range that starts in the neighbour aperture (R152). -/
def placeCheck (s : State) (va : Word) : Option Trap :=
  match whereIs va with
  | .neigh p _ => if (placeCore s.myCore p).isNone then some (trapI 9 0 p.toNat) else none
  | _ => none

/-- The access check of a copy range (R354, R338, R153). -/
def copyAccess (s : State) (k : Access) (va : Word) (n : Nat) : Option Trap :=
  let bad := some (memTrap 6 k va)
  match whereIs va with
  | .neigh _ _ => bad
  | .window _ _ => bad
  | .ws off => if wsHeldAt s s.myCl off n then bad else none
  | .csp off => if cspSpan s s.myCl off n then none else bad
  | _ => none

/-- The address check of a destination offset in the region layout of every target (R371 check 2). -/
def offsetAddress (va : Word) (n : Nat) (ok : Where → Bool) : Option Trap :=
  if va.toNat < 2 ^ 24 ∧ ok (localWhere va.toNat) then copyAddress .write va n else some (memTrap 7 .write va)

/-- A rectangle lies in the grid (R371 check 3). -/
def rectFits (unit : Bool) (first w h : Nat) : Bool :=
  if unit then decide (clX first + w ≤ 32) && decide (clY first + h ≤ 32)
  else decide (4 * clX (first / 16) + first % 16 / 2 % 4 + w ≤ 128) && decide (2 * clY (first / 16) + first % 16 / 8 + h ≤ 64)

/-- The first target that a place names: a core, or a cluster. -/
def rectFirst (s : State) (unit : Bool) (place : Place) : Option Nat :=
  if unit then placeCluster s.myCl place else placeCore s.myCore place

/-- The place check of a rectangle. -/
def rectPlace (s : State) (unit : Bool) (place : Place) (w h : Nat) : Option Trap :=
  match rectFirst s unit place with
  | some f => if rectFits unit f (max w 1) (max h 1) then none else some (trapI 9 0 place.toNat)
  | none => some (trapI 9 0 place.toNat)

/-- The copy-operand trap (R371 check 5). -/
def operandTrap (ok : Bool) : Option Trap := if ok then none else some (trapI 20 0 0)

/-- Alignment of an address of a copy (R371 check 1). -/
def copyAlign (k : Access) (va : Word) (n : Nat) : Option Trap := if va.toNat % n = 0 then none else some (memTrap 8 k va)

/-- Alignment of CBAR.OFF where the form names the barrier. -/
def cbarAlign (s : State) (used : Bool) : Option Trap := if used then copyAlign .write (s.sl.cbar.setWidth 64) 16 else none

/-- W and H within the limits of Table 13.13. -/
def rectSize (unit : Bool) (w h : Nat) : Bool :=
  decide (1 ≤ w) && decide (1 ≤ h) && (if unit then decide (w ≤ 32) && decide (h ≤ 32) else decide (w ≤ 128) && decide (h ≤ 64))

/-- LEN and out within the limits of Table 13.13. -/
def lengthOk (conv n : Nat) : Bool :=
  decide (8 ≤ n) && decide (n ≤ 16777208) && n % 8 == 0 && convOut conv n % 8 == 0 && convOut conv n * (convSizes conv).1 == n * (convSizes conv).2

/-! ## Acceptance (R347) -/

/-- The source of a copy at an address. -/
def sourceAt (s : State) (va : Word) : CopySrc :=
  match whereIs va with
  | .global => .glob va
  | w => .key (localKey s.myCore w)

/-- An operation of the executing slot that has not been accepted yet. -/
def newCopy (s : State) (maj min : Nat) (kind : CopyKind) (src : CopySrc) (len : Nat) (dst : CopyDst) (eng : Eng) : CopyOp where
  id := 0
  seq := 0
  maj := maj
  min := min
  slot := s.cur
  launch := s.myLaunch
  ctx := s.ctx
  priv := s.sl.priv
  kind := kind
  src := src
  len := len
  stride := 0
  nrows := 1
  conv := 0
  tslot := 0
  scale := 0x3F800000
  dst := dst
  tb := false
  arr := false
  bar := s.sl.cbar.toNat
  note := 0
  eng := eng
  data := none
  cache := []
  table := none
  started := false
  age := 0
  ring := none
  landed := []
  conds := []
  halted := false
  flags := 0
  freed := []
  dests := []
  credits := []
  wait := .none
  parked := []

/-- The inbox of the engine of the executing slot is full (R347). -/
def inboxFull (s : State) : Bool :=
  decide (32 ≤ (s.copyEng (engineOf s.myCl)).ops.countP fun o => !o.started)

/-- Step 5 of R347 for an operation of the executing slot: the slot blocks while the inbox or the source table is full. -/
def acceptCopy (s : State) (o : CopyOp) (held : Bool) : State × Bool :=
  let c := s.cluster s.myCl
  let held := held && o.ranges != []
  if inboxFull s || (held && decide (32 ≤ c.sources.length)) then (s, false)
  else
    let s := s.older
    let k := s.core s.myCore
    let e := s.copyEng (engineOf s.myCl)
    let o := { o with id := s.age, seq := k.cseq }
    let s := s.setCopyEng (engineOf s.myCl) { e with ops := e.ops ++ [o] }
    let s := s.setCore s.myCore { k with cseq := k.cseq + 1 }
    (if held then s.setCluster s.myCl { c with sources := c.sources ++ [⟨o.ranges, o.id⟩] } else s, true)

/-- The executing slot as the reader of a snapshot (R355). -/
def snapReader (s : State) : Reader :=
  ⟨whoSlot s.cur, s.myCl, s.ctx, s.sl.priv, match s.sl.wait, s.sl.reply, s.sl.walkRes with
    | .parked a k n _, _, _ => .parked a k n
    | _, some q, _ => .reply q.1 q.2
    | _, none, some r => .walked r.1 r.2
    | _, none, none => .none⟩

/-- The slot waits as its reader does. -/
def snapWaits (s : State) (w : EngWait) : Eff :=
  match w with
  | .parked a k n => .wait s (.parked a k n 0)
  | .reply va due => .wait (s.setSl { s.sl with reply := some (va, due) }) .poll
  | .none => .wait s .poll
  | w => .wait s w.slotWait

/-- Acceptance of a copy form that retires (R347), which sees the stores that its core has issued (R349); SNAP reads the whole source first (R355). -/
def submitCopy (s : State) (o : CopyOp) (snap : Bool) : Eff :=
  let s := coreStores s s.myCore
  let accepts := fun (s : State) (o : CopyOp) (held : Bool) =>
    if (acceptCopy s o held).2 then Eff.retire (acceptCopy s o held).1 .seq else .wait s .poll
  if inboxFull s then .wait s .poll
  else if snap then
    match engReadRows s (snapReader s) o.src o.stride o.len o.nrows 0 [] with
    | .later s w => snapWaits s w
    | .err s c va => accepts s (o.meet c 0 va true) false
    | .ok s bs => accepts s { o with data := some bs } false
  else accepts s o true

/-- A copy head with parcels; the engine performs its signal. -/
def chead (s : State) (g : Guard) (eng : Eng) (body : State → Eff) : Step :=
  head s g { eng := some eng, sig := false } body

/-- Checks, then acceptance. -/
def checkedCopy (s : State) (checks : List (Option Trap)) (o : CopyOp) (snap : Bool) : Eff :=
  match firstTrap checks with
  | some t => .trap s t
  | none => submitCopy s o snap

/-- R372. -/
def execCpush (g : Guard) (d a b : Reg) (place : Place) (opt : CopyOpt) (glb ring : Bool) (eng : Eng) (s : State) : Step :=
  chead s g eng fun s =>
    let src := s.getS a
    let dst := s.getS d
    let v := (s.getS b).toNat
    let conv := opt.conv.toNat
    let n := v % 2 ^ 24
    let out := convOut conv n
    let dstAddr :=
      if glb then
        (match whereIs dst with
          | .global => copyAddress .write dst out
          | .window _ _ => copyAddress .write dst out
          | _ => some (memTrap 7 .write dst))
      else if ring then offsetAddress dst 128 fun w => match w with | .csp _ => true | _ => false
      else offsetAddress dst out fun _ => true
    let checks := [copyAlign .read src 8, copyAlign .write dst 8, cbarAlign s (opt.tb || opt.arr),
      copyAddress .read src n, dstAddr, placeCheck s src,
      if glb then none else rectPlace s false place 1 1,
      copyAccess s .read src n, if glb then copyAccess s .write dst out else none,
      operandTrap (v / 2 ^ 24 == 0 && lengthOk conv n && (!opt.snap || decide (n ≤ 65536)))]
    let core := (placeCore s.myCore place).getD 0
    let dest := if glb then CopyDst.glob dst else if ring then .ring core dst.toNat else .rect false core 1 1 dst.toNat
    let o := newCopy s 49 0 (.rows 0) (sourceAt s src) n dest eng
    checkedCopy s checks { o with conv := conv, tb := opt.tb, arr := opt.arr, note := opt.note.toNat } opt.snap
/-- R373. -/
def execCmcast (g : Guard) (d a b : Reg) (place : Place) (opt : CopyOpt) (unit : Bool) (eng : Eng) (s : State) : Step :=
  chead s g eng fun s =>
    let src := s.getS a
    let dst := s.getS d
    let v := (s.getS b).toNat
    let conv := opt.conv.toNat
    let n := v % 2 ^ 24
    let w := v / 2 ^ 32 % 256
    let h := v / 2 ^ 40 % 256
    let out := convOut conv n
    let checks := [copyAlign .read src 8, copyAlign .write dst 8, cbarAlign s (opt.tb || opt.arr),
      copyAddress .read src n, offsetAddress dst out (fun x => !unit || (match x with | .csp _ => true | _ => false)),
      placeCheck s src, rectPlace s unit place w h, copyAccess s .read src n,
      operandTrap (v / 2 ^ 24 % 256 == 0 && v / 2 ^ 48 == 0 && rectSize unit w h && lengthOk conv n && (!opt.snap || decide (n ≤ 65536)))]
    let o := newCopy s 49 2 (.rows 0) (sourceAt s src) n (.rect unit ((rectFirst s unit place).getD 0) w h dst.toNat) eng
    checkedCopy s checks { o with conv := conv, tb := opt.tb, arr := opt.arr, note := opt.note.toNat } opt.snap
/-- R374. -/
def execCslab (g : Guard) (d a b g1 g2 : Reg) (place : Place) (opt : CopyOpt) (unit : Bool) (eng : Eng) (s : State) : Step :=
  chead s g eng fun s =>
    let src := s.getS a
    let dst := s.getS d
    let stride := (s.getS b).toNat
    let v1 := (s.getS g1).toNat
    let v2 := (s.getS g2).toNat
    let conv := opt.conv.toNat
    let w := v1 % 2 ^ 16
    let h := v1 / 2 ^ 16 % 2 ^ 16
    let blk := v1 / 2 ^ 32 % 2 ^ 16
    let n := v2 % 2 ^ 32
    let rows := v2 / 2 ^ 32
    let out := convOut conv n
    let span := ceilDiv (ceilDiv rows (max blk 1)) (max (w * h) 1) * blk * out
    let starts := (List.range rows).map fun r => src + wordN (r * stride)
    let checks := [copyAlign .read src 8, copyAlign .write dst 8, cbarAlign s (opt.tb || opt.arr),
      rowsAddress starts n,
      offsetAddress dst span (fun x => !unit || (match x with | .csp _ => true | _ => false)),
      starts.findSome? (placeCheck s), rectPlace s unit place w h, starts.findSome? (fun a => copyAccess s .read a n),
      operandTrap (stride % 8 == 0 && decide (n ≤ stride) && decide (stride < 2 ^ 32) && v1 / 2 ^ 48 == 0 && decide (1 ≤ blk) &&
        rectSize unit w h && decide (8 ≤ n) && decide (n ≤ 65536) && n % 8 == 0 && out % 8 == 0 &&
        out * (convSizes conv).1 == n * (convSizes conv).2 && decide (1 ≤ rows) && decide (rows ≤ 2 ^ 20) &&
        (!opt.snap || decide (rows * n ≤ 65536)))]
    let o := newCopy s 49 1 (.rows blk) (sourceAt s src) n (.rect unit ((rectFirst s unit place).getD 0) w h dst.toNat) eng
    checkedCopy s checks { o with conv := conv, stride := stride, nrows := rows, tb := opt.tb, arr := opt.arr, note := opt.note.toNat } opt.snap
/-- R375. -/
def execCthr (g : Guard) (d a b gr pr seed : Reg) (tb arr : Bool) (note : BitVec 2) (stoch : Bool) (eng : Eng) (s : State) : Step :=
  chead s g eng fun s =>
    let src := s.getS a
    let dst := s.getS d
    let stride := (s.getS b).toNat
    let v := (s.getS gr).toNat
    let p := (s.getS pr).toNat
    let w := v % 256
    let h := v / 256 % 256
    let starts := (List.range 320).map fun r => src + wordN (r * stride)
    let whr := whereIs dst
    let inWs := fun x => match x with | Where.ws _ => true | _ => false
    let dstAddr := match whr with
      | .neigh _ off => if (offsetAddress (wordN off) 4288 inWs).isSome then some (memTrap 7 .write dst) else none
      | .tcm _ => some (memTrap 7 .write dst)
      | .csp _ => some (memTrap 7 .write dst)
      | _ => copyAddress .write dst 4288
    let rectp := match whr with
      | .neigh q _ => rectPlace s false q w h
      | _ => none
    let acc := match whr with
      | .neigh _ _ => none
      | _ => copyAccess s .write dst 4288
    let sizes := match whr with
      | .neigh _ _ => decide (1 ≤ w) && decide (1 ≤ h)
      | _ => w == 0 && h == 0
    let checks := [copyAlign .read src 8, copyAlign .write dst 64, cbarAlign s (tb || arr),
      rowsAddress starts 128, dstAddr, starts.findSome? (placeCheck s), rectp,
      starts.findSome? (fun a => copyAccess s .read a 128), acc,
      operandTrap (stride % 8 == 0 && decide (128 ≤ stride) && decide (stride < 2 ^ 32) && v / 2 ^ 16 % 2 ^ 16 == 0 && sizes &&
        p / 2 ^ 16 % 2 ^ 16 == 0 && p / 2 ^ 15 % 2 == 0 && p / 2 ^ 7 % 2 ^ 8 != 255)]
    let dest := match whr with
      | .neigh q off => CopyDst.rect false ((placeCore s.myCore q).getD 0) w h off
      | .global => .glob dst
      | x => .own (localKey s.myCore x)
    let kind := CopyKind.record (v / 2 ^ 32) (p % 2 ^ 16) (BitVec.ofNat 32 (p / 2 ^ 32)) (if stoch then some (s.getS seed) else none)
    let o := newCopy s 49 3 kind (sourceAt s src) 128 dest eng
    checkedCopy s checks { o with stride := stride, nrows := 320, tb := tb, arr := arr, note := note.toNat } false
/-- R376. -/
def execCconv (g : Guard) (d a b : Reg) (conv tslot : BitVec 4) (note : BitVec 2) (eng : Eng) (s : State) : Step :=
  chead s g eng fun s =>
    let src := s.getS a
    let dst := s.getS d
    let v := (s.getS b).toNat
    let n := v % 2 ^ 32
    let out := convOut conv.toNat n
    let checks := [copyAlign .read src 8, copyAlign .write dst 8, copyAddress .read src n, copyAddress .write dst out,
      placeCheck s src, placeCheck s dst, copyAccess s .read src n, copyAccess s .write dst out, operandTrap (lengthOk conv.toNat n)]
    let dest := match whereIs dst with
      | .global => CopyDst.glob dst
      | x => .own (localKey s.myCore x)
    let o := newCopy s 50 0 (.rows 0) (sourceAt s src) n dest eng
    checkedCopy s checks { o with conv := conv.toNat, tslot := tslot.toNat, scale := BitVec.ofNat 32 (v / 2 ^ 32), note := note.toNat } false

/-- Translates the 64-byte blocks of a table at issue (R377). -/
def tableBlocks (s : State) (va : Word) : Nat → List (Nat × Nat) → Res (List (Nat × Nat))
  | 0, acc => .ok s acc
  | n + 1, acc =>
    let a := va + wordN (64 * acc.length)
    (xlate s s.cur .read a).andThen fun s r =>
      match globLoc s s.cur .read a false r.1 r.2 with
      | .ok _ => tableBlocks s va n (acc ++ [r])
      | .error t => .trap s t
/-- R377. -/
def execCtab (g : Guard) (d a : Reg) (tslot : BitVec 4) (tfmt : BitVec 2) (s : State) : Step :=
  head s g {} fun s =>
    let va := s.getS a
    match firstTrap [copyAlign .read va 64, copyAddress .read va 512, placeCheck s va, copyAccess s .read va 512] with
    | some t => .trap s t
    | none =>
      let go := fun (s : State) (blocks : List (Nat × Nat)) =>
        let s := coreStores s s.myCore
        let o := newCopy s 50 1 (.table tslot.toNat tfmt.toNat blocks d) (sourceAt s va) 512 (.own 0) ⟨0, 0, 0, 0⟩
        let r := acceptCopy s o true
        if r.2 then Eff.wait r.1 .table else .wait s .poll
      if whereIs va = .global then (tableBlocks s va 8 []).effThen go else go s []

/-! ## Events -/

/-- The table slot that an operation uses. -/
def CopyOp.usesTable (o : CopyOp) (t : Nat) : Bool :=
  match o.kind with
  | .table x _ _ _ => x == t
  | _ => decide (7 ≤ o.conv) && o.tslot == t

/-- The next operation of an engine to start (R348): in acceptance order, fewer than four in progress, and a `ctab` after every
earlier operation that uses its slot. -/
def copyNext (s : State) (e : CopyEngine) : Option CopyOp :=
  if 4 ≤ e.ops.countP (·.started) then none
  else
    match e.ops.find? fun o => !o.started && !opHalted s o.ctx o.launch with
    | none => none
    | some o =>
      match o.kind with
      | .table x _ _ _ => if (e.ops.takeWhile fun p => p.id != o.id).any fun p => p.usesTable x then none else some o
      | _ => some o

/-- R348: the operation starts with the table slot as it stands (R362). -/
def execCopyOperationStart (engine : Nat) (s : State) : Step :=
  let e := s.copyEng engine
  match copyNext s e with
  | none => .next s
  | some o =>
    let s := s.older
    let o := { o with started := true, age := s.age }
    if 7 ≤ o.conv then
      match e.tabs.find? fun t => t.1 == o.tslot with
      | some (_, t) =>
        if t.owner = o.ctx then .next (setCopyOp s engine { o with table := some (some t) })
        else .next (setCopyOp s engine (o.meet 6 0 0 true))
      | none => .next (setCopyOp s engine (o.meet 6 0 0 true))
    else .next (setCopyOp s engine o)

/-- Whether a range at a local offset of a core's surroundings belongs to the launch that runs there (Table 13.3, R153): every TCM byte, every
WS byte that no switched-out launch holds, and the blocks of one CSP allocation. -/
def inAllocation (s : State) (core off n : Nat) : Bool :=
  let cl := core / 16
  match localWhere off, s.launchAt cl with
  | .tcm o, some _ => decide (o + n ≤ 0x10000)
  | .ws o, some _ => decide (o + n ≤ 0x200000) && !wsHeldAt s cl o n
  | .csp o, some _ => inOneAlloc s cl o n
  | _, _ => false

/-- The local offset of the destination range at every target, where it has one. -/
def CopyOp.offset (o : CopyOp) : Option Nat :=
  match o.dst with
  | .own k => some (keyAddr k).toNat
  | .rect _ _ _ _ off => some off
  | .ring _ off => some off
  | .glob _ => none

/-- The key of the barrier of target `u`. -/
def CopyOp.barKey (o : CopyOp) (u : Nat) : Nat := localKey (o.target u) (localWhere o.bar)

/-- The condition that target `u` meets before a landing, a credit or a publication (Table 13.3, R178), 0 for none. -/
def targetCode (s : State) (o : CopyOp) (u : Nat) : Nat :=
  let core := o.target u
  let unit := match o.dst with | .rect x _ _ _ _ => x | _ => false
  let freed := fun k n => o.freed.any fun f => overlap k n f.1 f.2
  let barBad := (o.tb || o.arr) &&
    (!inAllocation s core o.bar 16 || freed (o.barKey u) 16 || (unit && !(match localWhere o.bar with | .csp _ => true | _ => false)))
  if !clusterOn s (core / 16) then 3
  else if (s.cluster (core / 16)).launch ≠ some o.launch then 2
  else if barBad then 2
  else
    match o.dst, o.offset with
    | .ring _ off, _ =>
      let r := ringAt s (localKey core (localWhere off))
      let slots := o.ring.elim [] fun k => (List.range (ceilDiv o.rowOut r.sz)).map fun i => r.base + (k + i) % r.nslot * r.sz
      if inAllocation s core off 128 && !freed (localKey core (localWhere off)) 128 &&
        slots.all fun a => inAllocation s core a r.sz && !freed (localKey core (localWhere a)) r.sz then 0 else 2
    | _, some off =>
      if !inAllocation s core off o.span then 2
      else if freed (localKey core (localWhere off)) o.span then 2
      else 0
    | _, none => 0

/-- Writes bytes of an operation of an engine within a line at their home (R398, R399); the result is lost where the request meets an uncorrectable
error (R310). -/
def engPut (s : State) (who ctx : Nat) (va : Word) (pa key : Nat) (bs : List Byte) : State × L2Ans :=
  homePut s who ctx (pa / 512) key va ((List.range bs.length).map fun i => (pa % 512 + i, bs.getD i 0))

/-- Translates the pieces of a global destination: offset, length, physical address and KEYID of each. -/
def placePieces (x : Translator) (s : State) (r : Reader) (va : Word) : List (Nat × Nat) → EngAns (List (Nat × Nat × Nat × Nat))
  | [] => .ok s []
  | (off, n) :: t =>
    (x s r .write (va + wordN off)).andThen fun s p => (placePieces x s r va t).andThen fun s l => .ok s ((off, n, p) :: l)

/-- Writes pieces at their home slices: the ranges written, and the address of one that meets an uncorrectable error. -/
def engPuts (s : State) (who ctx : Nat) (va : Word) (bs : List Byte) : List (Nat × Nat × Nat × Nat) → State × List (Nat × Nat) × Option Word
  | [] => (s, [], none)
  | (off, n, pa, key) :: t =>
    let p := engPut s who ctx (va + wordN off) pa key (sliceB bs off n)
    let q := engPuts p.1 who ctx va bs t
    (q.1, (pa, n) :: q.2.1, if p.2 = .lost then some (va + wordN off) else q.2.2)

/-- An operation of an engine has a write that is not performed, or not acknowledged by another module. -/
def engPending (s : State) (id : Nat) : Bool := writesPending s (whoOp id) || awayPending s (whoOp id)

/-- Writes bytes of a copy to the slots of a ring from the first acquired one, wrapping at NSLOT (R372). -/
def ringWrite (s : State) (core : Nat) (r : Ring) (k off : Nat) (bs : List Byte) : State :=
  (List.range bs.length).foldl (fun s i =>
    s.write (localKey core (localWhere r.base) + (k * r.sz + off + i) % (r.nslot * r.sz)) [bs.getD i 0]) s

/-- The credit and the arrival of a landing of `n` bytes at target `u` (R351, R357, R372): whether the barrier has faulted. -/
def landCredit (s : State) (o : CopyOp) (u n : Nat) (last : Bool) : State × Bool :=
  let k := o.barKey u
  let s := if o.tb && n ≠ 0 then (barrierUpdate s k n 0 0).1 else s
  let s := if o.arr && last then (barrierUpdate s k 0 0 1).1 else s
  (s, (o.tb || (o.arr && last)) && (barrierAt s k).bf)

/-- A landing of `n` bytes at target `u` has been written, the last one there or not: it is credited, or later where writes of the operation are not performed
yet (R358). -/
def chunkCredited (s : State) (eng : Nat) (o : CopyOp) (u n : Nat) (last : Bool) : State :=
  if o.credits ≠ [] ∨ engPending s o.id then setCopyOp s eng { o with credits := o.credits ++ [n] }
  else
    let r := landCredit s o u n last
    setCopyOp r.1 eng (if r.2 then o.meet 4 u 0 false else o)

/-- A chunk lands (R350): its bytes, its credit, and the arrival after the last chunk of its target. A chunk for global memory is translated whole before
any byte of it is written. -/
def landChunk (s : State) (eng : Nat) (o : CopyOp) (c : Nat) (bs : List Byte) : State :=
  let q := o.split c
  let u := q.1
  let off := o.rowAt q.2.1 + 512 * q.2.2
  match targetCode s o u with
  | 0 =>
    let l := { o with landed := c :: o.landed }
    let done := fun (s : State) (l : CopyOp) => chunkCredited s eng l u bs.length (l.pending.all fun x => (l.split x).1 != u)
    match o.dst with
    | .glob va =>
      let a := va + wordN off
      match placePieces engXlate s ⟨whoOp o.id, o.cl, o.ctx, o.priv, o.wait⟩ a (piecesOf a bs.length) with
      | .later s w => setCopyOp s eng { o with wait := w }
      | .err s c x => setCopyOp s eng (o.meet c 0 x true)
      | .ok s ps =>
        let w := engPuts s (whoOp o.id) o.ctx a bs ps
        match w.2.2 with
        | some x => setCopyOp w.1 eng ({ o with wait := .none, dests := o.dests ++ w.2.1 }.meet 5 0 x true)
        | none => done w.1 { l with wait := .none, dests := o.dests ++ w.2.1 }
    | .own k => done (s.write (k + off) bs) l
    | .rect _ _ _ _ base => done (s.write (localKey (o.target u) (localWhere base) + off) bs) l
    | .ring core hdr => done (ringWrite s core (ringAt s (localKey core (localWhere hdr))) (o.ring.getD 0) off bs) l
  | code => setCopyOp s eng (o.meet code u 0 false)

/-- Acquires the slots of a ring destination (R372): the operation goes on with them, waits, or ends with a condition. -/
def copyRing (s : State) (o : CopyOp) (core hdr : Nat) : State × CopyOp :=
  let k := localKey core (localWhere hdr)
  let r := ringAt s k
  let n := ceilDiv o.rowOut r.sz
  match targetCode s o 0 with
  | 0 =>
    if !r.ok || hdr % 128 != 0 || decide (r.nslot < n) then (s, o.meet 7 0 0 true)
    else if !inAllocation s core r.base (r.nslot * r.sz) then (s, o.meet 2 0 0 true)
    else if olderRing s none k 0 o.age then (s, o)
    else
      match r.get false n with
      | some (a, r) => (s.write k r.bytes, { o with ring := some ((a - r.base) / r.sz) })
      | none => (s, o)
  | code => (s, o.meet code 0 0 true)

/-- The read of a record parks on the first of its rows that is guarded: the reads of its rows do not hold one another back. -/
def recordParks (s : State) (o : CopyOp) (w : EngWait) : Option (Nat × Nat) := o.ranges.find? fun r => engParks s o.cl w r.1 r.2

/-- The record that a `cthr` forms of its latents (R364), read once no row is guarded. -/
def formsRecord (s : State) (o : CopyOp) (tag alpha : Nat) (i0 : BitVec 32) (stoch : Option Word) : EngAns (List Byte × BitVec 3) :=
  let w := match o.parked with
    | p :: _ => EngWait.parked p.1 p.2.1 p.2.2
    | [] => o.wait
  match recordParks s o w with
  | some r => .later (engParked s w r.1 r.2).1 (engParked s w r.1 r.2).2
  | none =>
    (engReadRows s ⟨whoOp o.id, o.cl, o.ctx, o.priv, w⟩ o.src o.stride 128 320 0 []).andThen fun s bs =>
      .ok s (thresholdRecord ((List.range 320).map fun k => sliceB bs (128 * k) 128) tag alpha i0 stoch)

/-- The bytes of a chunk before their landing: a record once it is formed, a snapshot, or the source bytes of the chunk, each read once
(R349, R355, R364). The operation carries what has been read and the flags. -/
def chunkBytes (s : State) (o : CopyOp) (c : Nat) : State × CopyOp × Option (List Byte) :=
  let q := o.split c
  let key := q.2.1 * o.perRow + q.2.2
  let n := min 512 (o.rowOut - 512 * q.2.2)
  match o.kind with
  | .record tag alpha i0 stoch =>
    (match o.data with
    | some bs => (s, o, some (sliceB bs (512 * q.2.2) n))
    | none =>
      match formsRecord s o tag alpha i0 stoch with
      | .later s w => (s, { o with parked := [] }.waiting w, none)
      | .err s code va => (s, o.meet code 0 va true, none)
      | .ok s r =>
        (s, { o with wait := .none, parked := [], data := some r.1, flags := o.flags ||| r.2 }, some (sliceB r.1 (512 * q.2.2) n)))
  | _ =>
    let z := convSizes o.conv
    let so := 512 * q.2.2 * z.1 / z.2
    let sn := n * z.1 / z.2
    let conv := fun (s : State) (o : CopyOp) (bs : List Byte) =>
      let r := convBytes o.conv o.scale ((o.table.getD none).getD ⟨0, 0, []⟩) bs
      (s, { o with flags := o.flags ||| r.2 }, some r.1)
    match o.data, o.cache.find? fun p => p.1 == key with
    | some bs, _ => conv s o (sliceB bs (q.2.1 * o.len + so) sn)
    | none, some (_, bs) => conv s o bs
    | none, none =>
      let off := q.2.1 * o.stride + so
      let at' := match o.src with
        | .key k => k + off
        | .glob _ => 0
      match engRead s (o.reader at') o.src off sn with
      | .later s w => (s, o.waiting w, none)
      | .err s code va => (s, o.meet code 0 va true, none)
      | .ok s bs => conv s { o.went at' with cache := tset o.cache key bs } bs

/-- R350: chunk `chunk` of operation `op` of an engine lands. Its first one acquires the slots of a ring. -/
def execCopyChunkLanding (engine op chunk : Nat) (s : State) : Step :=
  match (s.copyEng engine).op? op with
  | none => .next s
  | some o =>
    if !o.started || opHalted s o.ctx o.launch || !o.pending.contains chunk || o.wait.awaits s.cc then .next s
    else if o.lostSource && o.data.isNone then .next (setCopyOp s engine (o.meet 2 0 0 true))
    else
      match o.dst, o.ring with
      | .ring core hdr, none => let r := copyRing s o core hdr; .next (setCopyOp r.1 engine r.2)
      | _, _ =>
        let r := chunkBytes s o chunk
        match r.2.2 with
        | some bs => .next (landChunk r.1 engine r.2.1 chunk bs)
        | none => .next (setCopyOp r.1 engine r.2.1)

/-- Removes an operation of an engine and its source entry (R355). -/
def dropCopy (s : State) (engine : Nat) (o : CopyOp) : State :=
  let e := s.copyEng engine
  let s := s.setCopyEng engine { e with ops := e.ops.filter fun x => x.id != o.id }
  let c := s.cluster o.cl
  s.setCluster o.cl { c with sources := c.sources.filter fun x => x.op != o.id }

/-- The bytes of a table at the physical addresses of its blocks (R377). -/
def readBlocks (s : State) (r : Reader) : List (Nat × Nat) → EngAns (List Byte)
  | [] => .ok s []
  | (pa, key) :: t => (engReadHome s r pa key 64 (wordN pa)).andThen fun s b => (readBlocks s r t).andThen fun s bs => .ok s (b ++ bs)

/-- The unit word of the error entries of a copy engine. -/
def engineUnit (s : State) (engine : Nat) : Word := wordN (s.module.toNat * 2 ^ 38 + engine / 4 * 2 ^ 34)

/-- A `ctab` completes with a status (R377): 0, once the bytes stand in the table slot; 5 after a data loss, or CODE 2 where its table has been freed (R178), with an error
entry. Its slot receives it. -/
def tableEnds (s : State) (engine : Nat) (o : CopyOp) (d : Reg) (code : Nat) : State :=
  let s := dropCopy s engine o
  let s := if code = 0 then s else errorEntry s o.ctx 3 code 0 (engineUnit s engine) (wordN o.seq.toNat)
  if (s.slot o.slot).wait = .table then finish (s.setSAt o.slot d (wordN code)) o.slot .seq (stepping s o.slot) none else s

/-- The entries of a table slot are loaded. -/
def tableLoads (s : State) (engine : Nat) (o : CopyOp) (tslot fmt : Nat) (bs : List Byte) : State :=
  let e := s.copyEng engine
  s.setCopyEng engine { e with
    tabs := tset e.tabs tslot ⟨o.ctx, fmt, (List.range 256).map fun x => BitVec.ofNat 16 (leAt bs (2 * x) 2)⟩ }

/-- The load of a `ctab` (R377), which may have to wait (R359, R399). -/
def tableDone (s : State) (engine : Nat) (o : CopyOp) (tslot fmt : Nat) (blocks : List (Nat × Nat)) (d : Reg) : State :=
  let r : EngAns (List Byte) := match o.src with
    | .key k => if o.lostSource then .err s 2 0 else engRead s (o.reader k) o.src 0 512
    | .glob _ => readBlocks s (o.reader 0) blocks
  match r with
  | .later s w => setCopyOp s engine (o.waiting w)
  | .err s c _ => tableEnds s engine o d c
  | .ok s bs => tableEnds (tableLoads s engine o tslot fmt bs) engine o d 0

/-- The landings of an operation that are not credited yet are credited, with the arrival that it owes (R357, R358). -/
def creditOwed (s : State) (o : CopyOp) : State × CopyOp :=
  let n := o.credits.length
  (List.range n).foldl (fun p i =>
    match targetCode p.1 p.2 0 with
    | 0 =>
      let r := landCredit p.1 p.2 0 (o.credits.getD i 0) (i + 1 == n && !o.halted)
      (r.1, if r.2 then p.2.meet 4 0 0 false else p.2)
    | code => (p.1, p.2.meet code 0 0 false)) (s, { o with credits := [] })

/-- The arrivals that a slab owes at targets that receive no row, made at completion (R374). -/
def emptyArrivals (s : State) (o : CopyOp) : State × CopyOp :=
  if !o.arr || o.halted || o.blk = 0 then (s, o)
  else
    (List.range o.targets).foldl (fun p u =>
      if (List.range o.nrows).any (fun r => r / o.blk % o.targets == u) || p.2.stopped u then p
      else
        match targetCode p.1 p.2 u with
        | 0 => let r := landCredit p.1 p.2 u 0 true; (r.1, if r.2 then p.2.meet 4 u 0 false else p.2)
        | code => (p.1, p.2.meet code u 0 false)) (s, o)

/-- Publishes the slots of a ring destination (R372), unless its blocks have been freed (R178). -/
def publishRing (s : State) (o : CopyOp) : State × CopyOp :=
  match o.dst, o.ring, o.conds with
  | .ring core hdr, some k, [] =>
    let key := localKey core (localWhere hdr)
    let r := ringAt s key
    if targetCode s o 0 ≠ 0 then (s, o.meet (targetCode s o 0) 0 0 true) else
    (match if r.ok then r.put false k (ceilDiv o.rowOut r.sz) else none with
    | some r => (s.write key r.bytes, o)
    | none => (s, o.meet 7 0 0 true))
  | _, _, _ => (s, o)

/-- CODE and the second header word of a completion (Table 13.2). -/
def CopyOp.result (o : CopyOp) : Nat × Word :=
  match o.conds with
  | [] => (0, 0)
  | c :: t =>
    let code := t.foldl (fun m x => Nat.min m x.1) c.1
    let same := o.conds.filter fun x => x.1 == code
    let u := same.foldl (fun m x => Nat.min m x.2.1) o.targets
    (code, if code = 1 ∨ code = 5 then (same.head?.elim 0 (·.2.2)) else if code = 6 then 0 else wordN u)

/-- R351: an operation whose chunks have all landed, or which ends early, completes once its writes are performed (R399); landings that
are owed are credited first. -/
def execCopyOperationComplete (engine op : Nat) (s : State) : Step :=
  match (s.copyEng engine).op? op with
  | none => .next s
  | some o =>
    if !o.started || opHalted s o.ctx o.launch || o.wait.awaits s.cc then .next s
    else
      match o.kind with
      | .table t f blocks d => .next (tableDone s engine o t f blocks d)
      | _ =>
        if o.pending ≠ [] ∨ engPending s o.id then .next s
        else if o.credits ≠ [] then
          let p := creditOwed s o
          .next (setCopyOp p.1 engine p.2)
        else
          let p := emptyArrivals s o
          let p := publishRing p.1 p.2
          let o := p.2
          let s := dropCopy p.1 engine o
          let core := coreOf o.slot
          let k := s.core core
          let s := s.setCore core { k with cflags := k.cflags ||| o.flags }
          let r := o.result
          let s := if r.1 = 0 then semSignal s (tileOf o.slot) o.eng.sj.toNat o.eng.sn.toNat
            else errorEntry s o.ctx 3 r.1 (if r.1 = 1 ∨ r.1 = 5 then r.2 else 0)
              (engineUnit s engine) (wordN o.seq.toNat)
          if r.1 = 0 ∧ o.note = 0 then .next s
          else
            .next (engineMessage s core o.launch engine k.cch.toNat (if r.1 = 0 ∧ o.note = 1 then 0 else 1)
              (wordN (r.1 + 256 * b2n (r.1 != 0 && o.landed != []) + 512 * o.flags.toNat)) r.2
              (wordN (o.seq.toNat + 2 ^ 16 * o.maj + 2 ^ 23 * o.min)) o.dests)

end Sys2Proof.Machine
end

