-- ==== Sys2Proof/Machine/Streams.lean ====
section
/-!
DEFINITION. Stream registers and sparse fibres (10 R270 to R295).
-/

namespace Sys2Proof.Machine

/-! ## Descriptors and images -/

/-- The KIND code of a level (Table 10.1). -/
def FibreKind.code : FibreKind → Nat
  | .dense => 0
  | .compressed => 1
  | .bitmap => 2
  | .singleton => 3

/-- The level kind of a code. -/
def fibreKind : Nat → FibreKind
  | 0 => .dense
  | 1 => .compressed
  | 2 => .bitmap
  | _ => .singleton

/-- POSA is as Table 10.2 permits for a kind. -/
def posaOk (k : FibreKind) (a : Nat) : Bool :=
  match k with
  | .compressed => a % 4 == 0
  | .bitmap => a % 8 == 0
  | _ => a == 0

/-- CRDA is as Table 10.2 permits for a kind. -/
def crdaOk (k : FibreKind) (a : Nat) : Bool :=
  match k with
  | .compressed => a % 4 == 0
  | .singleton => a % 4 == 0
  | _ => a == 0

/-- A valid fibre descriptor (R272). -/
def descriptorOk (bs : List Byte) : Bool :=
  let k := fibreKind (leAt bs 0 1)
  decide (leAt bs 0 1 ≤ 3) && decide (leAt bs 1 1 ≤ 3) && leAt bs 2 2 == 0 && leAt bs 4 4 != 0 && posaOk k (leAt bs 8 8) &&
    crdaOk k (leAt bs 16 8) && leAt bs 24 8 % 2 ^ leAt bs 1 1 == 0

/-- The save image of a stream register (Table 10.4). -/
def StreamReg.image (f : StreamReg) : List Byte :=
  if f.opened then
    bytesOf 1 1 ++ bytesOf 1 f.kind.code ++ bytesOf 1 f.esz.toNat ++ bytesOf 1 f.win.length ++
      bytesOf 1 (b2n f.dv + 2 * b2n f.lv) ++ bytesOf 3 0 ++ bytesOf 4 f.dim.toNat ++ bytesOf 4 (if f.lv then f.lastc.toNat else 0) ++
      bytesOf 8 f.posa.toNat ++ bytesOf 8 f.crda.toNat ++ bytesOf 8 f.vala.toNat ++ bytesOf 8 f.parent.toNat ++
      bytesOf 8 f.fc.toNat ++ bytesOf 8 f.fend.toNat ++ bytesOf 8 (if f.dv then f.dp.toNat else 0) ++
      bytesOf 4 (if f.dv then f.dc.toNat else 0) ++ bytesOf 52 0 ++
      ((f.win.flatMap fun w => bytesOf 4 w.1.toNat ++ bytesOf 4 0 ++ bytesOf 8 w.2.toNat) ++ bytesOf 512 0).take 512
  else bytesOf 640 0

/-- The coordinate of window entry `i` of an image. -/
def imageCoord (bs : List Byte) (i : Nat) : Nat := leAt bs (128 + 16 * i) 4

/-- Window entry `i` of an image is right: below WN its coordinate is greater than the one before and below DIM; the others are zero (R294). -/
def entryOk (bs : List Byte) (i : Nat) : Bool :=
  if i < leAt bs 3 1 then
    decide (imageCoord bs i < leAt bs 8 4) && (i == 0 || decide (imageCoord bs (i - 1) < imageCoord bs i))
  else leAt bs (128 + 16 * i) 16 == 0

/-- The offset of the first failing field of an image with ST = 1 (R294). -/
def imageFault (bs : List Byte) : Option Nat :=
  let k := fibreKind (leAt bs 1 1)
  let wn := leAt bs 3 1
  let dim := leAt bs 8 4
  let fend := leAt bs 56 8
  let bad : List (Nat × Bool) :=
    [(1, decide (3 < leAt bs 1 1)), (2, decide (3 < leAt bs 2 1)), (3, decide (32 < wn)),
     (4, leAt bs 4 1 / 4 != 0 || (decide (0 < wn) && leAt bs 4 1 / 2 % 2 == 0)), (5, leAt bs 5 3 != 0), (8, dim == 0),
     (12, decide (0 < wn) && leAt bs 12 4 != imageCoord bs (wn - 1)), (16, !posaOk k (leAt bs 16 8)),
     (24, !crdaOk k (leAt bs 24 8)), (32, leAt bs 32 8 % 2 ^ leAt bs 2 1 != 0), (48, decide (fend < leAt bs 48 8)),
     (56, match k with | .dense => fend != dim | .bitmap => fend != dim | .singleton => fend != 1 | .compressed => false),
     (76, leAt bs 76 52 != 0)] ++ (List.range 32).map fun i => (128 + 16 * i, !entryOk bs i)
  (bad.find? (·.2)).map (·.1)

/-- The stream register that a valid image holds. -/
def streamOf (bs : List Byte) : StreamReg where
  opened := true
  kind := fibreKind (leAt bs 1 1)
  esz := BitVec.ofNat 8 (leAt bs 2 1)
  dim := BitVec.ofNat 32 (leAt bs 8 4)
  posa := wordN (leAt bs 16 8)
  crda := wordN (leAt bs 24 8)
  vala := wordN (leAt bs 32 8)
  parent := wordN (leAt bs 40 8)
  fc := wordN (leAt bs 48 8)
  fend := wordN (leAt bs 56 8)
  win := (List.range (leAt bs 3 1)).map fun i => (BitVec.ofNat 32 (imageCoord bs i), wordN (leAt bs (136 + 16 * i) 8))
  lastc := BitVec.ofNat 32 (leAt bs 12 4)
  lv := leAt bs 4 1 / 2 % 2 == 1
  dc := BitVec.ofNat 32 (leAt bs 72 4)
  dp := wordN (leAt bs 64 8)
  dv := leAt bs 4 1 % 2 == 1

/-! ## Traps (R279, R280) -/

/-- f[r] of the executing slot. -/
def strm (s : State) (r : Fin 8) : StreamReg := s.sl.f[r]

/-- Replaces f[r]. -/
def setStrm (s : State) (r : Fin 8) (f : StreamReg) : State := s.setSl { s.sl with f := s.sl.f.set r f }

/-- SFDET of a trap of a kind of Table 10.7 with IDX that concerns f[r] (Table 10.6). -/
def sfdetOf (r : Fin 8) (kind idx : Nat) : Word := wordN (idx % 2 ^ 32 * 2 ^ 32 + kind * 2 ^ 16 + r.val)

/-- A trap of a stream instruction of slot `n` with SFDET `d`: SFDET and the record, with the image of the register that it names (R279, R280). -/
def sfTrapped (s : State) (n : Nat) (d : Word) (t : Trap) : State × Trap :=
  let l := s.slot n
  (s.setSlot n { l with sfdet := d }, { t with aux := d, simg := (l.f[Fin.ofNat 8 d.toNat]).image.take 128 })

/-- A trap of a stream instruction concerning f[r], of a kind of Table 10.7 with IDX: SFDET and the record. -/
def streamTrapAt (s : State) (r : Fin 8) (kind idx : Nat) (t : Trap) : Eff :=
  let q := sfTrapped s s.cur (sfdetOf r kind idx) t
  .trap q.1 q.2

/-- The trap of a kind other than 0 (Table 16.5). -/
def kindTrap (kind : Nat) : Trap := trapI (if kind = 3 ∨ kind = 4 ∨ kind = 5 then 19 else 18) kind 0

/-- A stream access of f[r] waits, with the IDX that a trap of it would have (R399). -/
def streamWaits (s : State) (r : Fin 8) (idx : Nat) (w : Wait) : Eff := .wait (s.setSl { s.sl with fetch := some (sfdetOf r 0 idx) }) w

/-- A trap at FC of f[r]. -/
def streamTrap (s : State) (r : Fin 8) (kind : Nat) (t : Trap) : Eff := streamTrapAt s r kind (strm s r).fc.toNat t

/-! ## Accesses (R277) -/

/-- A read of `n` bytes by a stream instruction. -/
def streamLoad (s : State) (va : Word) (n : Nat) : Res Nat :=
  (locate s s.cur .read true false va n).andThen fun s loc =>
    match loc with
    | .remote _ _ => .trap s (memTrap 6 .read va)
    | loc => (readLoc s s.cur .read va n loc).andThen fun s bs => .ok s (ofBytes bs)

/-- Where a piece of 64 bytes stands: a location, or the bytes of a window, each with its physical address and KEYID. -/
inductive Piece where
  | loc (va : Word) (l : Loc)
  | bytes (va : Word) (l : List (Nat × Nat))

/-- The pieces of 64 bytes of a range that is read or stored, checked and translated, the elements of windows too (R8, R338). The checks of R169 are made piece by
piece, so that a translation fault of a piece goes before an address fault of a later one, and EADDR is the address of the piece: DESIGN CHOICE (log entry 55). -/
def piecesLoc (s : State) (k : Access) (store : Bool) (va : Word) : Nat → Nat → Res (List Piece)
  | 0, _ => .ok s []
  | n + 1, i =>
    let a := va + wordN (64 * i)
    let here := (locate s s.cur k true store a 64).andThen fun s loc =>
      match loc with
      | .remote _ _ => .trap s (memTrap 6 k a)
      | .win w off => ((winWalk s s.cur w k off 64 65 off []).andThen fun s l => .ok s (Piece.bytes a l)).keepsWindow s.cur w
      | loc => .ok s (.loc a loc)
    here.andThen fun s p => (piecesLoc s k store va n (i + 1)).andThen fun s l => .ok s (p :: l)

/-- Reads a piece. -/
def pieceRead (s : State) : Piece → Res (List Byte)
  | .loc a l => readLoc s s.cur .read a 64 l
  | .bytes a l => winRead s s.cur a l

/-- Reads the pieces of a range. -/
def piecesRead (s : State) : List Piece → Res (List Byte)
  | [] => .ok s []
  | p :: t => (pieceRead s p).andThen fun s b => (piecesRead s t).andThen fun s r => .ok s (b ++ r)

/-- Stores the pieces of a range. -/
def piecesWrite (s : State) (bs : List Byte) : Nat → List Piece → Res Unit
  | _, [] => .ok s ()
  | i, .loc a l :: t => (writeLoc s s.cur a (sliceB bs (64 * i) 64) l).andThen fun s _ => piecesWrite s bs (i + 1) t
  | i, .bytes _ l :: t => piecesWrite (winWrite s s.cur (l.zip (sliceB bs (64 * i) 64))) bs (i + 1) t

/-! ## Refills (R274) -/

/-- What a step on a stream leaves: the stream, or the fault that stopped it, or a wait, with the stream as they leave it (R276, R278,
R283). -/
inductive Walked where
  | ok (s : State) (f : StreamReg)
  | fault (s : State) (f : StreamReg) (kind : Nat) (t : Trap)
  | wait (s : State) (f : StreamReg) (w : Wait)

/-- enter(f, c, pos). -/
def StreamReg.enter (f : StreamReg) (c : Nat) (pos : Word) : StreamReg :=
  { f with win := f.win ++ [(BitVec.ofNat 32 c, pos)], lastc := BitVec.ofNat 32 c, lv := true }

/-- drop(f). -/
def StreamReg.drop (f : StreamReg) : StreamReg := { f with win := f.win.tail }

/-- deliver(f). -/
def StreamReg.deliver (f : StreamReg) : StreamReg :=
  match f.win with
  | (c, p) :: t => { f with dc := c, dp := p, dv := true, win := t }
  | [] => f

/-- The position of coordinate `c` of a dense or bitmap fibre. -/
def StreamReg.posOf (f : StreamReg) (c : Nat) : Word := f.parent * wordN f.dim.toNat + wordN c

/-- A malformed-fibre fault. -/
def fibreFault (s : State) (f : StreamReg) (kind : Nat) : Walked := .fault s f kind (kindTrap kind)

/-- The set bits of a bitmap word from bit `b` upward, of the bits given, entered while fewer than 32 are (R274): the stream, and
whether a bit stands at DIM or beyond. -/
def enterBits (w j : Nat) : List Nat → StreamReg → StreamReg × Bool
  | [], f => (f, false)
  | b :: t, f =>
    if w.testBit b && decide (f.win.length < 32) then
      let c := 64 * j + b
      if f.dim.toNat ≤ c then (f, true) else enterBits w j t { f.enter c (f.posOf c) with fc := wordN (c + 1) }
    else enterBits w j t f

/-- The loop of a refill: `words` bitmap words are left to read. -/
def refillGo (s : State) (f : StreamReg) : Nat → Nat → Walked
  | 0, _ => .ok s f
  | fuel + 1, words =>
    let k := f.fc.toNat
    if 32 ≤ f.win.length ∨ f.fend.toNat ≤ k ∨ words = 0 then .ok s f
    else
      match f.kind with
      | .dense => refillGo s { f.enter k (f.posOf k) with fc := f.fc + 1 } fuel words
      | .compressed =>
        match streamLoad s (f.crda + 4 * f.fc) 4 with
        | .trap s t => .fault s f 0 t
        | .wait s w => .wait s f w
        | .ok s c =>
          if f.lv && decide (c ≤ f.lastc.toNat) then fibreFault s f 3
          else if f.dim.toNat ≤ c then fibreFault s f 5
          else refillGo s { f.enter c f.fc with fc := f.fc + 1 } fuel words
      | .singleton =>
        match streamLoad s (f.crda + 4 * f.parent) 4 with
        | .trap s t => .fault s f 0 t
        | .wait s w => .wait s f w
        | .ok s c =>
          if f.dim.toNat ≤ c then fibreFault s f 5 else refillGo s { f.enter c f.parent with fc := 1 } fuel words
      | .bitmap =>
        let j := k / 64
        match streamLoad s (f.posa + 8 * (f.parent * wordN (ceilDiv f.dim.toNat 64) + wordN j)) 8 with
        | .trap s t => .fault s f 0 t
        | .wait s w => .wait s f w
        | .ok s w =>
          let r := enterBits w j ((List.range 64).drop (k % 64)) f
          if r.2 then fibreFault s r.1 5
          else if 32 ≤ r.1.win.length then .ok s r.1
          else refillGo s { r.1 with fc := wordN (min (64 * (j + 1)) f.fend.toNat) } fuel (words - 1)

/-- The stream while an access of a refill waits: `f`, as the refill found it, from where the refill runs anew (R274), and what it has
entered where it waits for another module, whose time-out trap keeps that (R276, R399). -/
def StreamReg.waiting (x f : StreamReg) : Wait → StreamReg
  | .remote _ _ => x
  | _ => f

/-- head(f): refills until there is a head or the end (R274). -/
def headGo (s : State) (f : StreamReg) : Nat → Walked
  | 0 => .ok s f
  | fuel + 1 =>
    if f.win = [] ∧ f.fc.toNat < f.fend.toNat then
      match refillGo s f 40 8 with
      | .ok s f => headGo s f fuel
      | .wait s x w => .wait s (x.waiting f w) w
      | r => r
    else .ok s f

/-- head(f), with the stream afterwards. -/
def headOf (s : State) (f : StreamReg) : Walked := headGo s f (2 ^ 32)

/-! ## Instructions -/

/-- All ones (R273). -/
def allOnes : Word := BitVec.allOnes 64

/-- The end of a stream instruction on f[r]. -/
def Walked.eff (w : Walked) (r : Fin 8) (k : State → StreamReg → Eff) : Eff :=
  match w with
  | .ok s f => k s f
  | .fault s f kind t => streamTrap (setStrm s r f) r kind t
  | .wait s f w => streamWaits (setStrm s r f) r f.fc.toNat w

/-- A stream instruction that reads open stream registers (R282). Where both operands are closed, SFDET.REG names the first: DESIGN CHOICE (log entry 55). -/
def streamHead (s : State) (g : Guard) (rs : List (Fin 8)) (body : State → Eff) : Host.Outcome State Fault Refusal :=
  head s g {} fun s =>
    match rs.find? fun r => !(strm s r).opened with
    | some r => streamTrap s r 1 (kindTrap 1)
    | none => body s

/-- The trap of a part of `sopen`, `sval`, `ssave` or `srest`, which leaves the stream registers as they were (R276). SFDET.KIND of every trap of an access is 0, of a
data-loss and of a copy-source trap too, which Table 10.7 does not name: DESIGN CHOICE (log entry 55). -/
def Res.streamEff {α : Type} (r : Res α) (f : Fin 8) (idx : State → Nat) (k : State → α → Eff) : Eff :=
  match r with
  | .ok s a => k s a
  | .trap s t => streamTrapAt s f 0 (idx s) t
  | .wait s w => streamWaits s f (idx s) w

/-- The stream that `sopen` opens on a descriptor, given FC and FEND (R285). -/
def openedOn (d : List Byte) (p : Word) (fc fend : Nat) : StreamReg :=
  ⟨true, fibreKind (leAt d 0 1), BitVec.ofNat 8 (leAt d 1 1), BitVec.ofNat 32 (leAt d 4 4), wordN (leAt d 8 8), wordN (leAt d 16 8),
    wordN (leAt d 24 8), p, wordN fc, wordN fend, [], 0, false, 0, 0, false⟩

/-- R285. -/
def execSopen (g : Guard) (f : Fin 8) (a b : Reg) (off : BitVec 16) (s : State) : Host.Outcome State Fault Refusal :=
  head s g {} fun s =>
    let va := offsetAddr s a off
    let p := s.getS b
    (streamLoad s va 32).streamEff f (fun _ => 0) fun s v =>
      let d := bytesOf 32 v
      if !descriptorOk d then streamTrapAt s f 2 0 (kindTrap 2)
      else
        match fibreKind (leAt d 0 1) with
        | .compressed =>
          let at' := wordN (leAt d 8 8) + 4 * p
          (streamLoad s at' 4).streamEff f (fun _ => 0) fun s lo =>
            (streamLoad s (at' + 4) 4).streamEff f (fun _ => 0) fun s hi =>
              if hi < lo then streamTrapAt s f 4 0 (kindTrap 4) else .retire (setStrm s f (openedOn d p lo hi)) .seq
        | .singleton => .retire (setStrm s f (openedOn d p 0 1)) .seq
        | _ => .retire (setStrm s f (openedOn d p 0 (leAt d 4 4))) .seq

/-- R286. -/
def execSnext (g : Guard) (d : Reg) (f : Fin 8) (s : State) : Host.Outcome State Fault Refusal :=
  streamHead s g [f] fun s =>
    (headOf s (strm s f)).eff f fun s x =>
      if x.win = [] then .retire ((setStrm s f { x with dv := false }).setS d allOnes) .seq
      else .retire ((setStrm s f x.deliver).setS d (wordN x.deliver.dc.toNat)) .seq

/-- R287. -/
def execSdone (g : Guard) (gd f : Fin 8) (s : State) : Host.Outcome State Fault Refusal :=
  streamHead s g [f] fun s =>
    (headOf s (strm s f)).eff f fun s x => .retire ((setStrm s f x).setG gd (x.win == [])) .seq

/-- The loop of `sisect` (R288): the streams, and the end, the trap or the wait of the operand concerned. -/
def sisectGo (s : State) (d : Reg) (ra rb : Fin 8) (a b : StreamReg) : Nat → Eff
  | 0 => .wait (setStrm (setStrm s ra a) rb b) .poll
  | fuel + 1 =>
    let none' := fun (s : State) (a b : StreamReg) =>
      Eff.retire ((setStrm (setStrm s ra { a with dv := false }) rb { b with dv := false }).setS d allOnes) .seq
    match headOf s a with
    | .wait s a w => streamWaits (setStrm (setStrm s ra a) rb b) ra a.fc.toNat w
    | .fault s a kind t => streamTrap (setStrm (setStrm s ra a) rb b) ra kind t
    | .ok s a =>
      match a.win with
      | [] => none' s a b
      | (ca, _) :: _ =>
        match headOf s b with
        | .wait s b w => streamWaits (setStrm (setStrm s ra a) rb b) rb b.fc.toNat w
        | .fault s b kind t => streamTrap (setStrm (setStrm s ra a) rb b) rb kind t
        | .ok s b =>
          match b.win with
          | [] => none' s a b
          | (cb, _) :: _ =>
            if ca < cb then sisectGo s d ra rb a.drop b fuel
            else if cb < ca then sisectGo s d ra rb a b.drop fuel
            else .retire ((setStrm (setStrm s ra a.deliver) rb b.deliver).setS d (wordN ca.toNat)) .seq

/-- R288. -/
def execSisect (g : Guard) (d : Reg) (fa fb : Fin 8) (s : State) : Host.Outcome State Fault Refusal :=
  streamHead s g [fa, fb] fun s => sisectGo s d fa fb (strm s fa) (strm s fb) (2 ^ 34)

/-- R289. -/
def execSunion (g : Guard) (d : Reg) (fa fb : Fin 8) (s : State) : Host.Outcome State Fault Refusal :=
  streamHead s g [fa, fb] fun s =>
    (headOf s (strm s fa)).eff fa fun s a =>
      match headOf s (strm s fb) with
      | .wait s b w => streamWaits (setStrm (setStrm s fa a) fb b) fb b.fc.toNat w
      | .fault s b kind t => streamTrap (setStrm (setStrm s fa a) fb b) fb kind t
      | .ok s b =>
        let ca := a.win.head?.map (·.1.toNat)
        let cb := b.win.head?.map (·.1.toNat)
        match ca, cb with
        | none, none =>
          .retire ((setStrm (setStrm s fa { a with dv := false }) fb { b with dv := false }).setS d allOnes) .seq
        | _, _ =>
          let c := min (ca.getD (2 ^ 64)) (cb.getD (2 ^ 64))
          let ina := ca == some c
          let inb := cb == some c
          let s := setStrm s fa (if ina then a.deliver else { a with dv := false })
          let s := setStrm s fb (if inb then b.deliver else { b with dv := false })
          .retire (s.setS d (wordN (c + 2 ^ 32 * b2n ina + 2 ^ 33 * b2n inb))) .seq

/-- Drops the entries of a window whose coordinates are below `v`. -/
def StreamReg.dropBelow (f : StreamReg) (v : Nat) : StreamReg := { f with win := f.win.dropWhile fun w => decide (w.1.toNat < v) }

/-- The loop of `sskip` (R290). -/
def sskipGo (s : State) (f : StreamReg) (v : Nat) : Nat → Walked
  | 0 => .wait s f .poll
  | fuel + 1 =>
    let f := f.dropBelow v
    if f.win ≠ [] then .ok s f
    else
      let f := match f.kind with
        | .dense => { f with fc := wordN (max f.fc.toNat (min v f.fend.toNat)) }
        | .bitmap => { f with fc := wordN (max f.fc.toNat (min v f.fend.toNat)) }
        | _ => f
      match headOf s f with
      | .ok s f =>
        match f.win with
        | [] => .ok s f
        | (c, _) :: _ => if v ≤ c.toNat then .ok s f else sskipGo s f v fuel
      | r => r

/-- R290. -/
def execSskip (g : Guard) (d : Reg) (f : Fin 8) (b : Reg) (s : State) : Host.Outcome State Fault Refusal :=
  streamHead s g [f] fun s =>
    (sskipGo s (strm s f) (s.getS b).toNat (2 ^ 32)).eff f fun s x =>
      .retire ((setStrm s f x).setS d (match x.win with | [] => allOnes | (c, _) :: _ => wordN c.toNat)) .seq

/-- R291. -/
def execScrd (g : Guard) (d : Reg) (f : Fin 8) (b : Reg) (s : State) : Host.Outcome State Fault Refusal :=
  streamHead s g [f] fun s =>
    let x := strm s f
    .retire ((s.setS b (if x.dv then x.dp else allOnes)).setS d (if x.dv then wordN x.dc.toNat else allOnes)) .seq

/-- R292. -/
def execSval (g : Guard) (d : Reg) (f : Fin 8) (sgn : Bool) (s : State) : Host.Outcome State Fault Refusal :=
  streamHead s g [f] fun s =>
    let x := strm s f
    let n := 2 ^ (x.esz.toNat % 4)
    if x.vala = 0 then streamTrap s f 6 (kindTrap 6)
    else if !x.dv then .retire (s.setS d 0) .seq
    else
      (streamLoad s (x.vala + x.dp * wordN n) n).streamEff f (fun s => (strm s f).fc.toNat) fun s v =>
        .retire (s.setS d (extended (!sgn) (bytesOf n v))) .seq

/-- R293: it retires when its window stores are performed (R337). -/
def execSsave (g : Guard) (f : Fin 8) (a : Reg) (s : State) : Host.Outcome State Fault Refusal :=
  head s g {} fun s =>
    let idx := fun s => (strm s f).fc.toNat
    (piecesLoc s .write true (s.getS a) 10 0).streamEff f idx fun s l =>
      (piecesWrite s (strm s f).image 0 l).streamEff f idx fun s _ => .sent s

/-- R294. -/
def execSrest (g : Guard) (f : Fin 8) (a : Reg) (s : State) : Host.Outcome State Fault Refusal :=
  head s g {} fun s =>
    let idx := fun s => (strm s f).fc.toNat
    (piecesLoc s .read false (s.getS a) 10 0).streamEff f idx fun s l =>
      (piecesRead s l).streamEff f idx fun s bs =>
        if leAt bs 0 1 = 0 then .retire (setStrm s f StreamReg.init) .seq
        else if leAt bs 0 1 ≠ 1 then streamTrapAt s f 7 0 (kindTrap 7)
        else
          match imageFault bs with
          | some i => streamTrapAt s f 7 i (kindTrap 7)
          | none => .retire (setStrm s f (streamOf bs)) .seq

/-- R295. -/
def execSclose (g : Guard) (f : Fin 8) (s : State) : Host.Outcome State Fault Refusal :=
  head s g {} fun s => .retire (setStrm s f StreamReg.init) .seq

/-! ## Control and status registers (R279) -/

/-- SRSTAT (Table 10.6). -/
def srstat (l : Slot) : Word :=
  wordN ((List.range 8).foldl (fun n i =>
    match l.f[i]? with
    | some f => n + 2 ^ i * b2n f.opened + 2 ^ (8 + i) * b2n f.dv + 2 ^ (16 + i) * b2n (f.opened && f.win == [] && f.fc == f.fend)
    | none => n) 0)

end Sys2Proof.Machine
end

