-- ==== Sys2Proof/Machine/Messages.lean ====
section
/-!
DEFINITION. Messages, inboxes, remote stores and loads with their journal, and collectives (14 R383 to R419), with the landing transforms of
13 R363 and the drift credits of 04 R108.
-/

namespace Sys2Proof.Machine

/-! ## Landing transforms (R363, Table 13.7) -/

/-- A BF16 encoding that is finite and non-negative, −0 among them (Table 13.7). -/
def thetaOk (n : Nat) : Bool := n == 0x8000 || (decide (n < 0x8000) && n / 2 ^ 7 % 2 ^ 8 != 255)

/-- The trit of a BF16 value at a threshold (Table 13.7). -/
def ternLanding (theta : FVal) (n : Nat) : Int :=
  let v := fdec .bf16 (fflush .bf16 n)
  if v.isNan then 0 else if ltVal theta v then 1 else if ltVal v theta.neg then -1 else 0

/-- Elements of `n` bytes of a payload. -/
def elements (n : Nat) (bs : List Byte) : List Nat := (List.range (bs.length / n)).map fun i => leAt bs (n * i) n

/-- The bytes that a payload lands at a cluster for a context, or `none` where the message is refused (R363). -/
def landing (s : State) (cl ctx lt tslot lparam : Nat) (bs : List Byte) : Option (List Byte) :=
  if lt ≠ 0 ∧ bs = [] then none
  else if tslot ≠ 0 ∧ lt ≠ 1 then none
  else
    match lt with
    | 0 => if lparam = 0 then some bs else none
    | 1 =>
      match (s.copyEng (engineOf cl)).tabs.find? fun t => t.1 == tslot with
      | some (_, t) =>
        if lparam = 0 ∧ t.owner = ctx then some (bs.flatMap fun b => bytesOf 2 (t.data.getD b.toNat 0).toNat) else none
      | none => none
    | 2 =>
      if bs.length % 10 = 0 ∧ thetaOk lparam then
        let ts := (elements 2 bs).map (ternLanding (fdec .bf16 lparam))
        some ((List.range (ts.length / 5)).map fun i => packTrits ((ts.drop (5 * i)).take 5))
      else none
    | 3 =>
      match lparam with
      | 0 => some ((elements 1 bs).flatMap fun x => bytesOf 2 (wrapN 16 (sx 8 x)))
      | 1 => some ((elements 1 bs).flatMap fun x => bytesOf 2 x)
      | 2 => if bs.length % 2 = 0 then some ((elements 2 bs).flatMap fun x => bytesOf 4 (convElement 3 0x3F800000 ⟨0, 0, []⟩ x).1) else none
      | 3 => if bs.length % 2 = 0 then some ((elements 2 bs).flatMap fun x => bytesOf 4 (convElement 4 0x3F800000 ⟨0, 0, []⟩ x).1) else none
      | _ => none
    | 4 =>
      if bs.length % 4 = 0 ∧ lparam < 256 then
        some ((List.range bs.length).map fun i => bs.getD (i / 4 * 4 + lparam / 4 ^ (i % 4) % 4) 0)
      else none
    | _ => none

/-! ## Checks at the target (R389) -/

/-- A range at a local offset of a core lies in its TCM, its tile's WS or one CSP allocation of the launch that runs there
(Table 14.4, code 5); a WS byte that a switched-out launch holds does not count (R153). -/
def rangeOk (s : State) (core off n : Nat) : Bool :=
  match localWhere off with
  | .tcm o => decide (o + n ≤ 0x10000)
  | .ws o => decide (o + n ≤ 0x200000) && !wsHeldAt s (core / 16) o n
  | .csp o => inOneAlloc s (core / 16) o n
  | _ => false

/-- Inbox entries taken by messages of the request and ordered VCs (R391). -/
def reqEntries (s : State) (core : Nat) : Nat := (s.core core).inbox.countP (·.req)

/-- The inbox of a core is full for messages of the request and ordered VCs (R391). -/
def inboxFullReq (s : State) (core : Nat) : Bool := decide (64 ≤ (s.core core).inbox.length) || decide (48 ≤ reqEntries s core)

/-- Fields of a send control word (Table 14.3): LOFF, PLEN, LT, TSLOT, LPARAM. -/
def loffOf (c : Word) : Nat := c.toNat % 2 ^ 24
/-- PLEN. -/
def plenOf (c : Word) : Nat := c.toNat / 2 ^ 24 % 2 ^ 7
/-- LT. -/
def ltOf (c : Word) : Nat := c.toNat / 2 ^ 31 % 8
/-- TSLOT. -/
def tslotOf (c : Word) : Nat := c.toNat / 2 ^ 34 % 16
/-- LPARAM. -/
def lparamOf (c : Word) : Nat := c.toNat / 2 ^ 38 % 2 ^ 16

/-- The context of a launch; 0 for none. -/
def ctxOfLaunch (s : State) (u : Nat) : Nat := (s.launch? u).elim 0 (·.ctx)

/-- The bytes that a message lands, or `none` where its transform is refused (code 2). -/
def messageBytes (s : State) (dst launch : Nat) (a : Args) (bs : List Byte) : Option (List Byte) :=
  landing s (dst / 16) (ctxOfLaunch s launch) (ltOf a.w3) (tslotOf a.w3) (lparamOf a.w3) bs

/-- Whether an arrival on a channel would set PEND. -/
def wouldPend (s : State) (core ch dec : Nat) (a : Args) : Bool := (arrive s core ch dec a .message).2

/-- The code of an `msend` message at its target (Table 14.4); a full inbox returns a message that would set PEND or does not (R391): the
choice is free. -/
def messageCode (s : State) (dst launch : Nat) (a : Args) (bs : List Byte) : Nat :=
  if coreStatus s dst launch ≠ 0 then coreStatus s dst launch
  else
    match messageBytes s dst launch a bs with
    | none => 2
    | some out =>
      if out ≠ [] ∧ !rangeOk s dst (loffOf a.w3) out.length then 5
      else if inboxFullReq s dst && !(wouldPend s dst (a.w0.toNat / 1024 % 64) (a.w0.toNat % 1024) a && Config.choose s.free) then 4
      else 0

/-- An earlier message or store of the ordered VC from the same core to the same target is still on its way (R394). -/
def orderedBehind (s : State) (n src dst : Nat) : Bool :=
  s.net.any fun p => decide (p.1 < n) &&
    (match p.2 with
      | .user slot d _ ord _ _ => ord && coreOf slot == src && d == dst
      | .store c d _ _ ord _ _ => ord && c == src && d == dst
      | _ => false)

/-! ## msend (R413) -/

/-- The address checks of a payload range (R413). -/
def payloadChecks (s : State) (va : Word) (c : Word) (place : Place) : List (Option Trap) :=
  let n := 8 * plenOf c
  let loff := wordN (loffOf c)
  let used := plenOf c != 0
  [if used && va.toNat % 8 != 0 then some (memTrap 8 .read va) else if used && loffOf c % 8 != 0 then some (memTrap 8 .write loff) else none,
    if used then copyAddress .read va n else none,
    if used && localWhere (loffOf c) == .hole then some (memTrap 7 .write loff) else none,
    if used then placeCheck s va else none,
    if (placeCore s.myCore place).isNone then some (trapI 9 0 place.toNat) else none,
    if used then (if whereIs va = .global then some (memTrap 6 .read va) else copyAccess s .read va n) else none,
    if c.toNat / 2 ^ 55 ≠ 0 ∨ 64 < plenOf c then some (trapI 22 0 0) else none]

/-- R413. -/
def execMsend (g : Guard) (d a b : Reg) (place : Place) (ch : BitVec 6) (dec : BitVec 10) (s : State) : Step :=
  head s g {} fun s =>
    let c := s.getS b
    let va := s.getS d
    let n := 8 * plenOf c
    match firstTrap (payloadChecks s va c place) with
    | some t => .trap s t
    | none =>
      let k := s.core s.myCore
      let key := localKey s.myCore (whereIs va)
      if 8 ≤ k.out then .wait s .poll
      else if plenOf c ≠ 0 ∧ parks s s.cur key n then .wait (parkWait s s.cur key n 0).1 (parkWait s s.cur key n 0).2
      else
      let s := if plenOf c = 0 then s else storesEnter s s.cur
      if plenOf c ≠ 0 ∧ s.lostIn key n then (dataLoss s s.cur (lossSub key) va).eff fun s (_ : Unit) => s
      else
        let dst := (placeCore s.myCore place).getD 0
        let bs := if plenOf c = 0 then [] else s.read key n
        let ord := c.getLsbD 54
        let w0 := coreWord dst ch.toNat dec.toNat ||| wordN (2 ^ 46 * b2n ord)
        let args : Args := ⟨w0, s.getS a, s.getS (Fin.ofNat 32 (a.val + 1)), c, if plenOf c = 0 then 0 else wordN (loffOf c)⟩
        let s := s.setCore s.myCore { k with out := k.out + 1 }
        let s := s.setSl { s.sl with msgsOut := s.sl.msgsOut + 1 }
        .retire (send s (.user s.cur dst s.myLaunch ord args bs)) .seq

/-! ## mrecv and mpeek (R414) -/

/-- An inbox entry matches a selector. -/
def selects (sel : Word) (m : InMsg) : Bool := sel.getLsbD 6 || m.args.w0.toNat / 1024 % 64 == sel.toNat % 64

/-- R414. -/
def execMrecv (g : Guard) (d a b : Reg) (s : State) : Step :=
  head s g {} fun s =>
    let sel := s.getS a
    let k := s.core s.myCore
    if sel.toNat / 128 ≠ 0 then .trap s (trapI 22 0 0)
    else
      match k.inbox.findIdx? (selects sel) with
      | none => .retire (s.setS b 0) .seq
      | some i =>
        let m := ((k.inbox[i]?).map (·.args)).getD ⟨0, 0, 0, 0, 0⟩
        let s := s.setCore s.myCore { k with inbox := ldel k.inbox i }
        let r := fun j => Fin.ofNat 32 (d.val + j)
        .retire ((((((s.setS d m.w0).setS (r 1) m.w1).setS (r 2) m.w2).setS (r 3) m.w3).setS (r 4) m.pay).setS b 1) .seq
/-- R414. -/
def execMpeek (g : Guard) (d a : Reg) (s : State) : Step :=
  head s g {} fun s =>
    let sel := s.getS a
    if sel.toNat / 128 ≠ 0 then .trap s (trapI 22 0 0)
    else .retire (s.setS d (wordN ((s.core s.myCore).inbox.countP (selects sel)))) .seq

/-! ## Remote stores and loads (R395 to R397, R415 to R418) -/

/-- The checks of a remote form (R415). -/
def remoteChecks (s : State) (k : Access) (va : Word) (place : Place) (n : Nat) : Option Trap :=
  firstTrap [copyAlign k va n,
    if va.toNat / 2 ^ 24 ≠ 0 ∨ localWhere va.toNat = .hole then some (memTrap 7 k va) else none,
    if (placeCore s.myCore place).isNone then some (trapI 9 0 place.toNat) else none]

/-- R415. -/
def execRst (g : Guard) (z : Size) (d a : Reg) (place : Place) (ord : Bool) (s : State) : Step :=
  head s g {} fun s =>
    let va := s.getS a
    match remoteChecks s .write va place (Size.bytes z) with
    | some t => .trap s t
    | none => (postStore s s.cur place va.toNat z (s.getS d) ord).eff fun s _ => s
/-- R416. -/
def execRld (g : Guard) (z : Size) (d a : Reg) (place : Place) (zx : Bool) (s : State) : Step :=
  head s g {} fun s =>
    let va := s.getS a
    match remoteChecks s .read va place (Size.bytes z) with
    | some t => .trap s t
    | none => remoteLoad s place va.toNat z d zx none (neighAddr place va.toNat)
/-- R417. -/
def execJread (g : Guard) (d a b : Reg) (s : State) : Step :=
  head s g {} fun s =>
    let e := (s.getS a).toNat
    if 32 ≤ e then .trap s (trapI 22 0 0)
    else
      let j := jentry s s.myCore e
      .retire ((s.setS b (if j.st = .free then 0 else j.data)).setS d (jinfo j)) .seq
/-- R417. -/
def execJack (g : Guard) (d a : Reg) (s : State) : Step :=
  head s g {} fun s =>
    let e := (s.getS a).toNat % 32
    if (jentry s s.myCore e).st = .refused then .retire ((setJentry s s.myCore e JEntry.init).setS d 0) .seq
    else .retire (s.setS d 1) .seq
/-- R418. -/
def execNfence (g : Guard) (rst msg : Bool) (s : State) : Step :=
  head s g {} fun s =>
    let posted := (List.range 32).any fun e => (jentry s s.myCore e).st == .posted && (jentry s s.myCore e).slot == s.cur
    if (rst && posted) || (msg && s.sl.msgsOut != 0) then .wait s .poll else .retire s .seq

/-! ## Arrivals -/

/-- Invalidates the clean sectors of a cluster data cache that hold bytes of global ranges (R393). -/
def invalidateDests (s : State) (cl : Nat) (ds : List (Nat × Nat)) : State :=
  let c := s.cluster cl
  s.setCluster cl { c with cdc := c.cdc.map fun l =>
    { l with valid := (List.range 8).foldl (fun v sec =>
        if dirtyOf l sec = [] ∧ ds.any (fun d => overlap (512 * l.la + 64 * sec) 64 d.1 d.2) then v &&& ~~~ (1#8 <<< sec) else v) l.valid } }

/-- Header word 0 of a delivered `msend` message: PCX, PCY and PCORE of the sender (Table 14.2). -/
def deliveredWord (slot : Nat) (w0 : Word) : Word := coreWord (coreOf slot) 0 0 ||| wordN (w0.toNat % 2 ^ 47)

/-- An `msend` message at its target (R389, R390): performed and acknowledged, or returned. -/
def userArrival (s : State) (slot dst launch : Nat) (a : Args) (bs : List Byte) : State :=
  match messageCode s dst launch a bs with
  | 0 =>
    let out := (messageBytes s dst launch a bs).getD []
    let s := s.draw
    let s := if out = [] then s else s.write (localKey dst (localWhere (loffOf a.w3))) out
    let s := deliver s dst (a.w0.toNat / 1024 % 64) (a.w0.toNat % 1024) { a with w0 := deliveredWord slot a.w0 } .message true
    send s (.ack slot launch)
  | code => send s.draw (.back slot launch { a with w0 := a.w0 ||| wordN (2 ^ 47 * code), pay := 0 })

/-- A message that is not one of the request and ordered VCs finds no room in the inbox of its core (R391, R392); whether one that sets PEND, and
so needs no entry, waits for one is free. -/
def noRoom (s : State) (core ch dec : Nat) (a : Args) : Bool :=
  decide (64 ≤ (s.core core).inbox.length) && !(wouldPend s core ch dec a && Config.choose s.free)

/-- An earlier message of the same engine to the same core waits for an inbox entry (R391). -/
def engineBehind (s : State) (n dst eng held : Nat) : Bool :=
  s.net.any fun p => p.1 != n &&
    (match p.2 with
      | .engine d _ e _ _ h => d == dst && e == eng && h != 0 && (held == 0 || decide (h < held))
      | _ => false)

/-- A message for a core that does not run its launch any more is discarded (R412, R465). -/
def runsLaunch (s : State) (core launch : Nat) : Bool := (s.cluster (core / 16)).launch == some launch

/-- An earlier start message of a core is on its way (R95). -/
def startBehind (s : State) (n dst : Nat) : Bool :=
  s.net.any fun p => decide (p.1 < n) && (match p.2 with | .start d _ _ => d == dst | _ => false)

/-- The message `sel` of an engine or of the queue manager reaches the NI of its target, where it waits for an inbox entry if it must (R390, R391). -/
def engineArrival (s : State) (dst launch eng : Nat) (a : Args) (dests : List (Nat × Nat)) (held : Nat) : State :=
  if !runsLaunch s dst launch then unsend s s.sel
  else if noRoom s dst (a.w0.toNat / 1024 % 64) (a.w0.toNat % 1024) a ∨ engineBehind s s.sel dst eng held then
    if held = 0 then
      let s := s.draw.older
      { s with net := tset s.net s.sel (.engine dst launch eng a dests s.age) }
    else s.draw
  else
    let s := invalidateDests (unsend s s.sel) (dst / 16) dests
    deliver s dst (a.w0.toNat / 1024 % 64) (a.w0.toNat % 1024) a .message false

/-- The start message `sel` reaches the NI of its target, where it waits for an inbox entry if it must (R95, R391). -/
def startArrival (s : State) (dst launch : Nat) (a : Args) : State :=
  if !runsLaunch s dst launch then unsend s s.sel
  else if noRoom s dst (a.w0.toNat / 1024 % 64) (a.w0.toNat % 1024) a ∨ startBehind s s.sel dst then s.draw
  else deliver (unsend s s.sel) dst (a.w0.toNat / 1024 % 64) (a.w0.toNat % 1024) a .start false

/-- R390: the message `sel` reaches the NI of its target: an `msend` message, a message of an engine or of the queue manager, or a start
message; one for a launch that is switched out is diverted (R455). -/
def execMessageArrival (s : State) : Step :=
  match arriving s with
  | some (.user slot dst launch ord a bs) =>
    if ord && orderedBehind s s.sel (coreOf slot) dst then .next s
    else .next (userArrival (unsend s s.sel) slot dst launch a bs)
  | some (.engine dst launch eng a dests held) => .next (engineArrival s dst launch eng a dests held)
  | some (.start dst launch a) => .next (startArrival s dst launch a)
  | some _ => .next s
  | none => .next (notArriving s)

/-- OUT of a core and the count of a slot's messages go down (R413, R418). -/
def messageBack (s : State) (slot : Nat) : State :=
  let k := s.core (coreOf slot)
  let s := s.setCore (coreOf slot) { k with out := k.out - 1 }
  s.setSlot slot { s.slot slot with msgsOut := (s.slot slot).msgsOut - 1 }

/-- R392: the returned message `sel` is delivered to its sender, or waits for an inbox entry. -/
def execReturnedMessage (s : State) : Step :=
  match arriving s with
  | some (.back slot launch a) =>
    let core := coreOf slot
    if !runsLaunch s core launch then .next (unsend s s.sel)
    else if noRoom s core (s.core core).rch.toNat 1 a then .next s.draw
    else .next (messageBack (deliver (unsend s s.sel) core (s.core core).rch.toNat 1 a .message false) slot)
  | some _ => .next s
  | none => .next (notArriving s)

/-- R390, R395: the acknowledgement `sel` of a message or of a posted store. -/
def execAcknowledgementArrival (s : State) : Step :=
  match arriving s with
  | some (.ack slot launch) =>
    let s := unsend s s.sel
    .next (if runsLaunch s (coreOf slot) launch then messageBack s slot else s)
  | some (.storeAck src launch entry) =>
    let s := unsend s s.sel
    .next (if runsLaunch s src launch then setJentry s src entry JEntry.init else s)
  | some _ => .next s
  | none => .next (notArriving s)

/-- The code of a remote store or load at its target (Table 14.4). -/
def remoteCode (s : State) (dst launch off n : Nat) (store : Bool) : Nat :=
  if coreStatus s dst launch ≠ 0 then coreStatus s dst launch
  else if !rangeOk s dst off n then 5
  else
    let key := localKey dst (localWhere off)
    if store then (if heldSource s (dst / 16) key n then 6 else 0)
    else if s.lostIn key n then 7 else 0

/-- R395: the posted store `sel` reaches its target. -/
def execRemoteStoreArrival (s : State) : Step :=
  match arriving s with
  | some (.store src dst launch entry ord off bs) =>
    if ord && orderedBehind s s.sel src dst then .next s
    else
      let s := unsend s s.sel
      match remoteCode s dst launch off bs.length true with
      | 0 => .next (send (s.write (localKey dst (localWhere off)) bs) (.storeAck src launch entry))
      | code => .next (send s (.storeRefused src launch entry code))
  | some _ => .next s
  | none => .next (notArriving s)

/-- The lowest held refusal of a slot that is between heads is raised (R396); its next head gives its threshold back. -/
def raiseRefusal (s : State) (n : Nat) : State :=
  let l := s.slot n
  if l.wait.issued || l.skip then s
  else
    match refusalDue s n with
    | some e => journalTrap (giveBack s n) n e l.last l.pc
    | none => s

/-- R396: the refusal `sel` of a posted store reaches its core; where the launch of the store has ended, it goes to the error record. -/
def execJournalRefusal (s : State) : Step :=
  match arriving s with
  | some (.storeRefused src launch entry code) =>
    let s := unsend s s.sel
    let j := jentry s src entry
    if !runsLaunch s src launch || j.st != .posted then .next s
    else if (s.slot j.slot).chan.isSome && (s.slot j.slot).act == j.act then
      .next (raiseRefusal (setJentry s src entry { j with st := .refused, cause := code, held := true }) j.slot)
    else
      .next (errorEntry (setJentry s src entry JEntry.init) (ctxOfLaunch s launch) 7 code (neighAddr j.place j.off)
        (placeId s j.slot) (wordN entry))
  | some (.late ctx slot entry code va) => .next (errorEntry (unsend s s.sel) ctx 7 code va (placeId s slot) (wordN entry))
  | some _ => .next s
  | none => .next (notArriving s)

/-- R397: the request `sel` of a remote load is served at its target; it parks on a guard, and goes on after the reads that have parked before it (R359). -/
def execRemoteLoadService (s : State) : Step :=
  match arriving s with
  | some (.load slot dst launch off n age) =>
    let key := localKey dst (localWhere off)
    let code := remoteCode s dst launch off n false
    if (code = 0 ∨ code = 7) ∧ (guarded s (dst / 16) key n ∨ (age ≠ 0 ∧ parkedOlder s (dst / 16) age)) then
      if age ≠ 0 then .next s
      else
        let s := s.older
        .next { s with net := tset s.net s.sel (.load slot dst launch off n s.age) }
    else .next (send (unsend s s.sel) (.loadReply slot launch code (if code = 0 then wordN (s.num key n) else 0)))
  | some _ => .next s
  | none => .next (notArriving s)

/-- SUB of a data loss at a local offset (Table 16.5). -/
def offsetSub (off : Nat) : Nat :=
  match localWhere off with
  | .ws _ => 0
  | .tcm _ => 1
  | _ => 2

/-- Raises a data loss of slot `n` at an address, with its error entry (R464); that of a stream access carries SFDET and the image (R279, R280). -/
def slotLoss (s : State) (n sub : Nat) (va : Word) : State :=
  let s := errorEntry s (s.ctxAt (clusterOf n)) 1 26 va (placeId s n) 0
  let t : Trap := ⟨26, sub, 0, va, 0, []⟩
  match (s.slot n).fetch with
  | some d => headTrap (sfTrapped s n d t).1 n (sfTrapped s n d t).2
  | none => headTrap s n t

/-- R397: the reply `sel` of a remote load reaches its slot. -/
def execRemoteLoadReply (s : State) : Step :=
  match arriving s with
  | some (.loadReply slot launch code v) =>
    let s := unsend s s.sel
    if !runsLaunch s (coreOf slot) launch then .next s
    else
      match (s.slot slot).wait with
      | .reply d n zx eng va =>
        if code = 0 then
          let t := s.setSAt slot d (extended zx (bytesOf n v.toNat))
          let t := match eng with
            | some e => semSignal t (tileOf slot) e.sj.toNat e.sn.toNat
            | none => t
          .next (finish t slot .seq (stepping s slot) none)
        else if code = 7 then .next (slotLoss s slot (offsetSub (va.toNat % 2 ^ 24)) va)
        else .next (headTrap s slot ⟨24, code, 0, va, 0, []⟩)
      | _ => .next s
  | some _ => .next s
  | none => .next (notArriving s)

/-- R108: the drift credit `sel` reaches its core. -/
def execDriftCreditArrival (s : State) : Step :=
  match arriving s with
  | some (.credit dst launch d) =>
    let s := unsend s s.sel
    let k := s.core dst
    if !runsLaunch s dst launch then .next s
    else .next (s.setCore dst { k with dcred := k.dcred.set d (if k.dcred[d] = BitVec.allOnes 16 then k.dcred[d] else k.dcred[d] + 1) })
  | some _ => .next s
  | none => .next (notArriving s)

/-- R399: the access of slot `cur` to another module has had no reply within 1 ms. -/
def execRemoteReplyTimeout (s : State) : Step :=
  match s.sl.wait with
  | .remote due va => if due ≤ s.tb then .next (slotLoss s s.cur 3 va) else .next s
  | _ => .next s

/-! ## Reads and writes of the control plane and of collective engines -/

/-- Translates an address for an agent that walks the tables itself (R505); a physical address that reaches no memory counts as a translation fault, CODE 1 of
Table 13.3, and a table line that is lost to an error as a data loss, CODE 5 (R310). -/
def planeXlate : Translator := fun s r k va =>
  match xlateWalk s r.ctx r.priv k va with
  | (s, .ok pa key) => if storable s pa then .ok s (pa, key) else .err s 1 va
  | (s, .fault c) => .err s (if c = 26 then 5 else 1) va
  | (s, .later w) => .later s w

/-- A reader that walks the tables itself. -/
def planeReader (who ctx : Nat) (priv : Bool) (wait : EngWait) : Reader := ⟨who, 0, ctx, priv, wait⟩

/-- Reads `n` bytes at a global address. -/
def planeRead (s : State) (r : Reader) (va : Word) (n : Nat) : EngAns (List Byte) := readPieces planeXlate s r va (piecesOf va n) []

/-- A range to be written, with the places of its pieces. -/
abbrev Placed := Word × List Byte × List (Nat × Nat × Nat × Nat)

/-- Translates ranges that are to be written. -/
def planePlaces (s : State) (r : Reader) : List (Word × List Byte) → EngAns (List Placed)
  | [] => .ok s []
  | x :: t =>
    (placePieces planeXlate s r x.1 (piecesOf x.1 x.2.length)).andThen fun s p =>
      (planePlaces s r t).andThen fun s l => .ok s ((x.1, x.2, p) :: l)

/-- Writes ranges at their places: the physical ranges written, and the address of a write that meets an uncorrectable error. -/
def planePuts (s : State) (who ctx : Nat) (l : List Placed) : State × List (Nat × Nat) × Option Word :=
  l.foldl (fun q x =>
    let w := engPuts q.1 who ctx x.1 x.2.1 x.2.2
    (w.1, q.2.1 ++ w.2.1, q.2.2 <|> w.2.2)) (s, [], none)

/-- Writes ranges at global addresses, once all of them are translated: the physical ranges written, and the address of a write that meets an uncorrectable error. -/
def planeWrites (s : State) (r : Reader) (l : List (Word × List Byte)) : EngAns (List (Nat × Nat) × Option Word) :=
  (planePlaces s r l).andThen fun s ps => .ok (planePuts s r.who r.ctx ps).1 (planePuts s r.who r.ctx ps).2

/-! ## Collectives (R402 to R408, R419) -/

/-- The collectives of an engine. -/
def collOps (s : State) (e : Nat) : List CollOp := tget [] s.colls e

/-- Replaces a collective of an engine. -/
def setColl (s : State) (e : Nat) (o : CollOp) : State :=
  { s with colls := tset s.colls e ((collOps s e).map fun x => if x.id == o.id then o else x) }

/-- The checks of the addresses of a collective (R419): alignment, address class, and an access fault outside the translated classes. -/
def globalChecks (s : State) (l : List (Access × Word × Nat × Nat)) : Option Trap :=
  firstTrap [l.findSome? fun x => copyAlign x.1 x.2.1 x.2.2.2, l.findSome? fun x => copyAddress x.1 x.2.1 x.2.2.1,
    l.findSome? fun x => placeCheck s x.2.1, l.findSome? fun x => if whereIs x.2.1 = .global then none else some (memTrap 6 x.1 x.2.1)]

/-- The engine of a collective (R402): TAG mod 8, free where the descriptor cannot be read; or the slot waits for the descriptor. -/
def collEngine (s : State) (desc : Word) : Except Eff (State × Nat) :=
  match planeRead s (snapReader s) desc 64 with
  | .ok s bs => .ok (s, leAt bs 16 4 % 8)
  | .err s _ _ => .ok (s.draw, Config.pick s.free % 8)
  | .later s w => .error (snapWaits s w)

/-- R419. -/
def execColl (g : Guard) (d a b c e : Reg) (kind : CollKind) (ty : EltTy) (red : RedOp) (rm : Rm) (s : State) : Step :=
  head s g {} fun s =>
    let v := (s.getS b).toNat
    let n := v % 2 ^ 32
    let checks := globalChecks s [(.write, s.getS d, n, 8), (.read, s.getS a, n, 8), (.read, s.getS c, 64, 64), (.write, s.getS e, 8, 8)]
    match firstTrap [checks,
      if v / 2 ^ 32 = 0 ∧ n ≠ 0 ∧ n % 8 = 0 ∧ n % (EltTy.width ty / 8) = 0 then none else some (trapI 23 0 0)] with
    | some t => .trap s t
    | none =>
      match collEngine s (s.getS c) with
      | .error w => w
      | .ok (s, eng) =>
        let ops := collOps s eng
        if 16 ≤ ops.countP fun o => !o.started then .wait s .poll
        else
          let s := s.older
          let o : CollOp := ⟨s.age, s.cur, s.myLaunch, s.ctx, s.sl.priv, kind, ty, red, rm, s.getS d, s.getS a, n, s.getS c, s.getS e,
            false, 0, 0, 0, 0, 0, 0, [], 0, 0, none, 0, .none⟩
          .retire { s with colls := tset s.colls eng (ops ++ [o]) } .seq

/-- A descriptor breaks a rule of Table 14.5. -/
def descriptorBad (s : State) (bs : List Byte) (kind : CollKind) : Bool :=
  let nr := leAt bs 0 2
  let mods := (List.range nr).map fun r => leAt bs (64 + 2 * r) 2
  !(decide (1 ≤ nr) && decide (nr ≤ 576) && decide (leAt bs 2 2 < nr) && decide (512 ≤ leAt bs 4 4) && decide (leAt bs 4 4 ≤ 65536) &&
    leAt bs 4 4 % 512 == 0 && decide (1000 ≤ leAt bs 8 8) && decide (leAt bs 8 8 ≤ 2 ^ 40) &&
    (if kind = .broadcast then decide (leAt bs 20 2 < nr) else leAt bs 20 2 == 0) && leAt bs 22 42 == 0 &&
    mods.all (fun m => decide (m < 576)) && decide mods.Nodup && mods.getD (leAt bs 2 2) 0 == s.module.toNat)

/-- NCH (R404). -/
def CollOp.nch (o : CollOp) : Nat := ceilDiv o.len (max o.chunk 1)

/-- Bytes of chunk `c` of a block. -/
def CollOp.chunkLen (o : CollOp) (c : Nat) : Nat := min o.chunk (o.len - c * o.chunk)

/-- What the own contributions carry (R406), without bytes. -/
def CollOp.own (o : CollOp) : Contrib := ⟨o.kind, o.ty, o.red, o.rm, o.len, o.nrank, o.chunk, o.tag, []⟩

/-- A chunk that nothing has reached. -/
def CollChunk.init : CollChunk := ⟨0, none, [], false, false⟩

/-- Chunk `c` of a collective. -/
def CollOp.part (o : CollOp) (c : Nat) : CollChunk := tget CollChunk.init o.parts c

/-- The ranks that contribute to every chunk (R404). -/
def CollOp.ranks (o : CollOp) : List Nat := if o.kind = .broadcast then [o.root] else List.range o.nrank

/-- The collective has ended on a fault. -/
def CollOp.ended (o : CollOp) : Bool := o.code == 2 || o.code == 3 || o.code == 5

/-- A chunk takes no more contributions. -/
def CollOp.chunkDone (o : CollOp) (c : Nat) : Bool :=
  let p := o.part c
  p.closed || o.ranks.all fun r => p.got.any fun x => x.1 == r

/-- A contribution of a rank to a chunk that is open reaches the engine at a time (R405, R406). -/
def contribute (o : CollOp) (c rank time : Nat) (k : Contrib) : CollOp :=
  let p := o.part c
  let p := if p.head.isNone then { p with first := time, head := some { k with bytes := [] } } else p
  if p.head = some { k with bytes := [] } ∧ k.bytes.length = o.chunkLen c then
    { o with parts := tset o.parts c { p with got := p.got ++ [(rank, k.bytes)] } }
  else if rank = o.rank then { o with parts := tset o.parts c { p with refused := true }, code := 4 }
  else { o with parts := tset o.parts c p }

/-- A chunk of a collective takes a contribution of a rank. -/
def CollOp.takes (o : CollOp) (c rank : Nat) : Bool :=
  o.started && !o.ended && decide (c < o.nch) && !(o.part c).closed && o.ranks.contains rank && !((o.part c).got.any fun x => x.1 == rank)

/-- TIMEOUT has passed at a time since the first contribution to a chunk (R405). -/
def CollOp.late (o : CollOp) (c time : Nat) : Bool := (o.part c).head.isSome && decide ((o.part c).first + o.timeout < time)

/-- A chunk that takes no more contributions. -/
def CollOp.close (o : CollOp) (c : Nat) : CollOp := { o with parts := tset o.parts c { o.part c with closed := true } }

/-- A contribution of another rank reaches the engine at a time; one that comes after TIMEOUT closes its chunk (R405). -/
def arrives (o : CollOp) (c rank time : Nat) (k : Contrib) : CollOp :=
  if rank = o.rank || !o.takes c rank then o else if o.late c time then o.close c else contribute o c rank time k

/-! ## The start of a collective -/

/-- Contributions that wait at an engine. -/
def earlyParts (s : State) (e : Nat) : List EarlyPart := tget [] s.early e

/-- A contribution that waits is meant for a collective: it names it, or it is the first of its rank and chunk for the next of the TAG (R402). -/
def EarlyPart.meant (x : EarlyPart) (o : CollOp) (before : List EarlyPart) : Bool :=
  x.op == o.id || (x.op == 0 && x.part.tag == o.tag &&
    !before.any fun y => y.op == 0 && y.part.tag == o.tag && y.rank == x.rank && y.chunk == x.chunk)

/-- Sorts the contributions that wait into those for a collective and the others, both in the order of arrival. -/
def sortEarly (o : CollOp) : List EarlyPart → List EarlyPart → List EarlyPart × List EarlyPart
  | _, [] => ([], [])
  | before, x :: t =>
    let q := sortEarly o (before ++ [x]) t
    if x.meant o before then (x :: q.1, q.2) else (q.1, x :: q.2)

/-- The collective that starts takes the contributions that have reached its engine before (R405). -/
def takesEarly (s : State) (e : Nat) (o : CollOp) : State :=
  let q := sortEarly o [] (earlyParts s e)
  setColl { s with early := tset s.early e q.2 } e (q.1.foldl (fun o x => arrives o x.chunk x.rank x.time x.part) o)

/-- A collective as a reader of global memory (R407): its engine walks the tables itself. -/
def CollOp.reader (o : CollOp) : Reader := planeReader (whoOp o.id) o.ctx o.priv o.wait

/-- CODE of Table 14.7 of a failed translation (1) or a data loss (5). -/
def collCode (c : Nat) : Nat := if c = 1 then 2 else 5

/-- The collective ends on a fault: CODE 2 with the faulting address, or CODE 5. -/
def CollOp.fails (o : CollOp) (c : Nat) (va : Word) : CollOp :=
  { o with started := true, wait := .none, code := collCode c, fva := if c = 1 then va else o.fva }

/-- The fields of a descriptor. -/
def CollOp.described (o : CollOp) (bs : List Byte) : CollOp :=
  { o with started := true, wait := .none, nrank := leAt bs 0 2, rank := leAt bs 2 2, chunk := leAt bs 4 4, timeout := leAt bs 8 8, tag := leAt bs 16 4,
           root := leAt bs 20 2 }

/-- The engine reads the descriptor of a collective and starts it (R403). -/
def startColl (s : State) (e : Nat) (o : CollOp) : State :=
  match planeRead s o.reader o.desc 64 with
  | .later s w => setColl s e { o with wait := w }
  | .err s c va => setColl s e (o.fails c va)
  | .ok s h =>
    let o := { o with tag := leAt h 16 4 }
    if leAt h 0 2 = 0 ∨ 576 < leAt h 0 2 then setColl s e { o with started := true, wait := .none, code := 3 }
    else
      match planeRead s o.reader o.desc (64 + 2 * leAt h 0 2) with
      | .later s w => setColl s e { o with wait := w }
      | .err s c va => setColl s e (o.fails c va)
      | .ok s bs =>
        if descriptorBad s bs o.kind then setColl s e { o.described bs with code := 3 } else takesEarly s e (o.described bs)

/-- The collective of an engine that starts next (R402): in acceptance order, fewer than four at once. -/
def collNext (s : State) (e : Nat) : Option CollOp :=
  if 4 ≤ (collOps s e).countP (·.started) then none else (collOps s e).find? fun o => !o.started && !opHalted s o.ctx o.launch

/-- R402, R403: the engine starts its next collective and reads the descriptor. -/
def execCollectiveStart (engine : Nat) (s : State) : Step :=
  match collNext s engine with
  | none => .next s
  | some o => .next (if o.wait.awaits s.cc then s else startColl s engine o)

/-! ## Contributions -/

/-- The bytes of chunk `c` of each block of the source of a rank (Table 14.6): one block, or NRANK of them for a reduce-scatter. -/
def sourceBlocks (s : State) (o : CollOp) (c : Nat) : Nat → Nat → List (List Byte) → EngAns (List (List Byte))
  | 0, _, acc => .ok s acc
  | n + 1, r, acc =>
    (planeRead s o.reader (o.src + wordN (r * o.len + c * o.chunk)) (o.chunkLen c)).andThen fun s bs => sourceBlocks s o c n (r + 1) (acc ++ [bs])

/-- Collective `op` of an engine. -/
def coll? (s : State) (e op : Nat) : Option CollOp := (collOps s e).find? fun o => o.id == op

/-- The own contribution to a chunk, which the engine reads from the source (R404, R405). -/
def ownPart (s : State) (e : Nat) (o : CollOp) (c : Nat) : State :=
  if !o.takes c o.rank || (o.part c).refused || o.wait.awaits s.cc then s
  else if o.late c s.tb then setColl s e (o.close c)
  else
    match sourceBlocks s o c (if o.kind = .reduceScatter then o.nrank else 1) 0 [] with
    | .later s w => setColl s e { o with wait := w }
    | .err s k va => setColl s e (o.fails k va)
    | .ok s bs =>
      setColl s e (contribute { o with wait := .none } c o.rank s.tb { o.own with bytes := bs.getD (if o.kind = .reduceScatter then o.rank else 0) [] })

/-- R405, R406: a contribution of a rank to a chunk reaches the engine; the own one is read from the source (R404), unless the engine is halted. One for a
collective that has not started is kept until it does; one for a collective that is over is absent. -/
def execCollectiveContribution (engine op rank chunk : Nat) (data : Option Contrib) (s : State) : Step :=
  match data, coll? s engine op with
  | none, none => .next s
  | none, some o => .next (if rank = o.rank && !opHalted s o.ctx o.launch then ownPart s engine o chunk else s)
  | some k, some o =>
    .next (if o.started then setColl s engine (arrives o chunk rank s.tb k)
      else { s with early := tset s.early engine (earlyParts s engine ++ [⟨op, rank, chunk, s.tb, k⟩]) })
  | some k, none =>
    .next (if op = 0 then { s with early := tset s.early engine (earlyParts s engine ++ [⟨op, rank, chunk, s.tb, k⟩]) } else s)

/-- R405: TIMEOUT has passed since the first contribution to a chunk. -/
def execCollectiveChunkTimeout (engine op chunk : Nat) (s : State) : Step :=
  match coll? s engine op with
  | none => .next s
  | some o =>
    .next (if o.started && !(o.part chunk).closed && o.late chunk s.tb then setColl s engine (o.close chunk) else s)

/-- The reduction of a chunk (R407): leaves by rank, element by element; the bytes and the flags. -/
def reduceChunk (o : CollOp) (c : Nat) : List Byte × Flags :=
  let w := EltTy.width o.ty / 8
  let got := (o.part c).got
  let rs := (List.range (o.chunkLen c / w)).map fun i =>
    reduce o.ty o.rm o.red ((List.range o.nrank).map fun r => (got.find? fun x => x.1 == r).map fun x => leAt x.2 (w * i) w)
  (rs.flatMap fun r => bytesOf w r.1, rs.foldl (fun f r => f ||| r.2) 0)

/-- The writes of a chunk: destination address and bytes (R404, R405). -/
def CollOp.writes (o : CollOp) (c : Nat) : List (Word × List Byte) :=
  let at' := o.dst + wordN (c * o.chunk)
  match o.kind with
  | .allReduce => [(at', (reduceChunk o c).1)]
  | .reduceScatter => [(at', (reduceChunk o c).1)]
  | _ => (o.part c).got.map fun x => (if o.kind = .allGather then at' + wordN (x.1 * o.len) else at', x.2)

/-- The bitmap of a chunk (R405). -/
def CollOp.bitmap (o : CollOp) (c : Nat) : List Byte :=
  bytesOf (8 * ceilDiv o.nrank 64) ((o.part c).got.foldl (fun n x => n + 2 ^ x.1) 0)

/-- The number that tells the messages of a collective engine apart. -/
def engColl (e : Nat) : Nat := 1024 + e

/-- The flags of the nodes of a collective that are evaluated (R407). -/
def CollOp.nodeFlags (o : CollOp) : Flags :=
  if o.kind = .allReduce ∨ o.kind = .reduceScatter then (List.range o.nch).foldl (fun f c => f ||| (reduceChunk o c).2) 0 else 0

/-- Everything that a collective writes: the results and the bitmaps of its chunks. -/
def CollOp.results (o : CollOp) : List (Word × List Byte) :=
  (List.range o.nch).flatMap fun c => o.writes c ++ [(o.status + wordN (8 * ceilDiv o.nrank 64 * c), o.bitmap c)]

/-- The results and the bitmaps of a collective are sent to their homes, once all of them are translated; one that has ended on a fault writes none. -/
def collSend (s : State) (o : CollOp) : State × CollOp :=
  if o.wrote.isSome then (s, o)
  else if o.ended then (s, { o with wrote := some [] })
  else
    match planeWrites s o.reader o.results with
    | .later s w => (s, { o with wait := w })
    | .err s c va => (s, { o.fails c va with wrote := some [], flags := o.nodeFlags })
    | .ok s w =>
      let o := { o with wrote := some w.1, wait := .none, flags := o.nodeFlags }
      (s, if w.2.isSome then { o with code := 5 } else o)

/-- A collective has a chunk that lacks a rank (Table 14.7). -/
def CollOp.lacks (o : CollOp) : Bool := (List.range o.nch).any fun c => o.ranks.any fun r => !((o.part c).got.any fun x => x.1 == r)

/-- A collective whose writes are performed completes with a message (R408, Table 14.7). -/
def collEnds (s : State) (engine : Nat) (o : CollOp) : State :=
  let code := if o.code ≠ 0 then o.code else if o.lacks then 1 else 0
  let s := { s with colls := tset s.colls engine ((collOps s engine).filter fun x => x.id != o.id) }
  let s := if 2 ≤ code then errorEntry s o.ctx 4 code (if code = 2 then o.fva else 0) (wordN (s.module.toNat * 2 ^ 38 + engine * 2 ^ 34)) 0
    else s
  let core := coreOf o.slot
  let bit := fun (m : Flags) (n : Nat) => if o.flags &&& m = 0 then 0 else 2 ^ n
  engineMessage s core o.launch (engColl engine) (s.core core).kch.toNat 1
    (wordN (code + bit fNV 8 + bit fOF 9 + bit fUF 10 + bit fNX 11))
    (if code = 2 then o.fva else wordN o.nch) (wordN o.tag) (o.wrote.getD [])

/-- R408: a collective whose chunks are done, or which has ended on a fault, writes its results and bitmaps and completes once they are
performed. -/
def execCollectiveComplete (engine op : Nat) (s : State) : Step :=
  match coll? s engine op with
  | none => .next s
  | some o =>
    if !o.started || opHalted s o.ctx o.launch || o.wait.awaits s.cc then .next s
    else if !o.ended && !(List.range o.nch).all o.chunkDone then .next s
    else
      let w := collSend s o
      .next (if w.2.wrote.isNone || engPending w.1 o.id then setColl w.1 engine w.2 else collEnds w.1 engine w.2)

/-! ## Writes to other modules (R399) -/

/-- Write `k` of those that await an acknowledgement of another module is acknowledged; or, 1 ms after it was sent, it is lost and recorded (R399). -/
def awayEnds (s : State) (k : Nat) (lost : Bool) : State :=
  match s.away[k]? with
  | none => s
  | some w =>
    let t := { s with away := s.away.eraseIdx k }
    if !lost then t
    else if w.due ≤ s.tb then errorEntry (opLost t w.who w.va) w.ctx 6 0 (wordN w.pa) 0 0
    else s

end Sys2Proof.Machine
end

