-- ==== Sys2Proof/Machine/Activations.lean ====
section
/-!
DEFINITION. Fetch (03 R61 to R64), activations and channels (04 R97 to R122): the handler-table instructions, the time base, drift credits,
`falign`, the range unit and the start of an activation.
-/

namespace Sys2Proof.Machine

/-! ## Fetch (R62, R63) -/

/-- Puts a line into an instruction cache of 2,048 lines (R314); which line it replaces is free. -/
def icachePut (s : State) (cl : Nat) (l : ILine) : State :=
  let c := s.cluster cl
  if c.icache.length < 2048 then s.setCluster cl { c with icache := l :: c.icache }
  else (s.setCluster cl { c with icache := lset c.icache (Config.icacheVictim s.free % 2048) l }).draw

/-- The 64 bytes of a line through the cluster instruction cache (R314): a hit, or a fill from the home slice. -/
def icacheLine (s : State) (m : Nat) (va : Word) (pa key : Nat) : Res (List Byte) :=
  let cl := clusterOf m
  match (s.cluster cl).icache.find? fun l => l.la == pa / 64 with
  | some l => .ok s l.data
  | none =>
    let q := remoteGate s [pa]
    if q.2 then
      match homeRead q.1 (whoSlot m) (pa / 64 * 64) key 64 with
      | (s, .bytes bs) => .ok (icachePut s cl ⟨pa / 64, bs⟩) bs
      | (s, .lost) => dataLoss s m 3 va
      | (s, .later) => .wait s .none
    else .wait q.1 (remoteWait s va)

/-- The image of the line at the PC of slot `m`, translated for a fetch (R63). -/
def fetchImage (s : State) (m : Nat) (pc : Word) : Res (List Byte) :=
  match whereIs pc with
  | .beyond => .trap s (memTrap 7 .fetch pc)
  | .global =>
    (xlate s m .fetch pc).andThen fun s r =>
      match globLoc s m .fetch pc false r.1 r.2 with
      | .ok _ => icacheLine s m pc r.1 r.2
      | .error t => .trap s t
  | _ => .trap s (memTrap 6 .fetch pc)

/-- A line has been fetched at a valid PC of slot `m`: the heads issue, or the successor of an end head whose body is skipped has been found
(R147), and the traps that were owed then are due. -/
def lineEntered (s : State) (m : Nat) (ps : List Parcel) : State :=
  let l := s.slot m
  if l.skip then
    let n := successor ps l.pc
    let s := s.setSlot m { l with pc := n.1, line := if n.2 then ps else [], skip := false, stepOwed := none, wait := .none }
    settleTraps s m l.last l.stepOwed.isSome none
  else s.setSlot m { l with line := ps, wait := .none }

/-- R62, R63, Table 3.7: slot `cur` fetches the line at its PC. -/
def execFetchLine (s : State) : Step :=
  let l := s.sl
  if l.chan.isNone || l.line != [] then .next s
  else
    match fetchImage s s.cur l.pc with
    | .trap s t => .next (headTrap s s.cur t)
    | .wait s w => .next (s.setSl { s.sl with wait := w })
    | .ok s bs =>
      let ps := parcelsOf bs
      match decodeLine ps with
      | .fault c => .next (headTrap s s.cur (trapI 2 c 0))
      | .heads hs =>
        if l.pc.toNat % 2 = 0 ∧ l.pc.toNat / 2 % 32 < hs.length then .next (lineEntered s s.cur ps)
        else .next (headTrap s s.cur (trapI 2 4 0))

/-- R72: an unassigned head traps when it is executed. -/
def execUnassignedOpcode (head : Parcel) (s : State) : Step :=
  .next (headTrap (barrelMoved s) s.cur (trapI 1 0 head.toNat))

/-! ## falign (R121) -/

/-- Slots of a cluster that run an activation. -/
def runningSlots (s : State) (cl : Nat) : List Nat :=
  ((List.range 64).map (64 * cl + ·)).filter fun m => (s.slot m).chan.isSome

/-- A slot is blocked at a `falign`. -/
def atAlign (s : State) (m : Nat) : Bool := match (s.slot m).wait with | .align _ => true | _ => false

/-- Every other core of the cluster that runs an activation of the channel of slot `m` has a slot blocked at a `falign` at the same PC;
this holds too when there is no such core. -/
def alignMet (s : State) (m : Nat) : Bool :=
  let l := s.slot m
  let rs := runningSlots s (clusterOf m)
  (rs.filter fun k => coreOf k != coreOf m && (s.slot k).chan == l.chan).all fun k =>
    rs.any fun x => coreOf x == coreOf k && atAlign s x && (s.slot x).pc == l.pc

/-- The slots of a cluster whose `falign` is met retire together. -/
def alignSettle (s : State) (cl : Nat) : State :=
  ((runningSlots s cl).filter fun m => atAlign s m && alignMet s m).foldl (fun s m => finish s m .seq (stepping s m) none) s

/-- R121. -/
def execFalign (g : Guard) (s : State) : Step :=
  .next (alignSettle (issue s {} (s.guardTrue g) fun s => .wait s (.align s.cc)) s.myCl)

/-- R121: 64 cc have passed since the `falign` of slot `cur` issued. -/
def execFalignTimeout (s : State) : Step :=
  match s.sl.wait with
  | .align cc => if cc + 64 ≤ s.cc then .next (finish s s.cur .seq (stepping s s.cur) none) else .next s
  | _ => .next s

/-! ## The end of an activation (R114) -/

/-- A slot free of any activation; what belongs to the launch or to the slot stays. -/
def freedSlot (l : Slot) : Slot :=
  { l.begun with chan := none, line := [], skip := false, stepOwed := none, intrap := false, lhact := false, mon := Monitor.init, f := Vector.replicate 8 StreamReg.init }

/-- A held refusal of an activation that ends goes to the error record, and its entry is freed (R396). -/
def dropRefusals (s : State) (m : Nat) : State :=
  (List.range 32).foldl (fun s e =>
    let j := jentry s (coreOf m) e
    if j.held && j.slot == m then
      errorEntry (setJentry s (coreOf m) e JEntry.init) (s.ctxAt (clusterOf m)) 7 j.cause (neighAddr j.place j.off) (placeId s m) (wordN e)
    else s) s

/-- Ends the activation of slot `m`: its stores have entered the cache, lanes, stream registers and monitor are given up, and BUSY is cleared. -/
def endActivation (s : State) (m : Nat) : State :=
  let s := dropRefusals (releaseClaim (storesEnter s m) m) m
  let l := s.slot m
  let s := match l.chan with
    | some c => setChannel s (coreOf m) c { channel s (coreOf m) c with busy := false }
    | none => s
  s.setSlot m (freedSlot l)

/-- R114. -/
def execHret (g : Guard) (s : State) : Step :=
  .next (alignSettle (issue s {} (s.guardTrue g) fun s =>
    .over (endActivation s s.cur)) s.myCl)

/-! ## Handler-table instructions (R115 to R118) -/

/-- Word 0 of an `hpost` arrival: the channel and the decrement, with the place of the receiving core where the part has it so. DESIGN CHOICE: R115 gives zext(imm),
R387 the PCX, PCY and PCORE of the receiving core, and the constant leaves it free which of them holds (log entry 48). -/
def postWord (core ch dec : Nat) : Word := if Config.hpostPlace then coreWord core ch dec else wordN (ch * 2 ^ 10 + dec)

/-- R115: a release at core scope, for which the slot's stores are performed (R430), then the arrival rule. -/
def execHpost (g : Guard) (a b : Reg) (ch : BitVec 6) (dec : BitVec 10) (s : State) : Step :=
  head s g {} fun s =>
    let s := slotRelease s Scope.core.code
    .retire (arrive s s.myCore ch.toNat dec.toNat ⟨postWord s.myCore ch.toNat dec.toNat, s.getS a, s.getS b, 0, 0⟩ .post).1 .seq

/-- R116: s[D] is written before s[A] and s[B] are read. -/
def execHarm (g : Guard) (d a b : Reg) (keep : Bool) (ch : BitVec 6) (s : State) : Step :=
  plain s g fun s =>
    let e := channel s s.myCore ch.toNat
    let s := s.setS d (e.count.signExtend 64)
    let r : BitVec 32 := BitVec.ofNat 32 (max 1 ((s.getS b).toNat % 2 ^ 31))
    setChannel s s.myCore ch.toNat
      (triggered { e with reload := if keep then e.reload else r, count := (s.getS a).setWidth 32 } ⟨0, 0, 0, 0, 0⟩ .armed)

/-- The channel mask of `hen`, `hdis` and `hpclr` (R117). -/
def channelMask (s : State) (a : Reg) (usech : Bool) (ch : BitVec 6) : Word :=
  s.getS a ||| (if usech then 1#64 <<< ch.toNat else 0)

/-- A mask instruction (R117, Table 10): the old vector of a field to s[D], and an update of the channels of the mask. -/
def maskForm (s : State) (d a : Reg) (usech : Bool) (ch : BitVec 6) (field : Channel → Bool) (f : Channel → Channel) : State :=
  let m := channelMask s a usech ch
  let old := (List.range 64).foldr (fun c n => b2n (field (channel s s.myCore c)) + 2 * n) 0
  let s := (List.range 64).foldl (fun s c => if m.getLsbD c then setChannel s s.myCore c (f (channel s s.myCore c)) else s) s
  s.setS d (wordN old)

/-- R117. -/
def execHen (g : Guard) (d a : Reg) (usech : Bool) (ch : BitVec 6) (s : State) : Step :=
  plain s g fun s => maskForm s d a usech ch (·.en) fun e => { e with en := true }
/-- R117. -/
def execHdis (g : Guard) (d a : Reg) (usech : Bool) (ch : BitVec 6) (s : State) : Step :=
  plain s g fun s => maskForm s d a usech ch (·.en) fun e => { e with en := false }
/-- R117. -/
def execHpclr (g : Guard) (d a : Reg) (usech : Bool) (ch : BitVec 6) (s : State) : Step :=
  plain s g fun s => maskForm s d a usech ch (·.pend) fun e =>
    { e with pend := false, merge := false, latch := ⟨0, 0, 0, 0, 0⟩, src := .armed }
/-- R118. -/
def execHprio (g : Guard) (d : Reg) (p : BitVec 3) (ch : BitVec 6) (s : State) : Step :=
  plain s g fun s =>
    let e := channel s s.myCore ch.toNat
    (setChannel s s.myCore ch.toNat { e with prio := p }).setS d (e.prio.setWidth 64)

/-! ## The time base (R119) -/

/-- R119. -/
def execTsread (g : Guard) (d : Reg) (s : State) : Step :=
  plain s g fun s => (s.setSl { s.sl with lastTs := wordN s.tb }).setS d (wordN s.tb)

/-! ## The drift bound (R108, R120) -/

/-- The core of the same role in the adjacent tile in direction `d` of Table 4.7, within the placement of the launch. -/
def driftNeighbour (s : State) (core d : Nat) : Option Nat :=
  let x : Int := 4 * (clX (core / 16) : Int) + ((core % 16 / 2 % 4 : Nat) : Int) + (if d = 0 then 1 else if d = 1 then -1 else 0)
  let y : Int := 2 * (clY (core / 16) : Int) + ((core % 16 / 2 / 4 : Nat) : Int) + (if d = 2 then 1 else if d = 3 then -1 else 0)
  match s.launchAt (core / 16) with
  | none => none
  | some l =>
    if x < 4 * (l.x : Int) ∨ 4 * ((l.x + l.record.pw : Nat) : Int) ≤ x ∨ y < 2 * (l.y : Int) ∨ 2 * ((l.y + l.record.ph : Nat) : Int) ≤ y then
      none
    else
      let X := x.toNat
      let Y := y.toNat
      some (16 * (32 * (Y / 2) + X / 4) + 2 * (X % 4 + 4 * (Y % 2)) + core % 2)

/-- The opposite direction (Table 4.7). -/
def opposite (d : Fin 4) : Fin 4 := Fin.ofNat 4 (if d.val % 2 = 0 then d.val + 1 else d.val - 1)

/-- R120: credits of every named direction that has a neighbour are taken together, and one is sent to each neighbour. -/
def execDsync (g : Guard) (d : Reg) (mask : BitVec 4) (s : State) : Step :=
  head s g {} fun s =>
    let k := s.core s.myCore
    let ds := (List.finRange 4).filter fun e => mask.getLsbD e.val && (driftNeighbour s s.myCore e.val).isSome
    if ds.all fun e => decide (1 ≤ (k.dcred[e]).toNat) then
      let k := { k with dcred := ds.foldl (fun (v : Vector (BitVec 16) 4) (e : Fin 4) => v.set e (v[e] - 1)) k.dcred, p := k.p + 1 }
      let s := s.setCore s.myCore k
      let s := ds.foldl (fun s e => send s (.credit ((driftNeighbour s s.myCore e.val).getD 0) s.myLaunch (opposite e))) s
      .retire (s.setS d (k.p.setWidth 64)) .seq
    else .wait s .drift

/-! ## The range unit (R109, R122) -/

/-- The die of the range unit of a launch: that of the placement's north-west cluster. -/
def homeDie (x y : Nat) : Nat := dieOf (32 * y + x)

/-- R122: the request is sent, and the slot waits for the reply. -/
def execRtake (g : Guard) (d b : Reg) (obj : BitVec 4) (s : State) : Step :=
  head s g {} fun s =>
    match s.launchAt s.myCl with
    | none => .trap s (trapI 27 0 obj.toNat)
    | some l =>
      if l.ranges.length ≤ obj.toNat then .trap s (trapI 27 0 obj.toNat)
      else
        let h := homeDie l.x l.y
        let u := s.die h
        .wait (s.setDie h { u with ranges := u.ranges ++ [⟨s.cur, s.myLaunch, d, b, obj.toNat⟩] }) (.range false)

/-- A chunk of a range object (R109): start, length, and the object after it. -/
def rangeTake (r : RangeObj) : Nat × Nat × RangeObj :=
  if r.e - r.n = 0 then (r.e, 0, r)
  else
    let len := min (r.e - r.n) (max r.minc (ceilDiv (r.e - r.n) r.dv))
    (r.n, len, { r with n := r.n + len })

/-- R109: the range unit of a die serves its oldest request; those of a launch that is switched out are held (R111). -/
def execRangeUnitService (die : Nat) (s : State) : Step :=
  let u := s.die die
  match u.ranges.findIdx? fun r => !launchOut s r.launch with
  | none => .next s
  | some i =>
    match u.ranges[i]? with
    | none => .next s
    | some r =>
      let s := s.setDie die { u with ranges := ldel u.ranges i }
      match s.launch? r.launch, (s.slot r.slot).wait with
      | some l, .range fresh =>
        match l.ranges[r.obj]? with
        | none => .next s
        | some o =>
          let q := rangeTake o
          let s := s.setLaunch r.launch { l with ranges := lset l.ranges r.obj q.2.2 }
          let s := (s.setSAt r.slot r.b (wordN q.2.1)).setSAt r.slot r.d (wordN q.1)
          .next (finish s r.slot (if fresh then .afresh else .seq) (stepping s r.slot) none)
      | _, _ => .next s

/-! ## The start of an activation (R101, R102) -/

/-- An eligible channel (R101). -/
def eligible (e : Channel) : Bool := e.en && e.pend && !e.busy

/-- The eligible channel of highest priority, and among those of lowest index. -/
def selectedChannel (s : State) (core : Nat) : Option Nat :=
  (List.range 64).foldl (fun best c =>
    if eligible (channel s core c) then
      match best with
      | none => some c
      | some b => if (channel s core b).prio.toNat < (channel s core c).prio.toNat then some c else some b
    else best) none

/-- The lowest free slot of a core. -/
def freeSlot (s : State) (core : Nat) : Option Nat :=
  ((List.range 4).map (4 * core + ·)).find? fun m => (s.slot m).chan.isNone && (s.slot m).wait != .stopped

/-- The local address of the instance of allocation `i` that belongs to a core, its tile or its cluster (Table 4.6, R93). -/
def regionBase (s : State) (core u : Nat) (l : Launch) (i : Nat) : Nat :=
  let as := l.record.allocs
  match as[i]? with
  | none => 0
  | some a =>
    if a.kind = 0 then tcmBase as i
    else if a.kind = 1 then 0x200000 + wsBaseOf as (s.cluster (core / 16)).wsBase i
    else
      let mine := (s.cluster (core / 16)).allocs.filter fun x => x.owner == u && !x.spal
      0x800000 + 4096 * ((mine[(as.take i).countP (·.kind == 2)]?).elim 0 (·.base))

/-- s11 (Table 4.6). -/
def placeWord (l : Launch) (core : Nat) : Word :=
  wordN (clX (core / 16) - l.x + 2 ^ 5 * (clY (core / 16) - l.y) + 2 ^ 10 * (core % 16) + 2 ^ 14 * l.record.pw + 2 ^ 20 * l.record.ph)

/-- s6 (Table 4.6). -/
def channelWord (c : Nat) (e : Channel) : Word :=
  wordN (c + 2 ^ 6 * b2n (e.src == .post) + 2 ^ 7 * b2n (e.merge && e.src != .armed) + 2 ^ 8 * b2n (e.src == .start))

/-- The s registers at the start of an activation of channel `c` (Table 4.6). -/
def startRegs (s : State) (core u : Nat) (l : Launch) (c : Nat) (e : Channel) : Vector Word 32 :=
  let z : Vector Word 32 := Vector.replicate 32 0
  let r := ((((z.set 1 e.latch.w0).set 2 e.latch.w1).set 3 e.latch.w2).set 4 e.latch.w3).set 5 e.latch.pay
  let reg := fun k => match e.regs[k]? with | some i => wordN (regionBase s core u l i) | none => 0
  (((((r.set 6 (channelWord c e)).set 7 (reg 0)).set 8 (reg 1)).set 9 (reg 2)).set 10 (reg 3)).set 11 (placeWord l core)

/-- R101, R102: a core starts its selected channel in its lowest free slot; not for a context that is being torn down (R465, R471). -/
def execActivationStart (core : Nat) (s : State) : Step :=
  match (s.cluster (core / 16)).launch, selectedChannel s core, freeSlot s core with
  | some u, some c, some m =>
    match (s.launch? u).filter fun l => !tearing s l.ctx with
    | none => .next s
    | some l =>
      let e := channel s core c
      let s := setChannel s.older core c { e with pend := false, merge := false, busy := true }
      let old := s.slot m
      .next (s.setSlot m { Slot.init with
        s := startRegs s core u l c e, pc := e.haddr, chan := some c, priv := l.priv, startCc := s.cc, act := s.age
        step := old.step, msgsOut := old.msgsOut, lastTs := old.lastTs })
  | _, _, _ => .next s

end Sys2Proof.Machine
end

