-- ==== Sys2Proof/Machine/Caches.lean ====
section
/-!
DEFINITION. The range forms on the cluster caches, prefetch and zeroing (11 R316 to R321), and the events of the home slices (11 R298, R304, R305,
R307).
-/

namespace Sys2Proof.Machine

/-! ## Range forms (R318) -/

/-- Applies an operation to the sectors of a cluster data cache that lie in `n` bytes from a block boundary. -/
def cdcRange (op : State → Nat → Nat → State) (s : State) (cl pa n : Nat) : State :=
  (s.cluster cl).cdc.foldl (fun s l =>
    (List.range 8).foldl (fun s k =>
      let a := 512 * l.la + 64 * k
      if pa ≤ a ∧ a < pa + n then op s cl a else s) s) s

/-- Sends the dirty bytes of the sector of an address to their home (R313). -/
def cdcClean (s : State) (cl pa : Nat) : State :=
  match cdcFind (s.cluster cl) (pa / 512) with
  | some l => sendBack s cl l (pa % 512 / 64)
  | none => s

/-- The blocks of a range, from block `b` to block `e`, page by page (R318): `op` acts on `n` bytes from a physical address. The blocks before a page that
faults keep their effects, and a walk does not undo those before it. -/
def rangeGo (k : Access) (op : State → Nat → Nat → State) (e : Nat) : Nat → State → Nat → Res Unit
  | 0, s, _ => .ok s ()
  | fuel + 1, s, b =>
    if e < b then .ok s ()
    else
      let va := wordN (64 * b)
      let last := min e (b / 1024 * 1024 + 1023)
      match whereIs va with
      | .global =>
        match xlate s s.cur k va with
        | .ok s r =>
          match globLoc s s.cur k va false r.1 r.2 with
          | .error t => .trap s t
          | .ok _ => rangeGo k op e fuel (op s r.1 (64 * (last + 1 - b))) (last + 1)
        | .trap s t => .trap s t
        | .wait s w => .wait (s.setSl { s.sl with block := b }) w
      | .window _ _ => .trap s (memTrap 6 k va)
      | _ => .trap s (memTrap 7 k va)

/-- A range form from s[A] for s[B] bytes, after the slot's stores; blocks below 2^41 are skipped (R318). -/
def rangeForm (s : State) (k : Access) (a b : Reg) (op : State → Nat → Nat → State) : Res Unit :=
  let va := (s.getS a).toNat
  let n := (s.getS b).toNat
  let s := storesEnter s s.cur
  if n = 0 then .ok s ()
  else if 2 ^ 64 < va + n then .trap s (memTrap 7 k (s.getS a))
  else
    let e := (va + n - 1) / 64
    rangeGo k op e (e / 1024 + 2) s (max (max (va / 64) (2 ^ 41 / 64)) s.sl.block)

/-- A range form that writes back, whose write-backs have been sent: it waits until they, and those of the cluster before them, are performed at their home slices
(Table 11.8). -/
def backPerformed (s : State) : Eff :=
  let a := s.sl.rel.getD s.age
  if writesUpTo s (whoCdc s.myCl) a || awayUpTo s (whoCdc s.myCl) a then .wait s .poll else .retire s .seq

/-- A range form that writes back (R318): `op` sends the dirty bytes of a block, once; with a length of 0 the form retires. -/
def backForm (s : State) (a b : Reg) (op : State → Nat → Nat → State) : Eff :=
  if s.sl.rel.isSome then backPerformed s
  else
    (rangeForm s .read a b fun s pa n => cdcRange op s s.myCl pa n).effThen fun s _ =>
      if (s.getS b).toNat = 0 then .retire s .seq else backPerformed (awaitsSent s)

/-- R318. -/
def execCwb (g : Guard) (a b : Reg) (s : State) : Host.Outcome State Fault Refusal :=
  head s g {} fun s => backForm s a b cdcClean

/-- R318. -/
def execCinv (g : Guard) (a b : Reg) (s : State) : Host.Outcome State Fault Refusal :=
  head s g {} fun s => (rangeForm s .write a b fun s pa n => cdcRange cdcDiscard s s.myCl pa n).eff fun s _ => s

/-- R318. -/
def execCwbi (g : Guard) (a b : Reg) (s : State) : Host.Outcome State Fault Refusal :=
  head s g {} fun s => backForm s a b fun s cl pa => cdcDiscard (cdcClean s cl pa) cl pa

/-- The blocks of a page that an `iinv` covers are recorded; their lines are invalidated when it completes (R319). -/
def noteIinv (s : State) (pa n : Nat) : State :=
  let c := s.cluster s.myCl
  s.setCluster s.myCl { c with iinvs := c.iinvs ++ [⟨s.cur, [(pa / 64, n / 64)]⟩] }

/-- R318, R319. -/
def execIinv (g : Guard) (a b : Reg) (s : State) : Host.Outcome State Fault Refusal :=
  head s g {} fun s => (rangeForm s .read a b noteIinv).eff fun s _ => s

/-- R319. -/
def execIbar (g : Guard) (s : State) : Host.Outcome State Fault Refusal :=
  head s g {} fun s =>
    if (s.cluster s.myCl).iinvs.any fun i => i.slot == s.cur then .wait s .poll else .retire s .afresh

/-- The lines of the `iinv`s of a cluster that have not completed become absent, and they complete. -/
def completeIinvs (s : State) (cl : Nat) : State :=
  let c := s.cluster cl
  let gone := fun l : ILine => c.iinvs.any fun v => v.blocks.any fun r => decide (r.1 ≤ l.la) && decide (l.la < r.1 + r.2)
  s.setCluster cl { c with iinvs := [], icache := c.icache.filter fun l => !gone l }

/-- R319: an `iinv` of a cluster, the item `sel` among them, completes, and its lines are absent. -/
def execIinvComplete (cl : Nat) (s : State) : Host.Outcome State Fault Refusal :=
  let c := s.cluster cl
  let i := s.sel % c.iinvs.length
  match c.iinvs[i]? with
  | none => .next s
  | some v =>
    let gone := fun l : ILine => v.blocks.any fun r => decide (r.1 ≤ l.la) && decide (l.la < r.1 + r.2)
    .next (s.setCluster cl { c with iinvs := ldel c.iinvs i, icache := c.icache.filter fun l => !gone l })

/-! ## Prefetch and zeroing (R320, R321) -/

/-- A prefetch of a line arrives at its home slice, which serves it in an event of its own (R320). -/
def postFetch (s : State) (pa key : Nat) : State :=
  let la := pa % 2 ^ 42 / 512
  enqueue s (homeSlice s la) ⟨la, key, .fetch, whoWalk, [], 0, 0⟩

/-- A walk of a cluster for the 64 KiB page of an address is queued or walking (R330). -/
def pageWalked (s : State) (cl : Nat) (va : Word) : Bool :=
  (s.die (dieOf cl)).walks.any fun r => r.cl == cl && r.ctx == s.ctxAt cl && r.va.toNat / 2 ^ 16 == va.toNat / 2 ^ 16

/-- The sectors of a line are filled, clean, into the cache of a cluster; one whose read has to wait is dropped (R320). -/
def fetchSectors (s : State) (cl pa key : Nat) : State :=
  (List.range 8).foldl (fun s k => (cdcLoad s cl (pa / 512 * 512 + 64 * k) key 1).1) s

/-- Line `k` that an `l2pf` of a cluster still has to prefetch (R320): a hint, which is served or dropped, also where the walk queue is full. -/
def prefetchLine (s : State) (cl k : Nat) : State :=
  match (s.cluster cl).fetches[k]? with
  | none => s
  | some (n, va, priv, cdc) =>
    let c := s.cluster cl
    let dropped := s.draw.setCluster cl { c with fetches := ldel c.fetches k }
    if !Config.choose s.free then dropped
    else
      match xlateFor dropped cl (s.ctxAt cl) (whoFetch n) priv .read va none with
      | (t, .ok pa key) => if !ownMemory t pa then t else if cdc then fetchSectors (postFetch t pa key) cl pa key else postFetch t pa key
      | (t, .later .walk) => t.setCluster cl { t.cluster cl with fetches := c.fetches }
      | (t, _) => t

/-- R320: it retires at issue; its lines are prefetched later, and those that are not global are skipped. -/
def execL2pf (g : Guard) (a : Reg) (n1 : BitVec 8) (cdc : Bool) (s : State) : Host.Outcome State Fault Refusal :=
  plain s g fun s =>
    let s := if cdc then storesEnter s s.cur else s
    let vas := (List.range (n1.toNat + 1)).map fun i => wordN ((s.getS a).toNat / 512 * 512 + 512 * i)
    let c := s.cluster s.myCl
    s.setCluster s.myCl { c with
      fetches := c.fetches ++ (vas.filter fun va => whereIs va == .global).map fun va => (s.cur, va, s.sl.priv, cdc) }

/-- The line at a physical address is zeroed: its sectors leave the executing cluster's CDC, and the zeroing goes to the home slice, behind what waits there for
the line; the head retires when it is performed (R321). -/
def zeroLine (s : State) (pa key : Nat) : Eff :=
  let s := (List.range 8).foldl (fun s k => cdcDiscard s s.myCl (pa + 64 * k)) s
  .sent (if ownMemory s pa then (atHome s ⟨pa % 2 ^ 42 / 512, key, .zero, whoZero s.cur, [], 0, 0⟩).1
    else sendAway s (whoZero s.cur) s.ctx (pa / 512) 0)

/-- R321. -/
def execL2zero (g : Guard) (a : Reg) (s : State) : Host.Outcome State Fault Refusal :=
  head s g {} fun s =>
    let va := s.getS a
    if va.toNat % 512 ≠ 0 then .trap s (memTrap 8 .write va)
    else
      match whereIs va with
      | .global =>
        (xlate s s.cur .write va).effThen fun s r =>
          match globLoc s s.cur .write va false r.1 r.2 with
          | .error t => .trap s t
          | .ok _ => zeroLine (storesEnter s s.cur) r.1 r.2
      | .beyond => .trap s (memTrap 7 .write va)
      | _ => .trap s (memTrap 6 .write va)

/-! ## Events of the home slices (R298, R304, R305, R307) -/

/-- The requests of a slice that it may serve. -/
def servable (s : State) (n : Nat) : List L2Req := (slice s n).reqs.filter (mayServe s n)

/-- R298: a slice serves one of the requests that it may, the item `sel` among them. -/
def execL2RequestService (n : Nat) (s : State) : Host.Outcome State Fault Refusal :=
  match (servable s n)[s.sel % (servable s n).length]? with
  | none => .next s
  | some r => .next (serveWaiting s n r)

/-- A refused write may be replayed: its line does not stand in the write-back buffer (R307), and it waits for no snoop (R496). -/
def mayReplay (s : State) (n : Nat) (r : L2Req) : Bool := !((slice s n).wbuf.any (·.la == r.la)) && !s.mgmt.snoops.contains r.la

/-- Refused write `k` of a slice leaves the refusal queue. -/
def unrefuse (s : State) (n k : Nat) : State := setSlice s n { slice s n with refused := ldel (slice s n).refused k }

/-- R305: refused write `k` of a slice is replayed; at the head of the queue it may use the reserve. A snoop goes before it where the host may hold the line (R496), and
the engine of one that meets an error is told (R310). An atomic is replayed by its slot, which executes it again. -/
def execL2WriteReplay (n k : Nat) (s : State) : Host.Outcome State Fault Refusal :=
  match (slice s n).refused[k]? with
  | none => .next s
  | some r =>
    if r.kind = .atomic then .next (if (s.slot (r.who - whoSlot 0)).wait = .poll then s else unrefuse s n k)
    else if !mayReplay s n r then .next s
    else if snoopFirst s r then .next (snoopHost s r.la)
    else
      let q := serve (settleLine s n r.la) n r (k == 0)
      let q := if q.2 = .lost then serve (opLost q.1 r.who r.va) n r (k == 0) else q
      .next (if q.2 = .served then unrefuse q.1 n k else refuse q.1 n r true)

/-- R304, R305: the oldest entry of the write-back buffer is written to LPDDR-6. -/
def execWriteBackBufferDrain (n : Nat) (s : State) : Host.Outcome State Fault Refusal := .next (drainOne s n)

/-- R307: the data of fill `k` of a slice return: the line is filled, or its request served without allocation. -/
def execL2FillReturn (n k : Nat) (s : State) : Host.Outcome State Fault Refusal :=
  match (slice s n).fills[k]? with
  | none => .next s
  | some r => .next (serve (setSlice s n { slice s n with fills := ldel (slice s n).fills k }) n r false).1

end Sys2Proof.Machine
end

