-- ==== Sys2Proof/Machine/Queue.lean ====
section
/-!
DEFINITION. Task streams (16 R440 to R445, R505): descriptors, entries, appends and `lnch` (04 R123), stream semaphores, mapping and inheritance.
-/

namespace Sys2Proof.Machine

/-! ## Descriptors (R440, R495) -/

/-- The stream table (R495). -/
def streamTable : Nat := 0x02000000

/-- A field of the descriptor of a stream (Table 16.1). -/
def streamField (s : State) (n off k : Nat) : Nat := ownNum s (streamTable + 64 * n + off) k

/-- The descriptor of a stream is read at its home. -/
def streamTouch (s : State) (n : Nat) : State := planeTouch s (streamTable + 64 * n) 64

/-- V of a stream. -/
def streamValid (s : State) (n : Nat) : Bool := fB (streamField s n 0 1) 0

/-- PRIV of a stream: the mode of its activations and of the queue manager's translations (R505). -/
def streamPriv (s : State) (n : Nat) : Bool := fB (streamField s n 0 1) 1

/-- PRIO of a stream. -/
def streamPrio (s : State) (n : Nat) : Nat := streamField s n 0 1 / 4 % 8

/-- WEIGHT of a stream. -/
def streamWeight (s : State) (n : Nat) : Nat := streamField s n 2 1

/-- The context that owns a stream. -/
def streamCtx (s : State) (n : Nat) : Nat := streamField s n 4 2

/-- NENT of a stream. -/
def streamNent (s : State) (n : Nat) : Nat := streamField s n 16 4

/-- The address of entry `i` of a stream (Table 16.1). -/
def entryAddr (s : State) (n i : Nat) : Word := wordN (streamField s n 8 8 + 16 * (i % max (streamNent s n) 1))

/-- Writes bytes of the firmware region at their home, in plain text (R495). -/
def planeStore (s : State) (off : Nat) (bs : List Byte) : State := homeWrite s whoPlane 0 (s.module.toNat * 2 ^ 42 + off) 0 bs

/-- V of a context's descriptor. -/
def ctxValid (s : State) (c : Nat) : Bool := decide (c < 4096) && fB (ctxField s c 0 1) 0

/-! ## Mapped streams -/

/-- Stream `n`, if it is mapped. -/
def mapped? (s : State) (n : Nat) : Option MStream := (s.qm.streams.find? fun p => p.1 == n).map (·.2)

/-- Replaces a mapped stream. -/
def setStream (s : State) (n : Nat) (m : MStream) : State := { s with qm := { s.qm with streams := tset s.qm.streams n m } }

/-- HEAD and TAIL of a stream, mapped or not (R443). -/
def headTail (s : State) (n : Nat) : Nat × Nat :=
  match mapped? s n with
  | some m => (m.head, m.tail)
  | none => (streamField s n 24 8, streamField s n 32 8)

/-- A mapped stream is idle (R443). -/
def MStream.isIdle (m : MStream) : Bool := m.head == m.tail || (m.blocked.isSome && m.launch.isNone)

/-- Records since when a mapped stream has been idle. -/
def settleIdle (s : State) (n : Nat) : State :=
  match mapped? s n with
  | some m =>
    if m.isIdle then (if m.idle.isSome then s else setStream s.older n { m with idle := some s.age }) else setStream s n { m with idle := none }
  | none => s

/-- The effective priority of a stream: its own, or the one that it has inherited (R444). -/
def effPrio (s : State) (n : Nat) : Nat := max (streamPrio s n) ((s.qm.boosts.find? fun p => p.1 == n).elim 0 (·.2.1))

/-- An unmapped stream with entries waits for a mapping, in the order of its first submission (R443). -/
def submitted (s : State) (n : Nat) : State :=
  if s.qm.subs.contains n then s else { s with qm := { s.qm with subs := s.qm.subs ++ [n] } }

/-! ## Reads and writes of the queue manager (R505) -/

/-- The queue manager as a reader for a stream, which may have waited (R399). -/
def streamReader (s : State) (n : Nat) : Reader := planeReader whoPlane (streamCtx s n) (streamPriv s n) (tget .none s.qm.waits n)

/-- A read of the queue manager for a stream has to be made again. -/
def queueWaits (s : State) (n : Nat) (w : EngWait) : State := { s with qm := { s.qm with waits := tset s.qm.waits n w } }

/-- The queue manager waits no longer for a stream. -/
def queueGoes (s : State) (n : Nat) : State := { s with qm := { s.qm with waits := tdel s.qm.waits n } }

/-! ## Appends (R441) -/

/-- Appends 16 bytes at TAIL of a stream: 0, or 1 when it is full, 4 when the entry cannot be written. -/
def appendEntry (s : State) (n : Nat) (bs : List Byte) : EngAns Nat :=
  let q := headTail s n
  if (q.2 + 2 ^ 64 - q.1) % 2 ^ 64 = streamNent s n then .ok s 1
  else
    match planeWrites s (streamReader s n) [(entryAddr s n q.2, bs)] with
    | .later s w => .later s w
    | .err s _ _ => .ok s 4
    | .ok s w =>
      if w.2.isSome then .ok s 4
      else
        match mapped? s n with
        | some m => .ok (settleIdle (setStream s n { m with tail := (q.2 + 1) % 2 ^ 64 }) n) 0
        | none => .ok (submitted (planeStore s (streamTable + 64 * n + 32) (bytesOf 8 (q.2 + 1))) n) 0

/-- submit(a, n) for a context (R123): the status. A stream of a context that is torn down yields 2 (log entry 49). -/
def submit (s : State) (c : Nat) (a : Word) (n : Nat) : EngAns Nat :=
  let s := streamTouch s n
  if !streamValid s n || streamCtx s n != c || tearing s c then .ok s 2
  else appendEntry s n (bytesOf 8 1 ++ bytesOf 8 a.toNat)

/-- R123. -/
def execLnch (g : Guard) (d a b : Reg) (s : State) : Step :=
  head s g {} fun s =>
    let va := s.getS a
    if va.toNat % 64 ≠ 0 then .retire (s.setS d 3) .seq
    else
      match whereIs va with
      | .beyond => .trap s (memTrap 7 .read va)
      | .global =>
        (xlate s s.cur .read va).effThen fun s _ =>
          let s := slotRelease s Scope.module.code
          if !slotReleased s Scope.module.code || planeBusy s then .wait s .poll
          else
            match submit s s.ctx va ((s.getS b).toNat % 2 ^ 16) with
            | .ok s r => .retire (s.setS d (wordN r)) .seq
            | .err s _ _ => .wait s .poll
            | .later s _ => .wait s .poll
      | _ => .trap s (memTrap 6 .read va)

/-! ## Entries (R442) -/

/-- A stream entry (Table 16.2). -/
structure Entry where
  kind  : Nat
  sem   : Nat
  value : Nat
  addr  : Word
  deriving DecidableEq, Repr

/-- The entry in 16 bytes. -/
def entryOf (bs : List Byte) : Entry := ⟨leAt bs 0 1 % 128, leAt bs 2 2, leAt bs 4 4, wordN (leAt bs 8 8)⟩

/-- Entry `i` of a stream (R505). -/
def readEntry (s : State) (n i : Nat) : EngAns Entry :=
  (planeRead s (streamReader s n) (entryAddr s n i) 16).andThen fun s bs => .ok s (entryOf bs)

/-! ## The round-robin pointers (R445) -/

/-- The entry at HEAD of a stream is a LAUNCH; where it cannot be read yet, the pointer does not move. -/
def headLaunches (s : State) (n : Nat) (m : MStream) : State × Bool :=
  match readEntry s n m.head with
  | .ok s e => (s, e.kind == 1)
  | .err s _ _ => (s, false)
  | .later s w => (queueWaits s n w, true)

/-- A mapped stream has a LAUNCH entry at its head: its launch is ready, or runs. -/
def launchAtHead (s : State) (n : Nat) : State × Bool :=
  match mapped? s n with
  | some m =>
    if m.stopped || m.head == m.tail then (s, false) else if m.ready.isSome || m.launch.isSome then (s, true) else headLaunches s n m
  | none => (s, false)

/-- Streams with a ready launch, contracts or others of one effective priority, in ascending number. -/
def readyStreams (s : State) (rtc : Bool) (prio : Option Nat) : List Nat :=
  (s.qm.streams.filter fun p =>
    (p.2.ready.any fun r => r.rtc == rtc) && !p.2.stopped && prio.all fun q => effPrio s p.1 == q).map (·.1)

/-- The stream at the pointer of a priority and the launches that it has started; no stream before the pointer first comes to one. -/
def pointerAt (s : State) (prio : Nat) : Nat × Nat := tget (65535, 256) s.qm.turn prio

/-- The pointer of a priority stays where it is: the stream has started fewer than WEIGHT launches and has a launch. -/
def pointerStays (s : State) (prio : Nat) : State × Bool :=
  let q := pointerAt s prio
  if decide (q.2 < streamWeight s q.1) && effPrio s q.1 == prio then launchAtHead s q.1 else (s, false)

/-- A pointer that does not stay moves to the next stream with a ready launch, ascending and wrapping; where there is none, the turn is over. -/
def settleTurn (s : State) (prio : Nat) : State :=
  let p := pointerStays s prio
  let s := p.1
  if p.2 then s
  else
    let q := pointerAt s prio
    let ready := readyStreams s false (some prio)
    let next := match ready.find? fun n => decide (q.1 < n) with
      | some n => (n, 0)
      | none => (ready.head?.elim (q.1, 256) fun n => (n, 0))
    { s with qm := { s.qm with turn := tset s.qm.turn prio next } }

/-- The pointers of all priorities move where they do not stay. -/
def settleTurns (s : State) : State := (List.range 8).foldl settleTurn s

/-- The stream stops at an entry that cannot be read or marked (R442, R506). -/
def stopUnreadable (s : State) (n : Nat) : State :=
  let s := queueGoes s n
  match mapped? s n with
  | some m =>
    settleTurns (setStream (errorEntry s (streamCtx s n) 14 0 (entryAddr s n m.head) 0 (wordN n)) n { m with stopped := true, blocked := none })
  | none => s

/-- The bytes that mark an entry done with a status and a value (R442). -/
def doneBytes (e : Entry) (status value : Nat) : List Byte := bytesOf 1 (128 + e.kind) ++ bytesOf 1 status ++ bytesOf 2 e.sem ++ bytesOf 4 value

/-- HEAD of a stream advances past an entry that is done; `stop` stops the stream after it. -/
def headMoves (s : State) (n : Nat) (stop : Bool) : State :=
  match mapped? s n with
  | none => s
  | some m =>
    settleTurns (settleIdle (setStream (queueGoes s n) n { m with
      head := (m.head + 1) % 2 ^ 64, stopped := stop, ready := none, placed := none, cancel := false, launch := none, blocked := none }) n)

/-- The stream stops at an entry that it cannot mark. -/
def unmarked (s : State) (n : Nat) : State :=
  match mapped? s n with
  | none => s
  | some m => stopUnreadable (setStream s n { m with ready := none, placed := none, launch := none }) n

/-- The head entry of a stream is done with a status, and HEAD advances (R442): `f` is its effect. Where it cannot be marked, the stream stops at it without
the effect, and `g` is what has to happen all the same; where its line cannot be written yet, nothing happens. -/
def doneWith (s : State) (n : Nat) (e : Entry) (status value : Nat) (stop : Bool) (f g : State → State) : State :=
  match mapped? s n with
  | none => s
  | some m =>
    match planeWrites s (streamReader s n) [(entryAddr s n m.head, doneBytes e status value)] with
    | .later s _ => s
    | .err s _ _ => unmarked (g s) n
    | .ok s w => if w.2.isSome then unmarked (g s) n else headMoves (f s) n stop

/-- The head entry of a stream is done with a status and no other effect. -/
def entryDone (s : State) (n : Nat) (e : Entry) (status value : Nat) (stop : Bool) : State := doneWith s n e status value stop id id

/-- What the queue manager finds at the head of a stream: nothing to execute; an entry; one that cannot be read; or one whose read it has to make again. -/
inductive HeadAns where
  | none
  | entry (s : State) (m : MStream) (e : Entry)
  | unreadable (s : State)
  | later (s : State)

/-- The head entry of a stream that is to be executed: mapped, not stopped, not empty, no launch checked or running. -/
def headEntry (s : State) (n : Nat) : HeadAns :=
  let s := streamTouch s n
  match mapped? s n with
  | some m =>
    if m.stopped || m.head == m.tail || m.launch.isSome || m.ready.isSome then .none
    else
      match readEntry s n m.head with
      | .ok s e => .entry s m e
      | .err s _ _ => .unreadable s
      | .later s w => .later (queueWaits s n w)
  | none => .none

/-! ## Stream semaphores (R442, R495) -/

/-- The offset of a stream semaphore. -/
def semOff (k : Nat) : Nat := 0x06000000 + 8 * k

/-- The value of a stream semaphore. -/
def streamSem (s : State) (k : Nat) : Nat := ownNum s (semOff k) 4

/-- Writes the value of a stream semaphore. -/
def setStreamSem (s : State) (k v : Nat) : State := planeStore s (semOff k) (bytesOf 4 v)

/-- A stream's context owns a semaphore. -/
def semMine (s : State) (n k : Nat) : Bool :=
  decide (k < 4096) && (s.qm.owners.find? fun p => p.1 == k).any fun p => p.2 == streamCtx s n

/-- The WAIT entry at the head of a stream (R442). -/
def waitEntry (s : State) (n : Nat) (m : MStream) (e : Entry) : State :=
  let s := planeTouch s (semOff e.sem) 4
  if !semMine s n e.sem then entryDone s n e 10 e.value true
  else if e.value ≤ streamSem s e.sem then doneWith s n e 0 e.value false (fun s => setStreamSem s e.sem (streamSem s e.sem - e.value)) id
  else settleIdle (setStream s n { m with blocked := some (m.blocked.getD s.tb) }) n

/-- R442: the WAIT entry at the head of stream `sel`. -/
def execStreamWaitEntry (s : State) : Step :=
  match headEntry s s.sel with
  | .entry t m e => .next (if e.kind = 2 then waitEntry t t.sel m e else s)
  | .unreadable t => .next (stopUnreadable t t.sel)
  | .later t => .next t
  | .none => .next s

/-- A stream that has executed the SIGNAL for which it inherited a priority has its own again (R444). -/
def dropBoost (s : State) (n k : Nat) : State :=
  { s with qm := { s.qm with boosts := s.qm.boosts.filter fun p => p.1 != n || p.2.2 != k } }

/-- The SIGNAL entry at the head of a stream (R442). -/
def signalEntry (s : State) (n : Nat) (e : Entry) : State :=
  let s := planeTouch s (semOff e.sem) 4
  if !semMine s n e.sem then entryDone s n e 10 e.value true
  else doneWith s n e 0 e.value false (fun s => dropBoost (setStreamSem s e.sem (min (streamSem s e.sem + e.value) (2 ^ 32 - 1))) n e.sem) id

/-- R442: the SIGNAL entry at the head of stream `sel`. -/
def execStreamSignalEntry (s : State) : Step :=
  match headEntry s s.sel with
  | .entry t _ e => .next (if e.kind = 3 then signalEntry t t.sel e else s)
  | .unreadable t => .next (stopUnreadable t t.sel)
  | .later t => .next t
  | .none => .next s

/-! ## Mapping (R443) -/

/-- Maps a stream from its descriptor. -/
def mapStream (s : State) (n : Nat) : State :=
  let s := streamTouch s n
  let m := { MStream.init with head := streamField s n 24 8, tail := streamField s n 32 8, stopped := s.qm.stops.contains n }
  let s := { s with qm := { s.qm with subs := s.qm.subs.filter (· != n), stops := s.qm.stops.filter (· != n) } }
  settleIdle (setStream s n m) n

/-- A mapped stream gives up its mapping: HEAD and TAIL go to its descriptor. -/
def unmapStream (s : State) (n : Nat) : State :=
  match mapped? s n with
  | none => s
  | some m =>
    let s := planeStore s (streamTable + 64 * n + 24) (bytesOf 8 m.head ++ bytesOf 8 m.tail)
    let s := { s with qm := { s.qm with streams := tdel s.qm.streams n, stops := if m.stopped then n :: s.qm.stops else s.qm.stops } }
    settleTurns (if m.head = m.tail then s else submitted s n)

/-- The idle mapped stream of lowest priority, and among equals the one idle longest, other than stream `but`. -/
def idleVictim (s : State) (but : Nat) : Option Nat :=
  let key := fun n : Nat => (effPrio s n, ((mapped? s n).bind (·.idle)).getD 0)
  ((s.qm.streams.filter fun p => p.2.isIdle && p.1 != but).map (·.1)).foldl (fun best n =>
    match best with
    | none => some n
    | some b => if (key n).1 < (key b).1 ∨ ((key n).1 = (key b).1 ∧ (key n).2 < (key b).2) then some n else some b) none

/-- A mapping is free: 1,024 of the module (R443). -/
def mappingFree (s : State) : Bool := decide (s.qm.streams.length < 1024)

/-- The unmapped stream that is first in line: of highest priority, then of earliest submission (R443). -/
def nextUnmapped (s : State) : Option Nat :=
  s.qm.subs.foldl (fun best n =>
    match best with
    | none => some n
    | some b => if effPrio s b < effPrio s n then some n else some b) none

/-- R443: the first unmapped stream takes a free mapping, or displaces the idle stream of lowest priority below its own. -/
def execStreamMapping (s : State) : Step :=
  match nextUnmapped s with
  | none => .next s
  | some n =>
    if mappingFree s then .next (mapStream s n)
    else
      match idleVictim s n with
      | some v => if effPrio s v < effPrio s n then .next (mapStream (unmapStream s v) n) else .next s
      | none => .next s

/-! ## Inheritance (R444) -/

/-- Whether one of the entries from `i` of a stream is a SIGNAL on semaphore `k`; an entry that cannot be read is none. -/
def hasSignal (s : State) (n k : Nat) : Nat → Nat → State × Bool
  | 0, _ => (s, false)
  | fuel + 1, i =>
    match readEntry s n i with
    | .ok s e => if e.kind = 3 ∧ e.sem = k then (s, true) else hasSignal s n k fuel (i + 1)
    | .err s _ _ => hasSignal s n k fuel (i + 1)
    | .later s w => hasSignal (queueWaits s n w) n k fuel (i + 1)

/-- An unmapped stream of a context has a SIGNAL on a semaphore between HEAD and TAIL. -/
def signals (s : State) (c k n : Nat) : State × Bool :=
  let s := streamTouch s n
  let q := headTail s n
  if streamCtx s n = c then hasSignal s n k (min ((q.2 + 2 ^ 64 - q.1) % 2 ^ 64) 65536) q.1 else (s, false)

/-- The streams that have a SIGNAL. -/
def signalling (s : State) (c k : Nat) : List Nat → State × List Nat
  | [] => (s, [])
  | n :: t =>
    let p := signals s c k n
    let q := signalling p.1 c k t
    (q.1, if p.2 then n :: q.2 else q.2)

/-- The stream that the search finds: by descending priority, then ascending number. -/
def searchFor (s : State) (c k : Nat) : State × Option Nat :=
  let q := signalling s c k s.qm.subs
  (q.1, q.2.foldl (fun best n =>
    match best with
    | none => some n
    | some b => if streamPrio s b < streamPrio s n ∨ (streamPrio s b = streamPrio s n ∧ n < b) then some n else some b) none)

/-- A stream takes a mapping and inherits a priority for a semaphore (R444). -/
def inherits (s : State) (n prio k : Nat) : State :=
  let s := mapStream s n
  { s with qm := { s.qm with boosts := tset s.qm.boosts n (max (streamPrio s n) prio, k) } }

/-- The search for the sake of a stream that is blocked at a WAIT on a semaphore (R444). -/
def inheritFrom (s : State) (w : Nat) (k : Nat) : State :=
  let q := searchFor s (streamCtx s w) k
  match q.2 with
  | none => q.1
  | some n =>
    if mappingFree q.1 then inherits q.1 n (effPrio s w) k
    else
      match idleVictim q.1 w with
      | some v => inherits (unmapStream q.1 v) n (effPrio s w) k
      | none => q.1

/-- R444: stream `sel` has been blocked at a WAIT for 50 µs since it blocked or since its last search. -/
def execInheritanceSearch (s : State) : Step :=
  match headEntry s s.sel with
  | .entry t m e =>
    match m.blocked with
    | none => .next s
    | some since =>
      if t.tb < since + 50000 ∨ e.kind ≠ 2 then .next s
      else .next (inheritFrom (setStream t t.sel { m with blocked := some t.tb }) t.sel e.sem)
  | .later t => .next t
  | .unreadable _ => .next s
  | .none => .next s

end Sys2Proof.Machine
end

