-- ==== Sys2Proof/Machine/Launches.lean ====
section
/-!
DEFINITION. Launch records (04 R90 to R94), admission of contracts (16 R446), placement (16 R445), the start of a launch (04 R95) and its
end (04 R96).
-/

namespace Sys2Proof.Machine

/-! ## Records (Tables 4.1, 4.2) -/

/-- Offsets of the sections of a record in order, and its length, from the 64 bytes of its header. -/
def sectionOffsets (h : List Byte) : List Nat :=
  let n := [32 * (leAt h 3 1 / 2 % 2), 8 * leAt h 1 1, 16 * leAt h 10 1, 32 * leAt h 8 2, 16 * leAt h 11 1, 8 * leAt h 12 2,
    32 * leAt h 14 1, 48 * leAt h 16 2]
  (List.range 9).map fun i => 64 + (n.take i).sum

/-- Length of a record by its counts (R90). -/
def recordLength (h : List Byte) : Nat := (sectionOffsets h).getD 8 0

/-- The entries of section `i` of a record, of `n` bytes each. -/
def sectionEntries (bs : List Byte) (i n : Nat) : List (List Byte) :=
  let o := sectionOffsets bs
  (List.range ((o.getD (i + 1) 0 - o.getD i 0) / n)).map fun k => sliceB bs (o.getD i 0 + n * k) n

/-- The scope of a code of Table 15.1. -/
def scopeOf : Nat → Scope
  | 0 => .slot | 1 => .core | 2 => .tile | 3 => .cluster | 4 => .die | 5 => .module | _ => .domain

/-- The allocation of an entry. -/
def allocOf (e : List Byte) : AllocEntry := ⟨leAt e 0 1, leAt e 1 1, leAt e 2 1, leAt e 8 8⟩

/-- The channel of an entry. -/
def chanOf (e : List Byte) : ChanEntry where
  haddr := wordN (leAt e 0 8)
  count := BitVec.ofNat 32 (leAt e 8 4)
  reload := BitVec.ofNat 32 (leAt e 12 4)
  ch := leAt e 16 1
  prio := leAt e 17 1
  cores := leAt e 18 1
  regs := (List.range (leAt e 19 1)).map fun i => leAt e (20 + i) 1

/-- The start message of an entry. -/
def startOf (e : List Byte) : StartEntry :=
  ⟨leAt e 0 1, leAt e 1 1, leAt e 2 1, wordN (leAt e 8 8), wordN (leAt e 16 8), wordN (leAt e 24 8), wordN (leAt e 32 8)⟩

/-- The record in its bytes (R90). -/
def recordOf (bs : List Byte) : Record where
  femon := fB (leAt bs 3 1) 0
  rtc := fB (leAt bs 3 1) 1
  fixed := fB (leAt bs 3 1) 2
  k := leAt bs 2 1
  pw := leAt bs 4 1
  ph := leAt bs 5 1
  px := leAt bs 6 1
  py := leAt bs 7 1
  scope := scopeOf (((sectionEntries bs 1 8).getLast?).elim 0 fun e => leAt e 1 1)
  contract := if fB (leAt bs 3 1) 1 then ⟨leAt bs 64 8, leAt bs 72 8, leAt bs 80 8⟩ else ⟨0, 0, 0⟩
  allocs := (sectionEntries bs 2 16).map allocOf
  chans := (sectionEntries bs 3 32).map chanOf
  segs := (sectionEntries bs 4 16).map fun e => (wordN (leAt e 0 8), leAt e 8 4, leAt e 12 4)
  sems := (sectionEntries bs 5 8).map fun e => (leAt e 0 1, leAt e 2 2)
  ranges := (sectionEntries bs 6 32).map fun e => ⟨leAt e 0 8, leAt e 8 8, leAt e 16 4, leAt e 20 4⟩
  starts := (sectionEntries bs 7 48).map startOf

/-! ## Checks (Table 4.4) -/

/-- The natural scope of a DOMAIN (Table 4.3). -/
def naturalOf (d : Nat) : Nat := [0, 1, 2, 3, 3, 3, 4, 5, 6].getD d 6

/-- Levels keep R91: codes in range, DOMAIN rising, SCOPE at least natural and not falling. -/
def levelsOk : List (Nat × Nat) → Bool
  | [] => true
  | [(d, c)] => decide (d ≤ 8) && decide (c ≤ 6) && decide (naturalOf d ≤ c)
  | (d, c) :: (e, f) :: t => decide (c ≤ 6) && decide (naturalOf d ≤ c) && decide (d < e) && decide (c ≤ f) && levelsOk ((e, f) :: t)

/-- Bytes of an entry that are RSV are zero. -/
def rsvZero (e : List Byte) (o n : Nat) : Bool := leAt e o n == 0

/-- The fields of an allocation entry (Table 4.2). -/
def allocOk (e : List Byte) : Bool :=
  let a := allocOf e
  decide (a.kind ≤ 2) && (if a.kind = 2 then decide (a.bank ≤ 7) else a.bank == 0) && decide (a.fe ≤ 3) && rsvZero e 3 5 &&
    a.size != 0 && a.size % 64 == 0

/-- The fields of a channel entry. -/
def chanOk (nalloc : Nat) (e : List Byte) : Bool :=
  decide (1 ≤ leAt e 12 4) && decide (leAt e 12 4 < 2 ^ 31) && decide (leAt e 16 1 ≤ 63) && decide (leAt e 17 1 ≤ 7) &&
    decide (leAt e 18 1 ≤ 0x12) && decide (leAt e 19 1 ≤ 4) && rsvZero e 24 8 &&
    (List.range 4).all fun i => if i < leAt e 19 1 then decide (leAt e (20 + i) 1 < nalloc) else leAt e (20 + i) 1 == 0

/-- The fields of a preload segment. -/
def segOk (e : List Byte) : Bool :=
  leAt e 8 4 % 8 == 0 && leAt e 12 4 % 8 == 0 && decide (leAt e 8 4 + leAt e 12 4 ≤ 65536)

/-- The fields of a range object. -/
def rangeEntryOk (e : List Byte) : Bool :=
  decide (leAt e 0 8 ≤ leAt e 8 8) && decide (1 ≤ leAt e 16 4) && decide (leAt e 16 4 ≤ 65535) && decide (1 ≤ leAt e 20 4) && rsvZero e 24 8

/-- The conditions of code 2. -/
def fieldsOk (bs : List Byte) : Bool :=
  let b := fun o => leAt bs o 1
  let fixed := fB (b 3) 2
  decide (1 ≤ b 1) && decide (b 1 ≤ 8) && decide (1 ≤ b 2) && decide (b 3 < 8) && decide (1 ≤ b 4) && decide (b 4 ≤ 32) &&
    decide (1 ≤ b 5) && decide (b 5 ≤ 32) && (if fixed then decide (b 6 ≤ 31) && decide (b 7 ≤ 31) else b 6 == 0 && b 7 == 0) &&
    decide (leAt bs 8 2 ≤ 1024) && decide (b 10 ≤ 32) && decide (b 11 ≤ 16) && decide (leAt bs 12 2 ≤ 256) && decide (b 14 ≤ 16) &&
    decide (leAt bs 16 2 ≤ 4096) && rsvZero bs 15 1 && rsvZero bs 18 6 && rsvZero bs 32 24 &&
    (sectionEntries bs 0 32).all (fun e => rsvZero e 24 8) &&
    (sectionEntries bs 1 8).all (fun e => rsvZero e 2 6) && levelsOk ((sectionEntries bs 1 8).map fun e => (leAt e 0 1, leAt e 1 1)) &&
    (sectionEntries bs 2 16).all allocOk && (sectionEntries bs 3 32).all (chanOk (b 10)) && (sectionEntries bs 4 16).all segOk &&
    (sectionEntries bs 5 8).all (fun e => rsvZero e 1 1 && rsvZero e 4 4) && (sectionEntries bs 6 32).all rangeEntryOk &&
    (sectionEntries bs 7 48).all (fun e => decide (leAt e 2 1 ≤ 0x10) && rsvZero e 3 5 && rsvZero e 40 8)

/-- The clusters of a rectangle. -/
def rectClusters (x y w h : Nat) : List Nat := (List.range h).flatMap fun j => (List.range w).map fun i => 32 * (y + j) + (x + i)

/-- A rectangle lies on the grid and holds no fused-off cluster (R30). -/
def rectEnabled (s : State) (x y w h : Nat) : Bool :=
  decide (x + w ≤ 32) && decide (y + h ≤ 32) && (rectClusters x y w h).all (clusterOn s)

/-- The north-west corners of the grid, lowest y and then lowest x first (R445). -/
def corners : List (Nat × Nat) := (List.range 32).flatMap fun y => (List.range 32).map fun x => (x, y)

/-- Two rectangles share a cluster. -/
def rectsMeet (x y w h x' y' w' h' : Nat) : Bool :=
  decide (x < x' + w') && decide (x' < x + w) && decide (y < y' + h') && decide (y' < y + h)

/-- Blocks of 4 KiB of the csp instances of a record (R157). -/
def cspBlocks (l : List AllocEntry) : Nat := ((l.filter fun a => a.kind == 2).map fun a => ceilDiv a.size 4096).sum

/-- The placements and contracts of the contracts that stand admitted (R446): those of launches, and those of records that wait to start. -/
def admitted (s : State) : List (Nat × Nat × Record) :=
  (s.launches.filter (fun p => p.2.record.rtc)).map (fun p => (p.2.x, p.2.y, p.2.record)) ++
    s.qm.streams.filterMap fun p =>
      match p.2.ready, p.2.placed with
      | some r, some q => if r.rtc then some (q.1, q.2, r) else none
      | _, _ => none

/-- A cluster lies in the placement of an admitted contract. -/
def inContract (s : State) (cl : Nat) : Bool :=
  (admitted s).any fun a => rectsMeet (clX cl) (clY cl) 1 1 a.1 a.2.1 a.2.2.pw a.2.2.ph

/-- The memory limits of code 4 at a rectangle, if one is known (R94, R456). -/
def memoryOk (s : State) (r : Record) (at' : Option (Nat × Nat)) : Bool :=
  let tight := r.rtc || (at'.any fun p => (rectClusters p.1 p.2 r.pw r.ph).any (inContract s))
  let tcm := kindBytes 0 r.allocs
  decide (tcm ≤ 65536) && decide (kindBytes 1 r.allocs ≤ 2 ^ 21) && decide (cspBlocks r.allocs ≤ if tight then 1408 else 2048) &&
    r.segs.all fun g => g.2.2 == 0 || decide (g.2.1 + g.2.2 ≤ 65536 - tcm)

/-- Whether a channel entry names a core of a cluster (Table 4.2, CORES). -/
def namesCore (cores k : Nat) : Bool :=
  if cores < 16 then cores == k else if cores = 0x10 then true else if cores = 0x11 then k % 2 == 0 else k % 2 == 1

/-- No two channel entries name the same channel of the same core (code 5). -/
def channelsDistinct : List ChanEntry → Bool
  | [] => true
  | e :: t => t.all (fun f => e.ch != f.ch || !((List.range 16).any fun k => namesCore e.cores k && namesCore f.cores k)) && channelsDistinct t

/-- Range objects taken at the range unit of a die (R110). -/
def rangesTaken (s : State) (die : Nat) : Nat :=
  ((s.launches.filter fun p => homeDie p.2.x p.2.y == die).map fun p => p.2.ranges.length).sum

/-- Enough range objects are free at the home of a rectangle (code 6). -/
def rangesFree (s : State) (r : Record) (x y : Nat) : Bool := decide (rangesTaken s (homeDie x y) + r.ranges.length ≤ 64)

/-- Σ B/D of contracts as a fraction. -/
def density (cs : List Contract) : Nat × Nat := cs.foldl (fun q c => (q.1 * c.deadline + c.budget * q.2, q.2 * c.deadline)) (0, 1)

/-- The contract of a record is admitted on a rectangle (R446). -/
def admits (s : State) (r : Record) (x y : Nat) : Bool :=
  let c := r.contract
  let near := (admitted s).filter fun a => rectsMeet x y r.pw r.ph a.1 a.2.1 a.2.2.pw a.2.2.ph
  let d := density (c :: near.map fun a => a.2.2.contract)
  decide (500000 ≤ c.period) && decide (c.period ≤ 10 ^ 9) && decide (10000 ≤ c.budget) && decide (c.budget ≤ c.deadline) &&
    decide (c.deadline ≤ c.period) && decide (25000 ≤ c.deadline - c.budget) &&
    near.all (fun a => a.1 == x && a.2.1 == y && a.2.2.pw == r.pw && a.2.2.ph == r.ph) && decide (10 * d.1 ≤ 9 * d.2)

/-- A cluster runs no launch. -/
def clusterIdle (s : State) (cl : Nat) : Bool := (s.cluster cl).launch.isNone

/-- A rectangle is enabled and free of launches. -/
def rectFree (s : State) (x y w h : Nat) : Bool := rectEnabled s x y w h && (rectClusters x y w h).all (clusterIdle s)

/-- The start messages of a record lie within its placement (code 8). -/
def startsInside (r : Record) : Bool := r.starts.all fun m => decide (m.x < r.pw) && decide (m.y < r.ph)

/-- The preload sources of a record as bytes (R94, R505). -/
def preloads (s : State) (r : Reader) : List (Word × Nat × Nat) → EngAns (List (Nat × List Byte))
  | [] => .ok s []
  | (va, off, n) :: t =>
    (planeRead s r va n).andThen fun s bs => (preloads s r t).andThen fun s l => .ok s ((off, bs) :: l)

/-- FMT, TOTAL and CHECK of a record whose counts give a length (R94 step 2). -/
def recordWhole (bs : List Byte) (n : Nat) : Bool :=
  leAt bs 0 1 == 1 && leAt bs 24 8 == n && leAt bs 60 4 == (crc32c (bs.take 60 ++ bs.drop 64)).toNat

/-- The bytes of a record as its counts give its length (R94 steps 1 and 2), or code 1; a read of it that fails is one of code 8. FMT, TOTAL and CHECK are
judged on the record as read. -/
def readRecord (s : State) (r : Reader) (va : Word) : EngAns (Except Nat (List Byte)) :=
  if va.toNat % 64 ≠ 0 then .ok s (.error 1)
  else
    (planeRead s r va 64).andThen fun s h =>
      (planeRead s r va (recordLength h)).andThen fun s bs => .ok s (if recordWhole bs (recordLength h) then .ok bs else .error 1)

/-- The placement that the check fixes: that of a FIXED record, or of an admitted contract (R446). -/
def checkPlace (s : State) (r : Record) : Option (Nat × Nat) :=
  if r.fixed then some (r.px, r.py)
  else if r.rtc then corners.find? fun p => rectFree s p.1 p.2 r.pw r.ph && admits s r p.1 p.2
  else none

/-- The first code of Table 4.4, from 2 to 8, that a record breaks before its preload sources are read; 0 for none. -/
def recordCode (s : State) (bs : List Byte) : Nat :=
  let r := recordOf bs
  let p := checkPlace s r
  if !fieldsOk bs then 2
  else if (if r.fixed then !rectEnabled s r.px r.py r.pw r.ph else !(corners.any fun p => rectEnabled s p.1 p.2 r.pw r.ph)) then 3
  else if !memoryOk s r p then 4
  else if !channelsDistinct r.chans then 5
  else if p.any fun q => !rangesFree s r q.1 q.2 then 6
  else if r.rtc && !(p.any fun q => admits s r q.1 q.2) then 7
  else if !startsInside r then 8
  else 0

/-- The LAUNCH entry at the head of a stream is refused with a code. -/
def refuseEntry (s : State) (n : Nat) (e : Entry) (code : Nat) : State := entryDone s n e code (s.tb % 2 ^ 32) false

/-- The record that a LAUNCH entry at the head of a stream names is ready, once its preload sources have been read, or is refused (R94). -/
def checkRecord (s : State) (n : Nat) (m : MStream) (e : Entry) (bs : List Byte) : State :=
  match recordCode s bs with
  | 0 =>
    let r := recordOf bs
    (match preloads s (streamReader s n) r.segs with
    | .later s w => queueWaits s n w
    | .err s _ _ => refuseEntry s n e 8
    | .ok s _ => settleTurns (setStream (queueGoes s n) n { m with ready := some r, placed := if r.rtc then checkPlace s r else none }))
  | code => refuseEntry s n e code

/-- The LAUNCH entry at the head of a stream is checked (R94). -/
def launchEntry (s : State) (n : Nat) (m : MStream) (e : Entry) : State :=
  match readRecord s (streamReader s n) e.addr with
  | .later s w => queueWaits s n w
  | .err s _ _ => refuseEntry s n e 8
  | .ok s (.error code) => refuseEntry s n e code
  | .ok s (.ok bs) => checkRecord s n m e bs

/-- R94: the LAUNCH entry at the head of stream `sel` is refused, or its record is ready. -/
def execLaunchCheck (s : State) : Step :=
  match headEntry s s.sel with
  | .none => .next s
  | .later t => .next t
  | .unreadable t => .next (stopUnreadable t t.sel)
  | .entry t m e =>
    .next (if e.kind = 2 ∨ e.kind = 3 then s else if e.kind ≠ 1 then entryDone t t.sel e 11 e.value true else launchEntry t t.sel m e)

/-! ## Placement (R445, R456) -/

/-- A contract job that is released and has not ended waits for its partition (R448). -/
def jobDue (l : Launch) : Bool := l.record.rtc && !l.jobDone && !l.overrun

/-- A due job of a switched-out contract has clusters of a rectangle. -/
def dueOver (s : State) (x y w h : Nat) : Bool :=
  s.launches.any fun p => p.2.out && jobDue p.2 && rectsMeet x y w h p.2.x p.2.y p.2.record.pw p.2.record.ph

/-- The first 64-byte boundary above the highest WS byte that switched-out launches hold on a cluster (R456). -/
def wsFloor (s : State) (cl : Nat) : Nat := ceilDiv (((s.cluster cl).wsHeld.map (·.2.2)).foldl max 0) 64 * 64

/-- The blocks that the csp instances of a record take on a cluster, in entry order, lowest first (R157, R456); blocks that are being zeroed count
as free, and SIDE, which a record does not give, is 0 (log entry 51). -/
def cspPlan (c : Cluster) (u : Nat) : List AllocEntry → Option (List CspAlloc)
  | [] => some []
  | a :: t =>
    if a.kind ≠ 2 then cspPlan c u t
    else
      let n := ceilDiv a.size 4096
      match cspFit { c with zeroing := [] } n with
      | none => none
      | some b =>
        let x : CspAlloc := ⟨b, n, a.bank, 0, a.fe, false, u⟩
        (cspPlan { c with allocs := c.allocs ++ [x] } u t).map fun l => x :: l

/-- The memory of a record is free on a cluster (R445): WS, CSP blocks already zeroed, and entries of the allocation table. A cluster of a contract's
placement has its save area reserved first (R456). -/
def clusterFits (s : State) (r : Record) (cl : Nat) : Bool :=
  let c := s.cluster cl
  let c := if inContract s cl then { c with reserved := true } else c
  let free := (s.cluster cl).reserved || !c.reserved || cspRunFree (s.cluster cl) 1408 640
  c.launch.isNone && free && decide (wsFloor s cl + kindBytes 1 r.allocs ≤ 2 ^ 21) &&
    (match cspPlan c 0 r.allocs with
      | none => false
      | some l => decide (c.allocs.length + l.length ≤ 64) &&
          l.all fun x => c.zeroing.all fun z => decide (z.1 + z.2 ≤ x.base) || decide (x.base + x.blocks ≤ z.1))

/-- A record can start at a rectangle. -/
def fitsAt (s : State) (r : Record) (x y : Nat) : Bool :=
  rectEnabled s x y r.pw r.ph && (r.rtc || !dueOver s x y r.pw r.ph) && (rectClusters x y r.pw r.ph).all (clusterFits s r)

/-- The rectangle at which a ready record of a stream can start (R445). -/
def placeFor (s : State) (m : MStream) (r : Record) : Option (Nat × Nat) :=
  match m.placed with
  | some p => if fitsAt s r p.1 p.2 then some p else none
  | none =>
    if r.fixed then (if fitsAt s r r.px r.py then some (r.px, r.py) else none)
    else corners.find? fun p => fitsAt s r p.1 p.2

/-- Ready streams in the order in which the queue manager considers them, with the pointer of their priority (R445). -/
def considered (s : State) : List (Nat × Option (Nat × Nat × Nat)) :=
  (readyStreams s true none).map (fun n => (n, none)) ++
    [7, 6, 5, 4, 3, 2, 1, 0].flatMap fun prio =>
      let r := readyStreams s false (some prio)
      if r = [] then []
      else
        let p := pointerAt s prio
        let order := r.filter (fun n => decide (p.1 ≤ n)) ++ r.filter (fun n => decide (n < p.1))
        order.map fun n => (n, some (prio, p.1, p.2 + if n = p.1 then 1 else 0))

/-- The launch that starts next: the stream, its record, the placement, and the pointer after it. -/
def nextLaunch (s : State) : Option (Nat × Record × (Nat × Nat) × Option (Nat × Nat × Nat)) :=
  (considered s).findSome? fun q =>
    match mapped? s q.1 with
    | some m => m.ready.bind fun r => (placeFor s m r).map fun p => (q.1, r, p, q.2)
    | none => none

/-! ## Start (R95) -/

/-- The channel that an entry makes (R95 step 2). -/
def loadedChannel (e : ChanEntry) : Channel :=
  let due := decide (e.count.toInt ≤ 0)
  { Channel.init with
    haddr := e.haddr, count := if due then e.reload else e.count, reload := e.reload, regs := e.regs
    prio := BitVec.ofNat 3 e.prio, pend := due, en := true }

/-- A core at launch go: its handler table and drift credits (R95 steps 2 and 5). -/
def startedCore (r : Record) (core : Nat) : CoreSt :=
  { CoreSt.init with
    dcred := Vector.replicate 4 (BitVec.ofNat 16 r.k)
    chans := (r.chans.filter fun e => namesCore e.cores (core % 16)).foldl (fun t e => tset t e.ch (loadedChannel e)) [] }

/-- A tile at launch go (R95 step 4). -/
def startedTile (r : Record) : Tile := { Tile.init with sem := r.sems.foldl (fun t e => tset t e.1 (BitVec.ofNat 16 e.2)) [] }

/-- Removes the items of a table whose numbers lie in a range. -/
def tclear {α : Type} (t : Tbl α) (a n : Nat) : Tbl α := t.filter fun p => decide (p.1 < a) || decide (a + n ≤ p.1)

/-- Slots, cores, lane pools and SFUs of a cluster reset. -/
def clearCores (s : State) (cl : Nat) : State :=
  { s with
    slots := tclear s.slots (64 * cl) 64
    cores := tclear s.cores (16 * cl) 16
    pools := tclear s.pools (2 * cl) 2
    sfus := tclear s.sfus (4 * cl) 4 }

/-- A mark among the lost words stands for a latch, an accumulator or a queue entry of a cluster (log entry 8). -/
def unitMark (cl w : Nat) : Bool :=
  if w < 2 ^ 57 then false else if w < 2 ^ 58 then (w - 2 ^ 57) / 16 == cl else if w < 2 ^ 59 then (w - 2 ^ 58) / 2048 == cl else (w - 2 ^ 59) / 64 == cl

/-- The units of a cluster as they stand before a launch: tiles and matrix engines are reset too. -/
def clearUnits (s : State) (cl : Nat) : State :=
  let s := clearCores s cl
  { s with tiles := tclear s.tiles (8 * cl) 8, tmes := tclear s.tmes (8 * cl) 8, lost := s.lost.filter fun w => !unitMark cl w }

/-- Makes the instances of a launch on a cluster and loads its units (R93, R95 steps 1 to 5). -/
def startCluster (s : State) (u : Nat) (r : Record) (pre : List (Nat × List Byte)) (cl : Nat) : State :=
  let base := wsFloor s cl
  let tcm := kindBytes 0 r.allocs
  let ws := kindBytes 1 r.allocs
  let s := clearUnits s cl
  let c := s.cluster cl
  let c := if inContract s cl then { c with reserved := true } else c
  let s := s.setCluster cl { c with
    launch := some u, wsBase := base, allocs := c.allocs ++ (cspPlan c u r.allocs).getD [], guards := [], sources := [] }
  let s := (numbers (8 * cl) 8).foldl (fun s t =>
    let s := clearFe (zeroKeys s (wsKey t base) ws) (wsKey t base) ws
    s.setTile t (startedTile r)) s
  let s := ((s.cluster cl).allocs.filter fun a => a.owner == u).foldl (fun s a =>
    clearFe (zeroKeys s (cspKey cl (4096 * a.base)) (4096 * a.blocks)) (cspKey cl (4096 * a.base)) (4096 * a.blocks)) s
  (numbers (16 * cl) 16).foldl (fun s k =>
    let s := clearFe (zeroKeys s (tcmKey k (65536 - tcm)) tcm) (tcmKey k 0) 65536
    let s := pre.foldl (fun s g => s.write (tcmKey k g.1) g.2) s
    s.setCore k (startedCore r k)) s

/-- The start messages of a launch in record order (R95 step 7), with header word 3 replaced for a later job (R447). -/
def sendStarts (s : State) (u : Nat) (l : Launch) (job : Option Nat) : State :=
  l.record.starts.foldl (fun s m =>
    let cl := 32 * (l.y + m.y) + (l.x + m.x)
    let ks := if m.core < 16 then [m.core] else List.range 16
    ks.foldl (fun s k =>
      let core := 16 * cl + k
      send s (.start core u ⟨coreWord core (m.w0.toNat / 1024 % 64) (m.w0.toNat % 1024), m.w1, m.w2, job.elim m.w3 wordN, 0⟩)) s) s

/-- A launch of stream `n` starts at a placement with its preload sources as read (R95). -/
def startLaunch (s : State) (n : Nat) (m : MStream) (r : Record) (p : Nat × Nat) (turn : Option (Nat × Nat × Nat)) (pre : List (Nat × List Byte)) : State :=
  let s := s.older
  let u := s.age
  let s := match turn with
    | some (prio, q) => { s with qm := { s.qm with turn := tset s.qm.turn prio q } }
    | none => s
  let l : Launch := ⟨n, streamCtx s n, streamPriv s n, r, p.1, p.2, r.ranges, s.tb, 0, 1, false, 0, s.tb, false, m.cancel, false⟩
  let s := (rectClusters p.1 p.2 r.pw r.ph).foldl (fun s cl => startCluster s u r pre cl) s
  let s := setStream ((queueGoes s n).setLaunch u l) n { m with ready := none, placed := none, launch := some u, idle := none }
  let s := (rectClusters p.1 p.2 r.pw r.ph).foldl (fun s cl => acquire s cl r.scope.code) s
  settleTurns (sendStarts s u l none)

/-- The ready record of a stream is refused with a code at its start. -/
def refuseReady (s : State) (n : Nat) (m : MStream) (code : Nat) : State :=
  match readEntry s n m.head with
  | .ok s e => refuseEntry s n e code
  | .err s _ _ => unmarked s n
  | .later s w => queueWaits s n w

/-- R95: the launch that is next in the order of R445 starts, if it is the one of stream `sel`. -/
def execLaunchStart (s : State) : Step :=
  match (nextLaunch s).filter fun q => q.1 == s.sel with
  | none => .next s
  | some (n, r, p, turn) =>
    match mapped? s n with
    | none => .next s
    | some m =>
      if !rangesFree s r p.1 p.2 then .next (refuseReady s n m 6)
      else
        match preloads s (streamReader s n) r.segs with
        | .later s w => .next (queueWaits s n w)
        | .err s _ _ => .next (refuseReady s n m 8)
        | .ok s pre => .next (startLaunch s n m r p turn pre)

/-! ## End (R96) -/

/-- The clusters of a launch. -/
def Launch.clusters (l : Launch) : List Nat := rectClusters l.x l.y l.record.pw l.record.ph

/-- A core is done (R96). -/
def coreDone (s : State) (k : Nat) : Bool :=
  ((numbers (4 * k) 4).all fun m => (s.slot m).chan.isNone) && (s.core k).chans.all fun p => !p.2.en

/-- Every core of a launch is done. -/
def launchDone (s : State) (l : Launch) : Bool := l.clusters.all fun cl => (numbers (16 * cl) 16).all (coreDone s)

/-- Some launch other than `u` is on a cluster, running or switched out. -/
def otherLaunch (s : State) (u cl : Nat) : Bool :=
  s.launches.any fun p => p.1 != u && rectsMeet (clX cl) (clY cl) 1 1 p.2.x p.2.y p.2.record.pw p.2.record.ph

/-- The CSP blocks of a launch on a cluster are freed for what engines and messages still do there (R157, R178). -/
def blocksFreed (s : State) (u cl : Nat) : State :=
  ((s.cluster cl).allocs.filter fun a => a.owner == u).foldl (fun s a => regionFreed s cl (cspKey cl (4096 * a.base)) (4096 * a.blocks)) s

/-- Frees what a launch holds on a cluster. -/
def freeCluster (s : State) (u cl : Nat) : State :=
  let s := blocksFreed (if (s.cluster cl).launch = some u then completeIinvs s cl else s) u cl
  let c := s.cluster cl
  let mine := c.allocs.filter fun a => a.owner == u
  let here := c.launch == some u
  let c : Cluster := { c with
    allocs := c.allocs.filter (fun a => a.owner != u), zeroing := c.zeroing ++ mine.map (fun a => (a.base, a.blocks))
    wsHeld := c.wsHeld.filter (fun h => h.1 != u), reserved := c.reserved && otherLaunch s u cl }
  if here then
    (clearCores s cl).setCluster cl { c with launch := none, wsBase := 0, guards := [], sources := [] }
  else s.setCluster cl c

/-- The refusal that a posted store of an ended launch comes to (R395, R396): the core that it names runs no longer the launch that sent it. -/
def lateRefusal (s : State) (u : Nat) (l : Launch) (src entry code : Nat) : Flight :=
  let c := match (if l.out then s.qm.saved.find? fun p => p.1 == u else none) with
    | some (_, v) => tget CoreSt.init v.cores src
    | none => s.core src
  let j := tget JEntry.init c.journal entry
  .late l.ctx j.slot entry code (neighAddr j.place j.off)

/-- A message in flight of a launch that ends: what becomes of its posted stores; every other message is discarded at its target. -/
def orphaned (s : State) (u : Nat) (l : Launch) (m : Flight) : Flight :=
  match m with
  | .store src dst v e _ _ _ => if v = u then lateRefusal s u l src e (if clusterOn s (dst / 16) then 3 else 1) else m
  | .storeRefused src v e code => if v = u then lateRefusal s u l src e code else m
  | m => m

/-- Removes a launch, with its saved state, and frees what it holds; its messages in flight, those that fell out among them, are discarded at their targets, but the refusals of its
posted stores go to the error record (R396). -/
def removeLaunch (s : State) (u : Nat) (l : Launch) : State :=
  let fallen : Tbl Flight := (s.qm.saved.find? fun p => p.1 == u).elim [] fun p => p.2.fallen
  let s : State := { s with net := (fallen.foldl (fun t p => tset t p.1 p.2) s.net).map fun p => (p.1, orphaned s u l p.2) }
  let s := l.clusters.foldl (fun s cl => freeCluster s u cl) s
  { s with launches := tdel s.launches u, qm := { s.qm with saved := tdel s.qm.saved u } }

/-- A launch whose release is complete ends: what it holds is freed, and its entry is done (R96). It ends all the same where its entry cannot be marked. -/
def launchOver (s : State) (u : Nat) (l : Launch) : State :=
  let off := fun s : State => removeLaunch s u l
  match mapped? s l.stream with
  | none => off s
  | some m =>
    match readEntry s l.stream m.head with
    | .ok s e => doneWith s l.stream e 0 (s.tb % 2 ^ 32) false off off
    | .err s _ _ => unmarked (off s) l.stream
    | .later s w => queueWaits s l.stream w

/-- R96: every core of launch `sel` is done: the job of a contract ends, or the launch. -/
def execLaunchEnd (s : State) : Step :=
  match s.launch? s.sel with
  | none => .next s
  | some l =>
    let u := s.sel
    let ended := if l.out then l.jobDone else launchDone s l
    if !ended || tearing s l.ctx then .next s
    else if l.record.rtc && !l.cancelled then
      if l.jobDone then .next s
      else .next (s.setLaunch u { l with jobDone := true, used := l.used + (s.tb - l.since) })
    else
      let s := l.clusters.foldl (fun s cl => release s cl l.record.scope.code) s
      if l.clusters.all fun cl => releaseDone s cl l.record.scope.code then .next (launchOver s u l) else .next s

end Sys2Proof.Machine
end

