-- ==== Sys2Proof/Machine/Gang.lean ====
section
/-!
DEFINITION. Contract jobs (16 R447 to R449) and the gang switch (16 R454 to R457): what is saved of a partition, and its restoration.
-/

namespace Sys2Proof.Machine

/-! ## Stop points (R454, Table 16.4) -/

/-- The items of a table that belong to the clusters of a launch, `n` to a cluster. -/
def tmine {α : Type} (t : Tbl α) (l : Launch) (n : Nat) : Tbl α := t.filter fun p => l.clusters.contains (p.1 / n)

/-- A slot of a partition reaches its stop point: its issued stores enter the cache, a blocked head is abandoned and executed again, a `falign` retires as
complete, and `rtake` has retired and awaits its reply. -/
def stopSlot (s : State) (m : Nat) : State :=
  if (s.slot m).chan.isNone then s
  else
    let s := storesEnter s m
    match (s.slot m).wait with
    | .stopped => s
    | .align _ => let s := finish s m .seq (stepping s m) none; s.setSlot m { s.slot m with line := [] }
    | .range _ => s.setSlot m { s.slot m with wait := .range true }
    | _ =>
      let s := giveBack (leaveBarrier s m) m
      s.setSlot m { (s.slot m).begun with line := [] }

/-- The requests that a lane pool still has when its partition stops: claims leave it (R182), and the others are served, since `vreneg` completes (Table 7.6). -/
def settlePool (s : State) (o : Nat) : State :=
  let rest := (pool s o).reqs.filter fun r => match r with
    | .claim _ _ _ _ _ => false
    | _ => true
  rest.foldl (fun s r => serveLanes s o r) (setPool s o ⟨(pool s o).free, [], []⟩)

/-- The entries reserved in the input queues of a core land before a switch completes (R256). -/
def portsLand (s : State) (k : Nat) : State :=
  let c := s.core k
  s.setCore k { c with q := c.q.map PortQueue.landed }

/-- The requests of abandoned instructions leave the walkers, the SFUs and the copy engines; replies to abandoned loads are discarded
(R191, R330, R366, R455). -/
def abandon (s : State) (u : Nat) (l : Launch) : State :=
  let mine := fun m : Nat => l.clusters.contains (clusterOf m)
  let walks : Tbl Die := s.dies.map fun p =>
    (p.1, { p.2 with walks := p.2.walks.map fun r => { r with slots := r.slots.filter fun x => !(slotOfWho x.1).any mine } })
  let net : Tbl Flight := s.net.filter fun p => !(p.2.launch == u && (match p.2 with
      | .load _ _ _ _ _ _ => true
      | .loadReply _ _ _ _ => true
      | _ => false))
  let s : State := { s with dies := walks, net := net, sfus := s.sfus.filter fun p => !l.clusters.contains (p.1 / 4) }
  let tables : List (Nat × CopyOp) := s.copies.flatMap fun p =>
    (p.2.ops.filter fun o => o.launch == u && (match o.kind with | .table _ _ _ _ => true | _ => false)).map fun o => (p.1, o)
  tables.foldl (fun s q => dropCopy s q.1 q.2) s

/-! ## Saving (R456) -/

/-- The cluster of a TCM byte at a memory key, if it is one. -/
def tcmCluster (k : Nat) : Option Nat := if 2 ^ 52 ≤ k ∧ k < 2 ^ 52 + 2 ^ 30 then some ((k - 2 ^ 52) / 2 ^ 20) else none

/-- A memory key lies in a TCM of a launch. -/
def inTcms (l : Launch) (k : Nat) : Bool := (tcmCluster k).any l.clusters.contains

/-- The copy engines that serve the clusters of a launch. -/
def launchEngines (l : Launch) : List Nat := (l.clusters.map engineOf).dedup

/-- An engine as it is saved: the contents of its latches are not (R230). -/
def savedTme (e : Tme) : Tme := { e with la := { e.la with data := [] }, lb := { e.lb with data := [] } }

/-- An operation of a copy engine as it is saved: a walk for it is not (R366). -/
def savedCopy (o : CopyOp) : CopyOp := if o.wait = .walk then { o with wait := .none } else o

/-- What is saved of a partition that has stopped. -/
def savedOf (s : State) (u : Nat) (l : Launch) : Saved where
  slots := tmine s.slots l 64
  cores := tmine s.cores l 16
  tiles := tmine s.tiles l 8
  pools := tmine s.pools l 2
  tmes := (tmine s.tmes l 8).map fun p => (p.1, savedTme p.2)
  copies := s.copies.flatMap fun p => (p.2.ops.filter fun o => o.launch == u).map fun o => (p.1, savedCopy o)
  tabs := (launchEngines l).flatMap fun e => ((s.copyEng e).tabs.filter fun t => t.2.owner == l.ctx).map fun t => (e, t.1, t.2)
  mem := s.mem.filter fun p => inTcms l p.1
  fe := s.fe.filter fun p => inTcms l (8 * p.1)
  guards := l.clusters.map fun cl => (cl, (s.cluster cl).guards)
  sources := l.clusters.map fun cl => (cl, (s.cluster cl).sources)
  bases := l.clusters.map fun cl => (cl, (s.cluster cl).wsBase)
  fallen := s.net.filter fun p => p.2.launch == u
  held := []
  at' := s.cc

/-! ## Errors in what is saved (R462, R506) -/

/-- A mark among the lost words stands for an accumulator or a queue entry of a partition, which is saved; that of a latch does not count. -/
def savedMark (l : Launch) (w : Nat) : Bool := decide (2 ^ 58 ≤ w) && l.clusters.any fun cl => unitMark cl w

/-- The unit that a saved mark concerns: the tile of an accumulator, or the core of a queue. -/
def markUnit (s : State) (w : Nat) : Word := placeId s (if w < 2 ^ 59 then 8 * ((w - 2 ^ 58) / 256) else w - 2 ^ 59)

/-- An error in the state that a partition saves: SUB, line address and unit. -/
def savedLoss (s : State) (l : Launch) : Option (Nat × Word × Word) :=
  match s.lost.find? fun w => inTcms l (8 * w) with
  | some w => some (1, keyAddr (8 * w / 64 * 64), placeId s (4 * ((8 * w - 2 ^ 52) / 2 ^ 16)))
  | none => (s.lost.find? (savedMark l)).map fun w => (2, 0, markUnit s w)

/-- A memory key lies in the save area of a cluster of a launch (R456). -/
def inSaveArea (s : State) (l : Launch) (k : Nat) : Bool :=
  l.clusters.any fun cl => (s.cluster cl).reserved && decide (cspKey cl (4096 * 1408) ≤ k) && decide (k < cspKey (cl + 1) 0)

/-- An error in a save area of a partition: SUB, line address and unit. -/
def areaLoss (s : State) (l : Launch) : Option (Nat × Word × Word) :=
  (s.lost.find? fun w => inSaveArea s l (8 * w)).map fun w => (2, keyAddr (8 * w / 64 * 64), placeId s (64 * ((8 * w - 2 ^ 54) / 2 ^ 23)))

/-- A fatal fault of the context of a launch for an error in what is saved. -/
def savedFatal (s : State) (l : Launch) : Option (Nat × Word × Word) → State
  | none => s
  | some x => startTear (errorEntry s l.ctx 11 (26 + 2 ^ 16 * x.1) x.2.1 x.2.2 0) l.ctx

/-- A cluster is left by a partition, whose WS stays its own (R456). -/
def leaveCluster (s : State) (u : Nat) (l : Launch) (cl : Nat) : State :=
  let s := clearUnits (completeIinvs s cl) cl
  let c := s.cluster cl
  let ws := kindBytes 1 l.record.allocs
  s.setCluster cl { c with
    launch := none, wsBase := 0, guards := [], sources := [], fetches := []
    wsHeld := if ws = 0 then c.wsHeld else c.wsHeld ++ [(u, c.wsBase, c.wsBase + ws)] }

/-- The updates of the tiles of a partition are over, and their waits are tested (R248). -/
def tilesTested (s : State) (l : Launch) : State := (tmine s.tiles l 8).foldl (fun s p => semNow s p.1) s

/-- Every unit of a partition reaches its stop point (R454). -/
def stopPartition (s : State) (u : Nat) (l : Launch) : State :=
  let s := tilesTested s l
  let s := (tmine s.pools l 2).foldl (fun s p => settlePool s p.1) s
  let s := (tmine s.slots l 64).foldl (fun s p => stopSlot s p.1) s
  let s := (tmine s.tmes l 8).foldl (fun s p => tmeStop s p.1) s
  let s := (tmine s.cores l 16).foldl (fun s p => portsLand s p.1) s
  abandon (tilesTested s l) u l

/-- The partition of a launch stops and is saved (R454 to R456); an uncorrectable error in what is saved is a fatal fault of its context (R462, R506). -/
def switchOut (s : State) (u : Nat) (l : Launch) : State :=
  let s := stopPartition s u l
  let sv := savedOf s u l
  let s := savedFatal s l (savedLoss s l)
  let s := { s with
    mem := s.mem.filter (fun p => !inTcms l p.1)
    lost := s.lost.filter (fun w => !inTcms l (8 * w) && !inSaveArea s l (8 * w))
    fe := s.fe.filter (fun p => !inTcms l (8 * p.1))
    net := s.net.filter fun p => p.2.launch != u
    copies := s.copies.map fun p => (p.1, { p.2 with ops := p.2.ops.filter fun o => o.launch != u })
    qm := { s.qm with saved := tset s.qm.saved u sv } }
  let s := l.clusters.foldl (fun s cl => leaveCluster s u l cl) s
  s.setLaunch u { l with out := true, used := if l.jobDone then l.used else l.used + (s.tb - l.since) }

/-! ## Restoration (R457) -/

/-- Puts the items of a table into another. -/
def tmerge {α : Type} (t new : Tbl α) : Tbl α := new.foldl (fun t p => tset t p.1 p.2) t

/-- A restored slot: the cycles spent switched out do not count, and an armed monitor is registered again (R128, R166). -/
def resumedSlot (s : State) (sv : Saved) (l : Slot) : Slot :=
  { l with startCc := l.startCc + (s.cc - sv.at'), mon := { l.mon with rearm := l.mon.rearm || l.mon.armed } }

/-- Inserts a copy operation in acceptance order. -/
def insertCopy (o : CopyOp) : List CopyOp → List CopyOp
  | [] => [o]
  | x :: t => if o.id < x.id then o :: x :: t else x :: insertCopy o t

/-- A restored engine, with its loaded latches still to be reloaded (R230). -/
def resumedTme (e : Tme) : Tme := { e with resume := (if e.la.loaded then [false] else []) ++ if e.lb.loaded then [true] else [] }

/-- An arrival that was diverted is applied at its core, or waits there for an inbox entry (R455). -/
def applyHeld (s : State) (m : Flight) : State :=
  match m with
  | .engine dst launch eng a dests _ =>
    let s := send s m
    { engineArrival { s with sel := s.age } dst launch eng a dests 0 with sel := s.sel }
  | .start dst launch a =>
    let s := send s m
    { startArrival { s with sel := s.age } dst launch a with sel := s.sel }
  | _ => s

/-- A cluster is taken again by a partition. -/
def enterCluster (s : State) (u : Nat) (sv : Saved) (cl : Nat) : State :=
  let s := clearUnits s cl
  let s := clearFe (zeroKeys s (tcmKey (16 * cl) 0) (2 ^ 20)) (tcmKey (16 * cl) 0) (2 ^ 20)
  let c := s.cluster cl
  s.setCluster cl { c with
    launch := some u, wsBase := tget 0 sv.bases cl, guards := tget [] sv.guards cl, sources := tget [] sv.sources cl
    wsHeld := c.wsHeld.filter fun h => h.1 != u }

/-- The partition of a launch is restored (R457); the arrivals that were diverted are applied first, and then the messages that fell out go on (R455). -/
def switchIn (s : State) (u : Nat) (l : Launch) (sv : Saved) : State :=
  let s := l.clusters.foldl (fun s cl => enterCluster s u sv cl) s
  let slots : Tbl Slot := sv.slots.map fun p => (p.1, resumedSlot s sv p.2)
  let s : State := { s with
    slots := tmerge s.slots slots
    cores := tmerge s.cores sv.cores
    tiles := tmerge s.tiles sv.tiles
    pools := tmerge s.pools sv.pools
    tmes := tmerge s.tmes (sv.tmes.map fun p => (p.1, resumedTme p.2))
    mem := sv.mem.foldl (fun m p => Memory.put m p.1 p.2) s.mem
    fe := tmerge s.fe sv.fe
    qm := { s.qm with saved := tdel s.qm.saved u } }
  let s := sv.copies.foldl (fun (s : State) q => s.setCopyEng q.1 { s.copyEng q.1 with ops := insertCopy q.2 (s.copyEng q.1).ops }) s
  let s := sv.tabs.foldl (fun (s : State) q => s.setCopyEng q.1 { s.copyEng q.1 with tabs := tset (s.copyEng q.1).tabs q.2.1 q.2.2 }) s
  let s := sv.held.foldl applyHeld (s.setLaunch u { l with out := false, since := s.tb })
  { s with net := tmerge s.net sv.fallen }

/-! ## When a partition is switched (R448, R449) -/

/-- Two launches share a cluster. -/
def launchesMeet (a b : Launch) : Bool := rectsMeet a.x a.y a.record.pw a.record.ph b.x b.y b.record.pw b.record.ph

/-- The deadline of the job of a contract (R447). -/
def jobDeadline (l : Launch) : Nat := l.r0 + l.job * l.record.contract.period + l.record.contract.deadline

/-- A contract's job comes before another's (R448). -/
def earlierJob (a b : Launch) : Bool :=
  decide (jobDeadline a < jobDeadline b) || (jobDeadline a == jobDeadline b && decide (a.stream < b.stream))

/-- Every cluster of the launch that lies in a contract's placement has its save area (R456). -/
def canSave (s : State) (l : Launch) : Bool := l.clusters.all fun cl => !inContract s cl || (s.cluster cl).reserved

/-- A slot has an access or a trap that is performed before a switch completes: a window store or an `l2zero` that its home slice has not performed, an `l2zero`
that waits for a walk (Table 11.7), or a trap whose record is not stored yet (R454). -/
def settling (l : Slot) : Bool :=
  match l.wait with
  | .performs _ => true
  | .walk | .walkFull _ => l.entry.isSome || (match instrAt l with
    | some (.l2zero _ _) => true
    | _ => false)
  | _ => l.entry.isSome

/-- No slot of a launch has such an access or trap. -/
def settled (s : State) (l : Launch) : Bool := !(tmine s.slots l 64).any fun p => p.2.chan.isSome && settling p.2

/-- The queue manager switches a partition out: for a due job of a contract with an earlier deadline, for a contract that is ready to start, or
because its own job has ended and its clusters are wanted. -/
def leaves (s : State) (u : Nat) (l : Launch) : Bool :=
  let others := s.launches.filter fun p => p.1 != u && p.2.out && launchesMeet p.2 l
  let due := others.any fun p => jobDue p.2 && (!l.record.rtc || l.jobDone || earlierJob p.2 l)
  let ready := s.qm.streams.any fun p => match p.2.ready, p.2.placed with
    | some r, some q => r.rtc && rectsMeet q.1 q.2 r.pw r.ph l.x l.y l.record.pw l.record.ph
    | _, _ => false
  let idle := l.record.rtc && l.jobDone && (others != [] || s.qm.streams.any fun p => p.2.ready.isSome)
  !l.out && !tearing s l.ctx && canSave s l && settled s l && (due || (ready && !l.record.rtc) || idle)

/-- R454: the partition of launch `sel` is switched out. -/
def execGangSwitchOut (s : State) : Step :=
  match s.launch? s.sel with
  | none => .next s
  | some l => if leaves s s.sel l then .next (switchOut s s.sel l) else .next s

/-- The queue manager switches a partition in: its clusters are free, and no due job comes before it. -/
def enters (s : State) (u : Nat) (l : Launch) : Bool :=
  let due := (s.launches.filter fun p => p.1 != u && p.2.out && launchesMeet p.2 l && jobDue p.2).map (·.2)
  l.out && l.clusters.all (clusterIdle s) && !tearing s l.ctx &&
    if l.record.rtc then jobDue l && due.all fun d => !earlierJob d l else due.isEmpty

/-- R457: the partition of launch `sel` is switched in; an error in its save area is a fatal fault of its context (R462). -/
def execGangSwitchIn (s : State) : Step :=
  match s.launch? s.sel, s.qm.saved.find? fun p => p.1 == s.sel with
  | some l, some sv =>
    if enters s s.sel l then
      .next (if (areaLoss s l).isSome then savedFatal s l (areaLoss s l) else switchIn s s.sel l sv.2)
    else .next s
  | _, _ => .next s

/-! ## Contract jobs (R447, R449) -/

/-- The unit of an error entry of a contract: the north-west cluster of its placement. -/
def contractUnit (s : State) (l : Launch) : Word := placeId s (64 * (32 * l.y + l.x))

/-- Re-enables the channels that the record names, on the cores or in what is saved of them. -/
def reenable (s : State) (u : Nat) (l : Launch) : State :=
  let on := fun (k : Nat) (c : CoreSt) =>
    { c with chans := (l.record.chans.filter fun e => namesCore e.cores (k % 16)).foldl (fun t e =>
        tset t e.ch { tget Channel.init t e.ch with en := true }) c.chans }
  if l.out then
    { s with qm := { s.qm with saved := s.qm.saved.map fun p =>
        if p.1 = u then (p.1, { p.2 with cores := p.2.cores.map fun q => (q.1, on q.1 q.2) }) else p } }
  else (l.clusters.flatMap fun cl => numbers (16 * cl) 16).foldl (fun s k => s.setCore k (on k (s.core k))) s

/-- R447, R449: the next release of contract `sel` has come: its job starts, or the deadline miss of the unfinished one is recorded and a job
that was switched out for its budget resumes with a fresh one, also after the contract has been cancelled. -/
def execContractJobRelease (s : State) : Step :=
  match s.launch? s.sel with
  | none => .next s
  | some l =>
    let u := s.sel
    if !l.record.rtc || (l.cancelled && l.jobDone) || tearing s l.ctx || decide (s.tb < l.r0 + l.rel * l.record.contract.period) then .next s
    else if l.jobDone then
      let n := { l with job := l.rel, rel := l.rel + 1, jobDone := false, overrun := false, used := 0, since := s.tb }
      .next (sendStarts (reenable (s.setLaunch u n) u n) u n (some n.job))
    else
      let s := errorEntry s l.ctx 10 0 0 (contractUnit s l) (wordN l.job)
      .next (s.setLaunch u { l with rel := l.rel + 1, used := if l.overrun then 0 else l.used, overrun := false })

/-- R449: the job of contract `sel` has consumed its budget without ending: its partition is switched out once its slots have settled. -/
def execContractBudgetOverrun (s : State) : Step :=
  match s.launch? s.sel with
  | none => .next s
  | some l =>
    let u := s.sel
    if !l.record.rtc || l.out || l.jobDone || tearing s l.ctx || !settled s l || decide (l.used + (s.tb - l.since) < l.record.contract.budget) then .next s
    else
      let s := errorEntry s l.ctx 9 0 0 (contractUnit s l) (wordN l.job)
      .next (switchOut s u { l with overrun := true })

end Sys2Proof.Machine
end

