-- ==== Sys2Proof/Machine/Control.lean ====
section
/-!
DEFINITION. The debug facilities (16 R467, R471), the frame encoders (16 R450 to R453), the discipline of the time base (16 R438) and the
training of the fabric (14 R400).
-/

namespace Sys2Proof.Machine

/-! ## Debug (R467, R471) -/

/-- A frame encoder has a frame of a context in progress: it stops between frames (R467). -/
def encodersBusy (s : State) (c : Nat) : Bool := s.encs.any fun p => p.2.streams.any fun q => q.2.pend.isSome && leAt q.2.desc 2 2 == c

/-- An operation of a context is in progress in a matrix, copy or collective engine. -/
def enginesBusy (s : State) (c : Nat) : Bool :=
  (s.copies.any fun p => p.2.ops.any fun o => o.started && o.ctx == c) ||
  (s.colls.any fun p => p.2.any fun o => o.started && o.ctx == c) ||
  (s.tmes.any fun p => p.2.ops.any (·.started) && (s.launchAt (p.1 / 8)).any fun l => l.ctx == c)

/-- DBGSTAT of a context (Table 16.10). While ENGHALT is set, STOPPED reads 1 once every operation in progress has reached its stop point; when
that is seen is free. -/
def dbgStat (s : State) (c : Nat) : State × Word :=
  if !tget false s.enghalt c then (s, 0)
  else if encodersBusy s c then (s, 1)
  else if tget false s.engStop c || !enginesBusy s c then ({ s with engStop := tset s.engStop c true }, 3)
  else if Config.choose s.free then ({ s.draw with engStop := tset s.engStop c true }, 3)
  else (s.draw, 1)

/-- ENGHALT of a context is set: its matrix engines reach their stop points (R229, R467). -/
def haltEngines (s : State) (c : Nat) : State :=
  let tiles := (s.tmes.filter fun p => (s.launchAt (p.1 / 8)).any fun l => l.ctx == c).map (·.1)
  tiles.foldl tmeStop { s with enghalt := tset s.enghalt c true }

/-- `dbgctl` stat, halt and run (Table 16.12): DBGSTAT to s[D], then ENGHALT. -/
def dbgForm (s : State) (g : Guard) (d : Reg) (set : Option Bool) : Step :=
  head s g { priv := true } fun s =>
    let c := s.ctx
    let r := dbgStat s c
    let s := match set with
      | none => r.1
      | some true => haltEngines r.1 c
      | some false => { r.1 with enghalt := tset r.1.enghalt c false, engStop := tset r.1.engStop c false }
    .retire (s.setS d r.2) .seq

/-- R471. -/
def execDbgctlStat (g : Guard) (d : Reg) (s : State) : Step := dbgForm s g d none
/-- R471. -/
def execDbgctlHalt (g : Guard) (d : Reg) (s : State) : Step := dbgForm s g d (some true)
/-- R471. -/
def execDbgctlRun (g : Guard) (d : Reg) (s : State) : Step := dbgForm s g d (some false)
/-- R471. -/
def execDbgctlSettle (g : Guard) (d : Reg) (s : State) : Step :=
  head s g { priv := true } fun s =>
    let r := dbgStat s s.ctx
    if r.2 = 1 then .wait r.1 .poll else .retire (r.1.setS d r.2) .seq

/-- No later head of a context issues (R471). -/
def stopContext (s : State) (c : Nat) : State :=
  { s with slots := s.slots.map fun p =>
      (p.1, if p.2.chan.isSome && (s.launchAt (clusterOf p.1)).any (fun l => l.ctx == c) then { p.2 with wait := .stopped } else p.2) }

/-- R471. -/
def execDbgctlKill (g : Guard) (d a : Reg) (s : State) : Step :=
  head s g { priv := true } fun s =>
    let c := (s.getS a).toNat
    let s := if c < 4096 then ctxTouch s c else s
    if planeBusy s then .wait s .poll
    else if !ctxValid s c then .retire (s.setS d 1) .seq
    else if c = s.ctx then .over (stopContext (startTear s c) c)
    else .retire ((startTear s c).setS d 0) .seq

/-! ## Encoder tables (R450) -/

/-- The fields of an encoder descriptor are in range (Table 16.3). -/
def encDescOk (b : List Byte) : Bool :=
  let w := leAt b 4 2
  let h := leAt b 6 2
  let rc1 := fB (leAt b 0 1) 2
  let out := wordN (leAt b 16 8)
  decide (leAt b 0 1 < 8) && decide (leAt b 2 2 < 4096) && w % 8 == 0 && decide (64 ≤ w) && decide (w ≤ 4096) && h % 8 == 0 &&
    decide (64 ≤ h) && decide (h ≤ 2304) &&
    (match localWhere (leAt b 8 4) with | .csp o => o % 128 == 0 | _ => false) &&
    decide (leAt b 12 1 ≤ 31) && decide (leAt b 13 1 ≤ 31) && out.toNat % 64 == 0 && whereIs out == .global &&
    leAt b 24 4 % 64 == 0 && decide (65536 ≤ leAt b 24 4) && decide (leAt b 24 4 ≤ 2 ^ 31) &&
    (if rc1 then decide (512 ≤ leAt b 28 4) else decide (1 ≤ leAt b 28 4) && decide (leAt b 28 4 ≤ 255)) &&
    decide (1 ≤ leAt b 32 2) && decide (leAt b 34 1 ≤ 31) && decide (leAt b 35 1 ≤ 31) && decide (leAt b 36 1 ≤ 15) &&
    decide (leAt b 37 1 ≤ 63) && leAt b 38 26 == 0

/-- UNIT of an error entry of a die. -/
def dieUnit (s : State) (die : Nat) : Word := wordN (s.module.toNat * 2 ^ 38 + die * 2 ^ 34)

/-- The physical address of entry `e` of the table of a die's encoder. -/
def encEntryAddr (s : State) (die e : Nat) : Nat := s.encTab.toNat * 64 + 6144 * die + 64 * e

/-- The bytes of an entry of an encoder's table; none where the table lies in no memory of the module or is lost. -/
def encEntry (s : State) (die e : Nat) : State × HomeAns :=
  if ownMemory s (encEntryAddr s die e) then homeRead s (whoEnc die) (encEntryAddr s die e) 0 64 else (s, .lost)

/-- Replaces a stream of an encoder. -/
def setEnc (s : State) (die e : Nat) (x : EncStream) : State :=
  let c := tget Encoder.init s.encs die
  { s with encs := tset s.encs die { c with streams := tset c.streams e x } }

/-- A stream of an encoder is removed. -/
def dropEnc (s : State) (die e : Nat) : State :=
  let c := tget Encoder.init s.encs die
  { s with encs := tset s.encs die { c with streams := tdel c.streams e } }

/-- Entry `e` of the table of a die's encoder has been reread as some bytes: a stream whose descriptor has not changed goes on. -/
def entryReread (s : State) (die e : Nat) (b : List Byte) : State :=
  let old := tget EncStream.init (tget Encoder.init s.encs die).streams e
  if !fB (leAt b 0 1) 0 then dropEnc s die e
  else if encDescOk b then setEnc s die e (if old.valid && old.desc == b then old else { EncStream.init with valid := true, desc := b })
  else errorEntry (dropEnc s die e) (leAt b 2 2) 8 0 0 (dieUnit s die) (wordN e)

/-- Reads entry `e` of the table of a die's encoder again. -/
def rereadEntry (s : State) (die e : Nat) : State :=
  match encEntry s die e with
  | (s, .bytes b) => entryReread s die e b
  | (s, _) => entryReread s die e []

/-- Every entry of the table of a die's encoder can be read now. -/
def tableSeen (s : State) (die : Nat) : State × Bool :=
  (List.range 96).foldl (fun q e => let r := encEntry q.1 die e; (r.1, q.2 && r.2 != .later)) (s, true)

/-- The table of a die's encoder is to be read again, or no longer. -/
def setStale (s : State) (die : Nat) (x : Bool) : State := { s with encs := tset s.encs die { tget Encoder.init s.encs die with stale := x } }

/-- Rereads the whole table of a die's encoder (R450), unless a frame is still to be finished under its old entry, or it cannot be read yet. -/
def rereadTable (s : State) (die : Nat) : State :=
  if (tget Encoder.init s.encs die).streams.any fun q => q.2.pend.isSome then setStale s die true
  else
    let q := tableSeen s die
    if q.2 then (List.range 96).foldl (fun s e => rereadEntry s die e) (setStale q.1 die false) else setStale q.1 die true

/-- ENCTAB as a CSR value. -/
def encTabWord (s : State) : Word := wordN (s.encTab.toNat * 64)

/-- R450, R149: a write of ENCTAB. -/
def execEnctabWrite (g : Guard) (op : CsrOp) (d a : Reg) (s : State) : Step :=
  head s g { priv := true } fun s =>
    let old := encTabWord s
    let s := if op = .csrr then s
      else
        let s := { s with encTab := (csrNew op old (s.getS a)).extractLsb' 6 46 }
        (List.range 16).foldl rereadTable s
    .retire (s.setS d old) .seq

/-! ## Encoder frames (R451 to R453) -/

/-- The encoder of a die as a reader for a stream (R451). -/
def encReader (die : Nat) (x : EncStream) : Reader := planeReader (whoEnc die) (leAt x.desc 2 2) false x.wait

/-- The rows of a plane, one after another. -/
def planeRows (s : State) (r : Reader) (va : Word) (pitch n : Nat) : Nat → Nat → List Byte → EngAns (List Byte)
  | 0, _, acc => .ok s acc
  | k + 1, i, acc => (planeRead s r (va + wordN (i * pitch)) n).andThen fun s bs => planeRows s r va pitch n k (i + 1) (acc ++ bs)

/-- Luma and chroma of a frame (R451). -/
def frameBytes (s : State) (r : Reader) (luma chroma : Word) (pitch w h : Nat) : EngAns (List Byte) :=
  (planeRows s r luma pitch w h 0 []).andThen fun s y => planeRows s r chroma pitch w (h / 2) 0 y

/-! ## The temporal unit of a frame (R453)

The rule fixes the profile, the sampling, the depth, the size and the type of a frame; their places in the bits are those of the AV1 bitstream (PRESUMED, log entry 15). -/

/-- A number as bits, the highest first. -/
def bitsOf (w n : Nat) : List Bool := (List.range w).map fun i => n.testBit (w - 1 - i)

/-- Bits as bytes, the highest first, the last byte filled with zeros. -/
def bytesOfBits (l : List Bool) : List Byte :=
  (List.range (ceilDiv l.length 8)).map fun i =>
    BitVec.ofNat 8 ((List.range 8).foldl (fun n k => 2 * n + b2n (l.getD (8 * i + k) false)) 0)

/-- A size in groups of 7 bits, the lowest first. -/
def leb128 : Nat → Nat → List Byte
  | 0, _ => []
  | fuel + 1, n => if n < 128 then [BitVec.ofNat 8 n] else BitVec.ofNat 8 (128 + n % 128) :: leb128 fuel (n / 128)

/-- A unit of the bitstream of a type, with its size. -/
def av1Obu (type : Nat) (bs : List Byte) : List Byte := BitVec.ofNat 8 (8 * type + 2) :: (leb128 8 bs.length ++ bs)

/-- The sequence header of a stream (R453): profile 0, W × H, 8 or 10 bits, not monochrome, which is 4:2:0 in that profile. -/
def av1SequenceHeader (b : List Byte) : List Byte :=
  let q := Config.av1Sequence b
  let wb := 12 + q.wide.val
  let hb := 12 + q.high.val
  bytesOfBits (bitsOf 3 0 ++ List.replicate 4 false ++ bitsOf 17 0 ++ bitsOf 5 q.level.toNat ++ (if 7 < q.level.toNat then [q.tier] else []) ++
    bitsOf 4 (wb - 1) ++ bitsOf 4 (hb - 1) ++ bitsOf wb (leAt b 4 2 - 1) ++ bitsOf hb (leAt b 6 2 - 1) ++ q.tools ++
    [fB (leAt b 0 1) 1, false, false, q.range] ++ bitsOf 2 q.place.toNat ++ [q.deltas, q.grain, true])

/-- The frame of a temporal unit, shown: a key frame, or an inter frame. -/
def av1FrameObu (key : Bool) (p : BitVec 4 × List Byte) : List Byte :=
  av1Obu 6 (BitVec.ofNat 8 ((if key then 0x10 else 0x30) + p.1.toNat) :: p.2)

/-- The temporal unit of frame `n` of a stream: a delimiter, the sequence header before a key frame, and the frame. -/
def av1Unit (frames b : List Byte) (key : Bool) (n : Nat) : List Byte :=
  av1Obu 2 [] ++ (if key then av1Obu 1 (av1SequenceHeader b) else []) ++ av1FrameObu key (Config.av1Frame frames b n)

/-! ## Units and completions (R452) -/

/-- The number that tells the messages of an encoder apart. -/
def engEnc (die : Nat) : Nat := 2048 + die

/-- The launch of a context that has a cluster: the one that runs there, or else the first that is switched out there (log entry 37). -/
def launchOfCtx (s : State) (cl c : Nat) : Option Nat :=
  let mine := (s.launches.filter fun p => p.2.ctx == c && rectsMeet (clX cl) (clY cl) 1 1 p.2.x p.2.y p.2.record.pw p.2.record.ph).map (·.1)
  match (s.cluster cl).launch with
  | some u => if mine.contains u then some u else mine.find? (launchOut s)
  | none => mine.find? (launchOut s)

/-- The completion message of a frame (R452), to a core of a launch of the stream's context; one that is switched out has it diverted (R455). -/
def encMessage (s : State) (die : Nat) (b : List Byte) (off status : Nat) (key : Bool) (len : Nat) (pts : Word) (dests : List (Nat × Nat)) : State :=
  let cl := 32 * leAt b 35 1 + leAt b 34 1
  match launchOfCtx s cl (leAt b 2 2) with
  | some u =>
    engineMessage s (16 * cl + leAt b 36 1) u (engEnc die) (leAt b 37 1) 1
      (wordN (off % 2 ^ 32 + status * 2 ^ 32 + b2n key * 2 ^ 40)) (wordN len) pts dests
  | none => s

/-- A frame ends: the completion, its error entry (R464), and the reread of a table that a write of ENCTAB has asked for. -/
def encEnd (s : State) (die e : Nat) (x : EncStream) (off status : Nat) (key : Bool) (len : Nat) (pts : Word)
    (dests : List (Nat × Nat)) : State :=
  let s := setEnc s die e { x with pend := none, wait := .none }
  let s := if status = 0 then s else errorEntry s (leAt x.desc 2 2) 3 status 0 (dieUnit s die) (wordN e)
  let s := encMessage s die x.desc off status key len pts dests
  if (tget Encoder.init s.encs die).stale then rereadTable s die else s

/-- The ranges that a unit takes from an offset of the output data, wrapping, and then WR (R452). -/
def encRanges (b : List Byte) (off : Nat) (bs : List Byte) : List (Word × List Byte) :=
  let size := leAt b 24 4
  let here := size - off % size
  let base := wordN (leAt b 16 8 + 64)
  [(base + wordN (off % size), bs.take here)] ++ (if bs.length ≤ here then [] else [(base, bs.drop here)]) ++
    [(wordN (leAt b 16 8), bytesOf 8 (off + bs.length))]

/-- The lines of the module's own memory that are to be written in part are read: an uncorrectable error ends the writes of an encoder before they begin (R310). -/
def encLines (s : State) (r : Reader) : List (Nat × Nat × Nat × Nat) → EngAns Unit
  | [] => .ok s ()
  | (_, n, pa, key) :: t =>
    if !ownMemory s pa || n == 512 then encLines s r t else (engReadHome s r pa key 1 0).andThen fun s _ => encLines s r t

/-- The places of the writes of a unit and of WR after it (R452). -/
def encPlaces (s : State) (r : Reader) (b : List Byte) (off : Nat) (bs : List Byte) : EngAns (List Placed) :=
  (planePlaces s r (encRanges b off bs)).andThen fun s ps => (encLines s r (ps.flatMap fun p => p.2.2)).andThen fun s _ => .ok s ps

/-- A status other than 0 of a read or a translation that fails (R452). -/
def encStatus (code : Nat) : Nat := if code = 5 then 2 else 1

/-- Nothing that an encoder has written is still to be performed. -/
def encPerformed (s : State) (die : Nat) : Bool := !writesPending s (whoEnc die) && !awayPending s (whoEnc die)

/-- A unit that is performed at home is followed by WR, and WR by the completion (R452). -/
def encAdvance (s : State) (die e : Nat) (x : EncStream) (u : EncUnit) : State :=
  match u.sent with
  | none => s
  | some (pa, key, ranges) =>
    let ends := fun (s : State) (u : EncUnit) => if u.lost then encEnd s die e x 0 2 u.key 0 u.pts []
      else encEnd s die e x (u.off % 2 ^ 32) 0 u.key u.bytes.length u.pts ranges
    if !encPerformed s die then s
    else if u.adv || u.lost then ends s u
    else
      let s := homeWrite s (whoEnc die) (leAt x.desc 2 2) pa key (bytesOf 8 (u.off + u.bytes.length))
      if encPerformed s die then ends s u else setEnc s die e { x with pend := some { u with adv := true } }

/-- The bytes of a unit are written to their places (R452), and WR after them. -/
def encSend (s : State) (die e : Nat) (x : EncStream) (u : EncUnit) (wr : Nat) (ps : List Placed) : State :=
  let w := planePuts s (whoEnc die) (leAt x.desc 2 2) ps.dropLast
  let last := ((ps.getLast?).bind fun p => p.2.2.head?).elim (0, 0) fun p => p.2.2
  let ranges := ps.flatMap fun p => p.2.2.map fun q => (q.2.2.1, q.2.1)
  let u := { u with due := s.tb, off := wr, sent := some (last.1, last.2, ranges), lost := u.lost || w.2.2.isSome }
  let x := { x with pend := some u, wait := .none }
  encAdvance (setEnc w.1 die e x) die e x u

/-- A unit is written where there is room, and WR advances; otherwise RD is read again 10 µs later (R452). -/
def encDeliver (s : State) (die e : Nat) (x : EncStream) (u : EncUnit) : State :=
  let r := encReader die x
  let held := { x with pend := some u }
  match planeRead s r (wordN (leAt x.desc 16 8)) 16 with
  | .later s w => setEnc s die e { held with wait := w }
  | .err s c _ => encEnd s die e x 0 (encStatus c) u.key 0 u.pts []
  | .ok s cb =>
    let wr := leAt cb 0 8
    let used := (wr + 2 ^ 64 - leAt cb 8 8) % 2 ^ 64
    let size := leAt x.desc 24 4
    if size < used ∨ size - used < u.bytes.length then setEnc s die e { held with pend := some { u with due := s.tb + 10000 }, wait := .none }
    else
      match encPlaces s r x.desc wr u.bytes with
      | .later s w => setEnc s die e { held with wait := w }
      | .err s c _ => encEnd s die e x 0 (encStatus c) u.key 0 u.pts []
      | .ok s ps => encSend s die e x u wr ps

/-- A range at a local offset of a cluster belongs to a launch of a context: one that runs there, or one that is switched out and keeps its CSP blocks (R456). -/
def encOwns (s : State) (cl c off n : Nat) : Bool :=
  match localWhere off with
  | .csp o => (s.cluster cl).allocs.any fun a =>
      (s.launch? a.owner).any (fun l => l.ctx == c) && decide (4096 * a.base ≤ o) && decide (o + n ≤ 4096 * (a.base + a.blocks))
  | _ => (s.launchAt cl).any (fun l => l.ctx == c) && inAllocation s (16 * cl) off n

/-- The header of the ring of a stream at its cluster, if it lies in an allocation of the stream's context: the first core of the cluster and its key (Table 16.3). -/
def encHeader (s : State) (b : List Byte) : Option (Nat × Nat) :=
  let cl := 32 * leAt b 13 1 + leAt b 12 1
  let hdr := leAt b 8 4
  if encOwns s cl (leAt b 2 2) hdr 128 then some (16 * cl, localKey (16 * cl) (localWhere hdr)) else none

/-- The ring of a stream at its cluster (R258), if it is one of a launch of the stream's context: the first core of the cluster, the key of the header and the ring. -/
def encRing (s : State) (b : List Byte) : Option (Nat × Nat × Ring) :=
  (encHeader s b).bind fun h =>
    let r := ringAt s h.2
    if r.ok ∧ encOwns s (h.1 / 16) (leAt b 2 2) r.base (r.nslot * r.sz) then some (h.1, h.2, r) else none

/-- The header of the ring of a stream is lost to an uncorrectable error. -/
def encHeaderLost (s : State) (b : List Byte) : Bool := (encHeader s b).any fun h => s.lostIn h.2 128

/-- A context exists: it is valid, and is not being torn down (R453). -/
def ctxLive (s : State) (c : Nat) : Bool := ctxValid s c && !tget false s.torn c && !tearing s c

/-- The ring of a stream has a frame, and no slot waits for it in `rbtake` (R260). -/
def encFilled (s : State) (b : List Byte) : Bool := (encRing s b).any fun r => decide (1 ≤ r.2.2.filled) && !olderRing s none r.2.1 1 (s.age + 1)

/-- A stream of an encoder may go on: it is valid, its context exists, and its engines are not halted (R453, R467). -/
def EncStream.live (x : EncStream) (s : State) : Bool := x.valid && ctxLive s (leAt x.desc 2 2) && !tget false s.enghalt (leAt x.desc 2 2)

/-- The streams of an encoder that have a frame to encode, or whose ring header is lost. -/
def encReady (s : State) (die : Nat) : List Nat :=
  let c := tget Encoder.init s.encs die
  if c.streams.any fun q => q.2.pend.isSome then []
  else (c.streams.filter fun q => q.2.live s && (encHeaderLost s q.2.desc || encFilled s q.2.desc)).map (·.1)

/-- The stream that is next in the round robin of a die's encoder. -/
def encNext (s : State) (die : Nat) : Option Nat :=
  let l := encReady s die
  match l.find? fun e => decide ((tget Encoder.init s.encs die).next ≤ e) with
  | some e => some e
  | none => l.head?

/-- The encoder takes a slot of a ring, and releases it once it has read the frame (R451). -/
def encTakes (s : State) (die e k : Nat) (r : Ring) (i : Nat) : State :=
  let c := tget Encoder.init s.encs die
  let s := { s with encs := tset s.encs die { c with next := e + 1 } }
  (r.put true i 1).elim s fun r => s.write k r.bytes

/-- Encodes the frame of a ring slot at a memory key (R451, R453); `took` takes the slot and releases it. -/
def encodeSlot (s : State) (die e : Nat) (x : EncStream) (slot : Nat) (took : State → State) : State :=
  let b := x.desc
  let w := leAt b 4 2 * (if fB (leAt b 0 1) 1 then 2 else 1)
  let luma := wordN (s.num slot 8)
  let chroma := wordN (s.num (slot + 8) 8)
  let pitch := s.num (slot + 16) 4
  let pts := wordN (s.num (slot + 24) 8)
  if s.lostIn slot 32 then encEnd (took s) die e x 0 2 false 0 pts []
  else if pitch % 64 ≠ 0 ∨ pitch < w then encEnd (took s) die e x 0 3 false 0 pts []
  else
    match frameBytes s (encReader die x) luma chroma pitch w (leAt b 6 2) with
    | .later s y => setEnc s die e { x with wait := y }
    | .err s c _ => encEnd (took s) die e x 0 (encStatus c) false 0 pts []
    | .ok s bs =>
      let key := x.count % leAt b 32 2 == 0
      let frames := if key then bs else x.frames ++ bs
      let x := { x with count := x.count + 1, frames := frames, wait := .none }
      encDeliver (setEnc (took s) die e x) die e x ⟨av1Unit frames b key (x.count - 1), key, pts, 0, 0, none, false, false⟩

/-- R452: the encoder of a die takes a slot of the ring of stream `entry`, which is next in its round robin, and encodes its frame. A stream whose ring header is lost
completes with a data loss, and goes on when its table is read again (log entry 55). -/
def execEncoderFrame (die entry : Nat) (s : State) : Step :=
  if encNext s die ≠ some entry then .next s
  else
    let x := tget EncStream.init (tget Encoder.init s.encs die).streams entry
    let s := ctxTouch s (leAt x.desc 2 2)
    if encHeaderLost s x.desc then .next (encEnd s die entry { x with valid := false } 0 2 false 0 0 [])
    else
      match encRing s x.desc with
      | none => .next s
      | some (core, k, r) =>
        match r.get true 1 with
        | none => .next s
        | some (a, r) =>
          .next (encodeSlot s die entry x (localKey core (localWhere a)) fun s => (r.slotAt a).elim s (encTakes s die entry k r))

/-- R452: 10 µs after RD was read a waiting encoder reads it again; an encoder that has sent a unit goes on once it is performed. -/
def execEncoderRdPoll (die entry : Nat) (s : State) : Step :=
  let x := tget EncStream.init (tget Encoder.init s.encs die).streams entry
  match x.pend with
  | none => .next s
  | some u =>
    if u.sent.isSome then .next (encAdvance s die entry x u)
    else if u.due ≤ s.tb then .next (encDeliver s die entry x u) else .next s

/-! ## The time base and the fabric (R438, R400) -/

/-- The distance of two numbers. -/
def apart (a b : Nat) : Nat := (a - b) + (b - a)

/-- R438: a synchronisation message with the master's time; the first one steps the time base forward. -/
def execTimeSyncMessage (master : BitVec 64) (s : State) : Step :=
  if !s.mgmt.fabric || s.tbMaster then .next s
  else
    let t := if s.mgmt.locked then s.tb else max s.tb master.toNat
    let lock := decide (apart t master.toNat ≤ 20)
    .next { s with tb := t, tbLock := lock, mgmt := { s.mgmt with locked := s.mgmt.locked || lock, lastSync := t } }

/-- R438: 1 ms has passed without a synchronisation message. -/
def execTimeSyncLoss (s : State) : Step :=
  if s.tbLock && !s.tbMaster && decide (s.mgmt.lastSync + 1000000 ≤ s.tb) then
    .next { s with tbLock := false, mgmt := { s.mgmt with losses := s.mgmt.losses + 1 } }
  else .next s

/-- R400, R20, R438: the fabric has trained and gives the module its number; module 0 is the time master. -/
def execFabricTraining (module : BitVec 10) (s : State) : Step :=
  if s.mgmt.fabric || !s.hib.ready || 576 ≤ module.toNat then .next s
  else
    .next { s with module := module, tbMaster := module == 0, tbLock := module == 0, mgmt := { s.mgmt with fabric := true } }

end Sys2Proof.Machine
end

