-- ==== Sys2Proof/Machine/Csr.lean ====
section
/-!
DEFINITION. The control and status registers (05 R127 to R131, R149) with the field maps of every chapter.
-/

namespace Sys2Proof.Machine

/-! ## Values -/

/-- SSTAT (Table 5.3). -/
def sstatWord (l : Slot) : Word :=
  wordN (2 ^ 11 * b2n l.intrap + 2 ^ 10 * b2n l.ppriv + 2 ^ 9 * b2n l.priv + 8 * b2n l.lai + 4 * b2n l.lao)

/-- GUARDS (Table 5.4). -/
def guardsWord (s : State) : Word :=
  wordN ((List.range 8).foldl (fun n i => n + 2 ^ i * b2n (s.getG (Fin.ofNat 8 i))) 0)

/-- MONSTAT (Table 6.5). -/
def monstatWord (m : Monitor) : Word := wordN (64 * m.sector.toNat + 4 * b2n m.rearm + 2 * b2n m.hit + b2n m.armed)

/-- Lanes that a waiting request lacks. -/
def lacking (p : Pool) : Nat :=
  match p.blocked with
  | .claim _ _ _ m _ :: _ => m - p.free
  | _ => 0

/-- VSTAT (Table 7.2). -/
def vstatWord (s : State) : Word :=
  let p := pool s (octetOf s.cur)
  wordN (2 ^ 32 * lacking p + 2 ^ 16 * p.free + grant s)

/-- MCONF (Table 8.7). -/
def mconfWord (e : Tme) : Word :=
  wordN (2 ^ 18 * e.fch.toNat + 2 ^ 6 * e.conf.base.toNat + 2 * b2n e.conf.act + b2n e.conf.mode)

/-- A latch in MSTAT: 0 EMPTY, 1 LOADING, 2 LOADED; one that a restored engine is still to reload is loading (R230). -/
def latchCode (e : Tme) (b : Bool) : Nat := if (e.latch b).loading || e.resume.contains b then 1 else if (e.latch b).loaded then 2 else 0

/-- MSTAT (Table 8.7). -/
def mstatWord (e : Tme) : Word :=
  wordN (2 ^ 24 * e.qrows + 2 ^ 20 * e.ops.length + 2 ^ 16 * e.fcode + 2 ^ 8 * b2n e.halt + 2 ^ 7 * b2n e.movf + 2 ^ 6 * b2n e.lb.oneh +
    2 ^ 5 * b2n e.la.oneh + 2 ^ 3 * latchCode e true + 2 * latchCode e false + b2n (e.ops.any (·.started)))

/-- Journal entries of a core in a state. -/
def jcount (k : CoreSt) (st : JState) : Nat := k.journal.countP fun p => p.2.st == st

/-- MSGSTAT (Table 14.9). -/
def msgstatWord (k : CoreSt) : Word :=
  wordN (2 ^ 18 * jcount k .refused + 2 ^ 12 * jcount k .posted + 2 ^ 8 * k.out + k.inbox.length)

/-- JREF (Table 14.9). -/
def jrefWord (k : CoreSt) : Word :=
  wordN ((k.journal.filter fun p => p.2.st == .refused).foldl (fun n p => n + 2 ^ p.1) 0)

/-- The contract of the launch of the executing slot, if it has one. -/
def myContract (s : State) : Option Launch := (s.launchAt s.myCl).filter (·.record.rtc)

/-- The value of a CSR (Table 5.2); a read of DBGSTAT may see the engines stopped. -/
def csrValue (s : State) (n : Nat) : State × Word :=
  let l := s.sl
  let k := s.core s.myCore
  let e := s.tme s.myTile
  match n with
  | 0x000 => (s, placeId s s.cur)
  | 0x001 => (s, l.fpstat.setWidth 64)
  | 0x002 => (s, sstatWord l)
  | 0x003 => (s, guardsWord s)
  | 0x004 => (s, wordN (s.cc - l.startCc))
  | 0x008 => (s, l.lco.setWidth 64)
  | 0x009 => (s, l.lbo)
  | 0x00A => (s, l.leo)
  | 0x00B => (s, l.lci.setWidth 64)
  | 0x00C => (s, l.lbi)
  | 0x00D => (s, l.lei)
  | 0x010 => (s, l.epc)
  | 0x011 => (s, l.ecause)
  | 0x012 => (s, l.eaddr)
  | 0x013 => (s, l.escr)
  | 0x040 => (s, l.retrylim.setWidth 64)
  | 0x041 => (s, monstatWord l.mon)
  | 0x042 => (s, wordN (cspFree (s.cluster s.myCl)))
  | 0x080 => (s, vstatWord s)
  | 0x081 => (s, l.vseed)
  | 0x082 => (s, l.vcoord)
  | 0x0C0 => (s, mconfWord e)
  | 0x0C1 => (s, mstatWord e)
  | 0x0C2 => (s, wordN (2 ^ 16 * e.detail + e.fseq.toNat))
  | 0x100 => (s, k.linkdir.setWidth 64)
  | 0x101 => (s, let t := s.tile s.myTile; wordN (2 ^ 8 * t.semFirst.toNat + b2n t.semSat))
  | 0x102 => (s, l.lhvec)
  | 0x103 => (s, l.lhpc)
  | 0x104 => (s, l.lhval)
  | 0x105 => (s, wordN (b2n l.lhact))
  | 0x140 => (s, srstat l)
  | 0x141 => (s, l.sfdet)
  | 0x1A0 => (s, wordN (ctxField s s.ctx 8 8 / 2 ^ 12 % 2 ^ 40 * 2 ^ 12))
  | 0x1A1 => (s, wordN s.ctx)
  | 0x1A2 => (s, l.gfinfo)
  | 0x1C0 => (s, wordN (2 ^ 8 * k.cflags.toNat + k.cch.toNat))
  | 0x1C1 => (s, l.cbar.setWidth 64)
  | 0x1C2 => (s, k.cseq.setWidth 64)
  | 0x1E0 => (s, wordN (2 ^ 8 * k.kch.toNat + k.rch.toNat))
  | 0x1E1 => (s, msgstatWord k)
  | 0x1E2 => (s, jrefWord k)
  | 0x1E3 => (s, s.sprue.setWidth 64)
  | 0x200 => (s, wordN (2 * b2n s.tbMaster + b2n s.tbLock))
  | 0x201 => (s, wordN (ctxField s s.ctx 16 8 / 64 * 64))
  | 0x202 => (s, wordN (ctxField s s.ctx 24 8 / 256 * 256))
  | 0x203 => (s, wordN (ctxField s s.ctx 32 8 / 64 * 64 % 2 ^ 52))
  | 0x204 => (s, wordN (b2n l.step))
  | 0x205 => dbgStat s s.ctx
  | 0x206 => (s, (myContract s).elim 0 fun l => wordN (2 ^ 63 + l.job % 2 ^ 32))
  | 0x207 => (s, (myContract s).elim 0 fun l => wordN (jobDeadline l))
  | 0x208 => (s, encTabWord s)
  | _ => (s, 0)

/-! ## Writes -/

/-- A write of a CSR: RW fields take the value, W1C fields are cleared where it has a one, RO and RSV fields stay (R128). -/
def csrWrite (s : State) (n : Nat) (v : Word) : State :=
  let l := s.sl
  let k := s.core s.myCore
  let e := s.tme s.myTile
  let t := s.tile s.myTile
  match n with
  | 0x001 => s.setSl { l with fpstat := v.setWidth 6 }
  | 0x002 => s.setSl { l with intrap := v.getLsbD 11, ppriv := v.getLsbD 10 }
  | 0x003 => s.setSl { l with g := Vector.ofFn fun i => i != 0 && v.getLsbD i.val }
  | 0x008 => s.setSl { l with lco := v.setWidth 32 }
  | 0x00B => s.setSl { l with lci := v.setWidth 32 }
  | 0x010 => s.setSl { l with epc := v }
  | 0x011 => s.setSl { l with ecause := wordN (v.toNat % 2 ^ 49) }
  | 0x012 => s.setSl { l with eaddr := v }
  | 0x013 => s.setSl { l with escr := v }
  | 0x040 => s.setSl { l with retrylim := v.setWidth 16 }
  | 0x081 => s.setSl { l with vseed := v }
  | 0x082 => s.setSl { l with vcoord := v }
  | 0x0C0 => s.setTme s.myTile { e with fch := v.extractLsb' 18 6 }
  | 0x0C1 => s.setTme s.myTile { e with movf := e.movf && !v.getLsbD 7 }
  | 0x100 => s.setCore s.myCore { k with linkdir := v.setWidth 32 &&& 0x1F1F1F1F#32 }
  | 0x101 => s.setTile s.myTile { t with semSat := t.semSat && !v.getLsbD 0 }
  | 0x102 => s.setSl { l with lhvec := v }
  | 0x103 => s.setSl { l with lhpc := v }
  | 0x1C0 => s.setCore s.myCore { k with cch := v.setWidth 6, cflags := k.cflags &&& ~~~ (v.extractLsb' 8 3) }
  | 0x1C1 => s.setSl { l with cbar := v.setWidth 24 }
  | 0x1E0 => s.setCore s.myCore { k with rch := v.setWidth 6, kch := v.extractLsb' 8 6 }
  | 0x1E3 => { s with sprue := v.setWidth 32 &&& 0x83FF83FF#32 }
  | 0x204 => s.setSl { l with step := v.getLsbD 0 }
  | _ => s

/-! ## The instructions (R149) -/

/-- The CSRs that a user-mode slot may not access (Table 5.2, None). -/
def csrHidden (n : Nat) : Bool :=
  [0x010, 0x011, 0x012, 0x013, 0x1A0, 0x201, 0x202, 0x203, 0x204, 0x205, 0x208].contains n

/-- A CSR instruction is privileged: a hidden register, or a write of one that a user-mode slot may only read (R128). -/
def csrPriv (op : CsrOp) (n : Nat) : Bool := csrHidden n || (op != .csrr && (n == 0x002 || n == 0x1E3))

/-- A CSR instruction on register `n`: the old value to s[D], the new one to the register. -/
def csrForm (s : State) (g : Guard) (op : CsrOp) (d a : Reg) (n : Nat) : Step :=
  head s g { priv := csrPriv op n } fun s =>
    let r := csrValue s n
    let t := if op = .csrr then r.1 else csrWrite r.1 n (csrNew op r.2 (s.getS a))
    .retire (t.setS d r.2) .seq

/-- R149. -/
def execCsrr (g : Guard) (d : Reg) (csr : BitVec 12) (s : State) : Step := csrForm s g .csrr d 0 csr.toNat
/-- R149. -/
def execCsrw (g : Guard) (d a : Reg) (csr : BitVec 12) (s : State) : Step := csrForm s g .csrw d a csr.toNat
/-- R149. -/
def execCsrs (g : Guard) (d a : Reg) (csr : BitVec 12) (s : State) : Step := csrForm s g .csrs d a csr.toNat
/-- R149. -/
def execCsrc (g : Guard) (d a : Reg) (csr : BitVec 12) (s : State) : Step := csrForm s g .csrc d a csr.toNat
/-- R149, R39: the heads of a slot complete in order, so every flag of an earlier instruction is in FPSTAT. -/
def execFpstatAccess (g : Guard) (op : CsrOp) (d a : Reg) (s : State) : Step := csrForm s g op d a 0x001

end Sys2Proof.Machine
end

