-- ==== Sys2Proof/Machine/Signatures.lean ====
section
/-!
DEFINITION. SHA-512 (FIPS 180-4) and SLH-DSA-SHA2-256s (FIPS 205), with which firmware images are verified (20 R500) and attestation reports signed (20 R503).
-/

namespace Sys2Proof.Machine

/-! ## SHA-512 -/

/-- The 80 constants of SHA-512. -/
def sha512K : List (BitVec 64) :=
  [0x428a2f98d728ae22, 0x7137449123ef65cd, 0xb5c0fbcfec4d3b2f, 0xe9b5dba58189dbbc] ++
  [0x3956c25bf348b538, 0x59f111f1b605d019, 0x923f82a4af194f9b, 0xab1c5ed5da6d8118] ++
  [0xd807aa98a3030242, 0x12835b0145706fbe, 0x243185be4ee4b28c, 0x550c7dc3d5ffb4e2] ++
  [0x72be5d74f27b896f, 0x80deb1fe3b1696b1, 0x9bdc06a725c71235, 0xc19bf174cf692694] ++
  [0xe49b69c19ef14ad2, 0xefbe4786384f25e3, 0x0fc19dc68b8cd5b5, 0x240ca1cc77ac9c65] ++
  [0x2de92c6f592b0275, 0x4a7484aa6ea6e483, 0x5cb0a9dcbd41fbd4, 0x76f988da831153b5] ++
  [0x983e5152ee66dfab, 0xa831c66d2db43210, 0xb00327c898fb213f, 0xbf597fc7beef0ee4] ++
  [0xc6e00bf33da88fc2, 0xd5a79147930aa725, 0x06ca6351e003826f, 0x142929670a0e6e70] ++
  [0x27b70a8546d22ffc, 0x2e1b21385c26c926, 0x4d2c6dfc5ac42aed, 0x53380d139d95b3df] ++
  [0x650a73548baf63de, 0x766a0abb3c77b2a8, 0x81c2c92e47edaee6, 0x92722c851482353b] ++
  [0xa2bfe8a14cf10364, 0xa81a664bbc423001, 0xc24b8b70d0f89791, 0xc76c51a30654be30] ++
  [0xd192e819d6ef5218, 0xd69906245565a910, 0xf40e35855771202a, 0x106aa07032bbd1b8] ++
  [0x19a4c116b8d2d0c8, 0x1e376c085141ab53, 0x2748774cdf8eeb99, 0x34b0bcb5e19b48a8] ++
  [0x391c0cb3c5c95a63, 0x4ed8aa4ae3418acb, 0x5b9cca4f7763e373, 0x682e6ff3d6b2b8a3] ++
  [0x748f82ee5defb2fc, 0x78a5636f43172f60, 0x84c87814a1f0ab72, 0x8cc702081a6439ec] ++
  [0x90befffa23631e28, 0xa4506cebde82bde9, 0xbef9a3f7b2c67915, 0xc67178f2e372532b] ++
  [0xca273eceea26619c, 0xd186b8c721c0c207, 0xeada7dd6cde0eb1e, 0xf57d4f7fee6ed178] ++
  [0x06f067aa72176fba, 0x0a637dc5a2c898a6, 0x113f9804bef90dae, 0x1b710b35131c471b] ++
  [0x28db77f523047d84, 0x32caab7b40c72493, 0x3c9ebe0a15c9bebc, 0x431d67c49c100d4c] ++
  [0x4cc5d4becb3e42b6, 0x597f299cfc657e2a, 0x5fcb6fab3ad6faec, 0x6c44198c4a475817]

/-- The initial hash value of SHA-512. -/
def sha512Init : List (BitVec 64) :=
  [0x6a09e667f3bcc908, 0xbb67ae8584caa73b, 0x3c6ef372fe94f82b, 0xa54ff53a5f1d36f1] ++
  [0x510e527fade682d1, 0x9b05688c2b3e6c1f, 0x1f83d9abfb41bd6b, 0x5be0cd19137e2179]

/-- The message schedule of a block of 128 bytes, newest word first. -/
def sha512Schedule (blk : List Byte) : List (BitVec 64) :=
  (List.range 64).foldl (fun w _ =>
    let x := w.getD 14 0
    let y := w.getD 1 0
    let s0 := x.rotateRight 1 ^^^ x.rotateRight 8 ^^^ (x >>> 7)
    let s1 := y.rotateRight 19 ^^^ y.rotateRight 61 ^^^ (y >>> 6)
    (w.getD 15 0 + s0 + w.getD 6 0 + s1) :: w)
    ((List.range 16).map fun i => BitVec.ofNat 64 (beNum (sliceB blk (8 * i) 8))).reverse

/-- A round of SHA-512 on the eight working variables. -/
def sha512Round (h : List (BitVec 64)) (kw : BitVec 64) : List (BitVec 64) :=
  let x := fun i => h.getD i 0
  let s1 := (x 4).rotateRight 14 ^^^ (x 4).rotateRight 18 ^^^ (x 4).rotateRight 41
  let ch := (x 4 &&& x 5) ^^^ (~~~ (x 4) &&& x 6)
  let t1 := x 7 + s1 + ch + kw
  let s0 := (x 0).rotateRight 28 ^^^ (x 0).rotateRight 34 ^^^ (x 0).rotateRight 39
  let maj := (x 0 &&& x 1) ^^^ (x 0 &&& x 2) ^^^ (x 1 &&& x 2)
  [t1 + (s0 + maj), x 0, x 1, x 2, x 3 + t1, x 4, x 5, x 6]

/-- The hash value after a block. -/
def sha512Block (h : List (BitVec 64)) (blk : List Byte) : List (BitVec 64) :=
  List.zipWith (· + ·) h ((List.zipWith (· + ·) sha512K (sha512Schedule blk).reverse).foldl sha512Round h)

/-- The padded message. -/
def sha512Pad (m : List Byte) : List Byte :=
  m ++ [0x80] ++ List.replicate ((239 - m.length % 128) % 128) 0 ++ beBytes 16 (8 * m.length)

/-- SHA-512 of a message, 64 bytes. -/
def sha512 (m : List Byte) : List Byte :=
  let p := sha512Pad m
  ((List.range (p.length / 128)).foldl (fun h i => sha512Block h ((p.drop (128 * i)).take 128)) sha512Init).flatMap fun w => beBytes 8 w.toNat

/-- HMAC-SHA-512 under a key of at most 128 bytes. -/
def hmac512 (key m : List Byte) : List Byte :=
  let k := key ++ List.replicate (128 - key.length) 0
  sha512 (k.map (· ^^^ 0x5C) ++ sha512 (k.map (· ^^^ 0x36) ++ m))

/-! ## Addresses and tweakable hashes of SLH-DSA-SHA2-256s (n = 32, h = 64, d = 8, a = 14, k = 22, w = 16) -/

/-- An address: layer, tree, type, and its last three words. -/
structure Adrs where
  layer : Nat
  tree  : Nat
  type  : Nat
  a     : Nat
  b     : Nat
  c     : Nat
  deriving DecidableEq, Repr

/-- The compressed address, 22 bytes. -/
def Adrs.bytes (x : Adrs) : List Byte :=
  beBytes 1 x.layer ++ beBytes 8 x.tree ++ beBytes 1 x.type ++ beBytes 4 x.a ++ beBytes 4 x.b ++ beBytes 4 x.c

/-- F, and PRF with the secret seed as its message. -/
def slhF (seed : List Byte) (x : Adrs) (m : List Byte) : List Byte := sha256 (seed ++ List.replicate 32 0 ++ x.bytes ++ m)

/-- H, and T of more than two nodes. -/
def slhH (seed : List Byte) (x : Adrs) (m : List Byte) : List Byte := (sha512 (seed ++ List.replicate 96 0 ++ x.bytes ++ m)).take 32

/-- The first `k` groups of `b` bits of a byte string, most significant first. -/
def bitGroups (bs : List Byte) (b k : Nat) : List Nat :=
  (List.range k).map fun i => beNum bs / 2 ^ (8 * bs.length - b * (i + 1)) % 2 ^ b

/-- The digest of a message: 47 bytes. -/
def slhDigest (r seed root m : List Byte) : List Byte :=
  (sha512 (r ++ seed ++ sha512 (r ++ seed ++ root ++ m) ++ beBytes 4 0)).take 47

/-- The indices of the FORS leaves, the tree and the leaf that a digest names. -/
def digestParts (d : List Byte) : List Nat × Nat × Nat :=
  (bitGroups (d.take 39) 14 22, beNum (sliceB d 39 7) % 2 ^ 56, beNum (sliceB d 46 1) % 2 ^ 8)

/-! ## One-time signatures and trees -/

/-- `n` steps of a chain from step `j`. -/
def wotsChain (seed : List Byte) (x : Adrs) : Nat → Nat → List Byte → List Byte
  | 0, _, m => m
  | n + 1, j, m => wotsChain seed x n (j + 1) (slhF seed { x with c := j } m)

/-- The 67 digits of a message of 32 bytes, the last three its checksum. -/
def wotsDigits (m : List Byte) : List Nat :=
  let ds := bitGroups m 4 64
  ds ++ bitGroups (beBytes 2 (16 * (ds.map fun d => 15 - d).sum)) 4 3

/-- The public key of the ends of the chains. -/
def wotsPk (seed : List Byte) (x : Adrs) (ends : List (List Byte)) : List Byte := slhH seed { x with type := 1, b := 0, c := 0 } ends.flatten

/-- The public key that a one-time signature of a message gives. -/
def wotsFromSig (seed : List Byte) (x : Adrs) (sig m : List Byte) : List Byte :=
  let ds := wotsDigits m
  wotsPk seed x ((List.range 67).map fun i => wotsChain seed { x with b := i } (15 - ds.getD i 0) (ds.getD i 0) (sliceB sig (32 * i) 32))

/-- The node above node `i` of height `h` along its authentication path. -/
def treeUp (seed : List Byte) (x : Adrs) : List (List Byte) → Nat → Nat → List Byte → List Byte
  | [], _, _, m => m
  | p :: t, h, i, m => treeUp seed x t (h + 1) (i / 2) (slhH seed { x with b := h + 1, c := i / 2 } (if i % 2 = 0 then m ++ p else p ++ m))

/-- The 32-byte nodes of a byte string. -/
def nodes (bs : List Byte) (n : Nat) : List (List Byte) := (List.range n).map fun i => sliceB bs (32 * i) 32

/-- The root of a tree that the signature of a message at a leaf gives. -/
def xmssFromSig (seed : List Byte) (layer tree leaf : Nat) (sig m : List Byte) : List Byte :=
  treeUp seed ⟨layer, tree, 2, 0, 0, 0⟩ (nodes (sig.drop 2144) 8) 0 leaf (wotsFromSig seed ⟨layer, tree, 0, leaf, 0, 0⟩ sig m)

/-- The root of the hypertree that the signatures of `n` layers give. -/
def hyperFromSig (seed : List Byte) : Nat → Nat → Nat → Nat → List Byte → List Byte → List Byte
  | 0, _, _, _, _, m => m
  | n + 1, layer, tree, leaf, sig, m =>
    hyperFromSig seed n (layer + 1) (tree / 256) (tree % 256) (sig.drop 2400) (xmssFromSig seed layer tree leaf (sig.take 2400) m)

/-- The FORS public key of its 22 roots. -/
def forsPk (seed : List Byte) (tree leaf : Nat) (roots : List (List Byte)) : List Byte := slhH seed ⟨0, tree, 4, leaf, 0, 0⟩ roots.flatten

/-- The FORS public key that a signature of 22 leaves gives. -/
def forsFromSig (seed : List Byte) (tree leaf : Nat) (sig : List Byte) (xs : List Nat) : List Byte :=
  let x : Adrs := ⟨0, tree, 3, leaf, 0, 0⟩
  forsPk seed tree leaf ((List.range 22).map fun i =>
    let s := sliceB sig (480 * i) 480
    let j := 16384 * i + xs.getD i 0
    treeUp seed x (nodes (s.drop 32) 14) 0 j (slhF seed { x with b := 0, c := j } (s.take 32)))

/-- Verification of a signature of a message, with an empty context string, under a public key of 64 bytes. -/
def slhVerify (m sig pk : List Byte) : Bool :=
  let seed := pk.take 32
  let root := pk.drop 32
  let d := digestParts (slhDigest (sig.take 32) seed root ([0, 0] ++ m))
  sig.length == 29792 && pk.length == 64 &&
    hyperFromSig seed 8 0 d.2.1 d.2.2 (sig.drop 10592) (forsFromSig seed d.2.1 d.2.2 (sliceB sig 32 10560) d.1) == root

/-! ## Keys and signatures -/

/-- A key pair: the secret seed, the secret PRF key, the public seed and the root. -/
structure SlhKey where
  skSeed : List Byte
  skPrf  : List Byte
  seed   : List Byte
  root   : List Byte
  deriving DecidableEq, Repr

/-- The public key, 64 bytes. -/
def SlhKey.pk (k : SlhKey) : List Byte := k.seed ++ k.root

/-- The start of chain `i` at a leaf. -/
def wotsSecret (sk seed : List Byte) (x : Adrs) (i : Nat) : List Byte := slhF seed { x with type := 5, b := i, c := 0 } sk

/-- Node `i` of height `h` of a tree of one-time keys. -/
def xmssNode (sk seed : List Byte) (layer tree : Nat) : Nat → Nat → List Byte
  | 0, i =>
    let x : Adrs := ⟨layer, tree, 0, i, 0, 0⟩
    wotsPk seed x ((List.range 67).map fun c => wotsChain seed { x with b := c } 15 0 (wotsSecret sk seed x c))
  | h + 1, i =>
    slhH seed ⟨layer, tree, 2, 0, h + 1, i⟩ (xmssNode sk seed layer tree h (2 * i) ++ xmssNode sk seed layer tree h (2 * i + 1))

/-- The signature of a message at a leaf of a tree: 2,400 bytes. -/
def xmssSign (sk seed : List Byte) (layer tree leaf : Nat) (m : List Byte) : List Byte :=
  let x : Adrs := ⟨layer, tree, 0, leaf, 0, 0⟩
  let ds := wotsDigits m
  ((List.range 67).flatMap fun i => wotsChain seed { x with b := i } (ds.getD i 0) 0 (wotsSecret sk seed x i)) ++
    (List.range 8).flatMap fun j => xmssNode sk seed layer tree j (leaf / 2 ^ j ^^^ 1)

/-- The signatures of `n` layers of the hypertree. -/
def hyperSign (sk seed : List Byte) : Nat → Nat → Nat → Nat → List Byte → List Byte
  | 0, _, _, _, _ => []
  | n + 1, layer, tree, leaf, m =>
    let sig := xmssSign sk seed layer tree leaf m
    sig ++ hyperSign sk seed n (layer + 1) (tree / 256) (tree % 256) (xmssFromSig seed layer tree leaf sig m)

/-- The secret of FORS leaf `i`. -/
def forsSecret (sk seed : List Byte) (tree leaf i : Nat) : List Byte := slhF seed ⟨0, tree, 6, leaf, 0, i⟩ sk

/-- Node `i` of height `h` of the FORS trees. -/
def forsNode (sk seed : List Byte) (tree leaf : Nat) : Nat → Nat → List Byte
  | 0, i => slhF seed ⟨0, tree, 3, leaf, 0, i⟩ (forsSecret sk seed tree leaf i)
  | h + 1, i => slhH seed ⟨0, tree, 3, leaf, h + 1, i⟩ (forsNode sk seed tree leaf h (2 * i) ++ forsNode sk seed tree leaf h (2 * i + 1))

/-- The FORS signature of 22 leaves: 10,560 bytes. -/
def forsSign (sk seed : List Byte) (tree leaf : Nat) (xs : List Nat) : List Byte :=
  (List.range 22).flatMap fun i =>
    let j := xs.getD i 0
    forsSecret sk seed tree leaf (16384 * i + j) ++
      (List.range 14).flatMap fun h => forsNode sk seed tree leaf h (2 ^ (14 - h) * i + (j / 2 ^ h ^^^ 1))

/-- The key pair of three seeds of 32 bytes. -/
def slhKey (skSeed skPrf seed : List Byte) : SlhKey := ⟨skSeed, skPrf, seed, xmssNode skSeed seed 7 0 8 0⟩

/-- The signature of a message, with an empty context string, under a key pair with 32 bytes of randomness. -/
def slhSign (k : SlhKey) (rand m : List Byte) : List Byte :=
  let m := [0, 0] ++ m
  let r := (hmac512 k.skPrf (rand ++ m)).take 32
  let d := digestParts (slhDigest r k.seed k.root m)
  let f := forsSign k.skSeed k.seed d.2.1 d.2.2 d.1
  r ++ f ++ hyperSign k.skSeed k.seed 8 0 d.2.1 d.2.2 (forsFromSig k.seed d.2.1 d.2.2 f d.1)

end Sys2Proof.Machine
end

