-- ==== Sys2Proof/Machine/Teardown.lean ====
section
/-!
DEFINITION. The completion of host commands (20 R498) and the teardown of a context (16 R465, Table 16.8).
-/

namespace Sys2Proof.Machine

/-! ## Completion of a command (R498) -/

/-- Writes STATUS and then DONE into a command entry, and signals MSI-X vector 0 when its IRQ flag is set. -/
def commandDone (s : State) (addr : Nat) (bs : List Byte) (status : Nat) : State :=
  let s := s.writeNum (hostKey (addr + 2)) 2 status
  let s := s.writeNum (hostKey addr) 1 (leAt bs 0 1 % 128 + 128)
  { s with hib := { s.hib with msix0 := s.hib.msix0 + if fB (leAt bs 1 1) 0 then 1 else 0 } }

/-! ## What belongs to a context -/

/-- The streams of a context that are mapped or wait for a mapping. -/
def streamsOf (s : State) (c : Nat) : List Nat := (s.qm.streams.map (·.1) ++ s.qm.subs ++ s.qm.stops).dedup.filter fun n => streamCtx s n == c

/-- The launches of a context. -/
def launchesOf (s : State) (c : Nat) : List (Nat × Launch) := s.launches.filter fun p => p.2.ctx == c

/-- The clusters that run a launch of a context. -/
def clustersOf (s : State) (c : Nat) : List Nat :=
  (s.clusters.filter fun p => (s.launchAt p.1).any fun l => l.ctx == c).map (·.1)

/-- A memory key of the key table belongs to a context. -/
def keyOf (s : State) (c k : Nat) : Bool :=
  k != 0 && (tget KeyEntry.init s.keys k).v && (tget KeyEntry.init s.keys k).owner == c

/-! ## The steps (Table 16.8) -/

/-- Entry `i` of a stream is marked done with status 9 if it is a LAUNCH (Table 16.8, step 1); one that cannot be read or written is left. The last says whether the
entry is dealt with. -/
def tearEntry (s : State) (n i : Nat) : State × Bool :=
  match readEntry s n i with
  | .later s w => (queueWaits s n w, false)
  | .err s _ _ => (s, true)
  | .ok s e =>
    if e.kind ≠ 1 then (s, true)
    else
      match planeWrites s (streamReader s n) [(entryAddr s n i, doneBytes e 9 s.tb)] with
      | .later s w => (queueWaits s n w, false)
      | .err s _ _ => (s, true)
      | .ok s _ => (s, true)

/-- The entries of a stream from one, as far as they can be dealt with now. -/
def tearEntries (s : State) (n : Nat) : Nat → Nat → State × Bool
  | 0, _ => (s, true)
  | k + 1, i => let q := tearEntry s n i; if q.2 then tearEntries q.1 n k (i + 1) else q

/-- Step 1 for a stream: pending LAUNCH entries are marked done with status 9, and the stream is unmapped and holds no entry. -/
def tearStream (s : State) (n : Nat) : State × Bool :=
  let q := headTail s n
  let r := tearEntries s n (min ((q.2 + 2 ^ 64 - q.1) % 2 ^ 64) 65536) q.1
  if !r.2 then r
  else
    let s := planeStore (queueGoes r.1 n) (streamTable + 64 * n + 24) (bytesOf 8 q.2 ++ bytesOf 8 q.2)
    ({ s with qm := { s.qm with
        streams := tdel s.qm.streams n, subs := s.qm.subs.filter (· != n), stops := s.qm.stops.filter (· != n), boosts := tdel s.qm.boosts n } }, true)

/-- Step 1 for streams, as far as they can be dealt with now. -/
def tearStreams (s : State) : List Nat → State × Bool
  | [] => (s, true)
  | n :: t => let q := tearStream s n; if q.2 then tearStreams q.1 t else q

/-- Step 1: the queue manager. The last says whether the step is over. -/
def tearQueue (s : State) (c : Nat) : State × Bool :=
  let q := tearStreams s (streamsOf s c)
  (settleTurns { q.1 with launches := q.1.launches.map fun p => (p.1, if p.2.ctx == c then { p.2 with cancelled := true } else p.2) }, q.2)

/-- Step 2: the slots are discarded, once their retired stores have entered the cache, and the handler tables disabled; outstanding loads are counted out. -/
def tearCores (s : State) (c : Nat) : State :=
  let mine := clustersOf s c
  let ls := (launchesOf s c).map (·.1)
  let load := fun m : Flight => match m with
    | .load _ _ _ _ _ _ => true
    | .loadReply _ _ _ _ => true
    | _ => false
  let s := (s.slots.filter fun p => mine.contains (p.1 / 64)).foldl (fun s p => storesEnter s p.1) s
  let slots : Tbl Slot := s.slots.filter fun p => !mine.contains (p.1 / 64)
  let cores : Tbl CoreSt := s.cores.map fun p =>
    (p.1, if mine.contains (p.1 / 16) then { p.2 with chans := p.2.chans.map fun q => (q.1, { q.2 with en := false, busy := false }) } else p.2)
  let dies : Tbl Die := s.dies.map fun p => (p.1, { p.2 with ranges := p.2.ranges.filter fun r => !ls.contains r.launch })
  { s with slots := slots, cores := cores, dies := dies, net := s.net.filter fun p => !(ls.contains p.2.launch && load p.2) }

/-- Step 3: the matrix engines take their reset values (R231). -/
def tearTmes (s : State) (c : Nat) : State :=
  let mine := clustersOf s c
  { s with tmes := s.tmes.filter (fun p => !mine.contains (p.1 / 8)), lost := s.lost.filter fun w => !(decide (w < 2 ^ 59) && mine.any (unitMark · w)) }

/-- Step 4: claims are released and requests removed. -/
def tearPools (s : State) (c : Nat) : State :=
  let mine := clustersOf s c
  { s with pools := s.pools.filter (fun p => !mine.contains (p.1 / 2)), sfus := s.sfus.filter fun p => !mine.contains (p.1 / 4) }

/-- The table slots of a context are freed (R367). -/
def freeTables (s : State) (c : Nat) : State :=
  { s with copies := s.copies.map fun p => (p.1, { p.2 with tabs := p.2.tabs.filter fun t => t.2.owner != c }) }

/-- Nothing that the operations of a context have written is still to be performed. -/
def copiesQuiet (s : State) (c : Nat) : Bool :=
  !(s.copies.any fun p => p.2.ops.any fun o => o.ctx == c && engPending s o.id) &&
    !(s.encs.any fun p => !encPerformed s p.1 && p.2.streams.any fun q => leAt q.2.desc 2 2 == c && q.2.pend.isSome)

/-- Encoders whose frame in progress is gone read again the tables for which a write of ENCTAB has asked (R450). -/
def rereadStale (s : State) : State :=
  ((s.encs.filter fun p => p.2.stale).map (·.1)).foldl rereadTable s

/-- Step 5: the operations of the context leave the copy engines, with its source, guard and table entries (R367), and its streams the encoders. -/
def tearCopies (s : State) (c : Nat) : State :=
  let s : State := { s with copies := s.copies.map fun p => (p.1, { p.2 with ops := p.2.ops.filter fun o => o.ctx != c }) }
  let s := (clustersOf s c).foldl (fun s cl => s.setCluster cl { s.cluster cl with guards := [], sources := [] }) s
  rereadStale (freeTables { s with encs := s.encs.map fun p =>
    (p.1, { p.2 with streams := p.2.streams.filter fun q => leAt q.2.desc 2 2 != c }) } c)

/-- Nothing that the collectives of a context have written is still to be performed. -/
def collsQuiet (s : State) (c : Nat) : Bool := !(s.colls.any fun p => p.2.any fun o => o.ctx == c && engPending s o.id)

/-- Step 6: the context's collectives are stopped or discarded. -/
def tearColls (s : State) (c : Nat) : State :=
  { s with colls := s.colls.map fun p => (p.1, p.2.filter fun o => o.ctx != c) }

/-- No message of a context is in flight. -/
def netQuiet (s : State) (c : Nat) : Bool :=
  let ls := (launchesOf s c).map (·.1)
  !(s.net.any fun p => ls.contains p.2.launch || (match p.2 with | .late d _ _ _ _ => d == c | _ => false))

/-- Step 7: inboxes are emptied, journal entries freed, and the messages that fell out of the mesh are discarded (R412). -/
def tearNet (s : State) (c : Nat) : State :=
  let mine := clustersOf s c
  let ls := (launchesOf s c).map (·.1)
  { s with
    cores := s.cores.map fun p => (p.1, if mine.contains (p.1 / 16) then { p.2 with inbox := [], journal := [], out := 0 } else p.2)
    qm := { s.qm with saved := s.qm.saved.map fun p => (p.1, if ls.contains p.1 then { p.2 with fallen := [], held := [] } else p.2) } }

/-- The clusters of every launch of a context, running or switched out. -/
def placementsOf (s : State) (c : Nat) : List Nat := ((launchesOf s c).flatMap fun p => p.2.clusters).dedup

/-- A slice writes back and drops a line that is resident; an error that it meets loses it (R310). -/
def purgeLine (n : Nat) (s : State) (la : Nat) : State :=
  let c := slice s n
  match c.find la with
  | none => s
  | some l => drainFor la n 64 (leave (setSlice s n (if l.dirty then c.move (lineBad s) l else c.drop l)) n [l])

/-- A slice writes back and drops every line whose tag KEYID belongs to a context. -/
def purgeSlice (c : Nat) (s : State) (n : Nat) : State :=
  let s := ((slice s n).wbuf.filter fun e => keyOf s c e.key).foldl (fun s e => drainFor e.la n 64 s) s
  let s := (((slice s n).fills ++ (slice s n).reqs).filter fun r => keyOf s c r.key).foldl (fun s r => settleLine s n r.la) s
  (((slice s n).lines.filter fun l => keyOf s c l.key).map (·.la)).foldl (purgeLine n) s

/-- Step 8: the cluster data caches write back and invalidate, and the home slices write back and drop the lines of the context's KEYIDs. -/
def tearL2 (s : State) (c : Nat) : State :=
  let s := (placementsOf s c).foldl (fun s cl =>
    let s := sendAll s cl
    s.setCluster cl { s.cluster cl with cdc := [], fetches := [] }) s
  (s.slices.map (·.1)).foldl (purgeSlice c) s

/-- No write-back of the cluster data caches of a context, and no write to a line of its KEYIDs, is still to be performed. -/
def l2Quiet (s : State) (c : Nat) : Bool :=
  !((placementsOf s c).any fun cl => writesPending s (whoCdc cl) || awayPending s (whoCdc cl)) &&
    !(s.slices.any fun p => (p.2.reqs ++ p.2.refused).any fun r => keyOf s c r.key)

/-- Step 9: every entry of the context leaves the TLBs, and its walks end. -/
def tearTlbs (s : State) (c : Nat) : State :=
  { s with
    clusters := s.clusters.map (fun p => (p.1, { p.2 with tlb := p.2.tlb.filter fun e => e.ctx != c }))
    dies := s.dies.map fun p => (p.1, { p.2 with walks := p.2.walks.filter fun r => r.ctx != c }) }

/-- Step 10: keys are released, allocations, stream semaphores, gather descriptors and table slots freed, and a TYPE 12 entry is written. -/
def tearKeys (s : State) (c : Nat) : State :=
  let s : State := { s with keys := s.keys.filter fun p => !keyOf s c p.1 }
  let s := (launchesOf s c).foldl (fun s p => removeLaunch s p.1 p.2) s
  let s := freeTables s c
  let s : State := { s with
    windows := tclear s.windows (256 * c) 256
    qm := { s.qm with owners := s.qm.owners.filter fun p => p.2 != c } }
  errorEntry s c 12 0 0 0 0

/-- The context is torn down: the TEARDOWN commands for it complete. -/
def tearEnds (s : State) (c : Nat) : State :=
  let s : State := { s with torn := tset s.torn c true, tear := tdel s.tear c, enghalt := tdel s.enghalt c, engStop := tdel s.engStop c }
  let mine := fun q : Nat × List Byte => leAt q.2 0 1 % 128 == 7 && leAt q.2 8 2 == c
  let done := s.qm.late.filter mine
  done.foldl (fun s q => commandDone s q.1 q.2 0) { s with qm := { s.qm with late := s.qm.late.filter fun q => !mine q } }

/-- The requests of the units of the step are performed, so the next one may begin (R465); what the other steps discard is gone when they end. -/
def stepQuiet (s : State) (c k : Nat) : Bool :=
  match k with
  | 5 => copiesQuiet s c
  | 6 => collsQuiet s c
  | 7 => netQuiet s c
  | 11 => s.owed.all fun e => e.ctx != c
  | _ => true

/-- R465: the next step of the teardown of context `sel`; the queue manager goes on once its own writes are performed. -/
def execTeardownStep (s : State) : Step :=
  let c := s.sel
  match s.tear.find? fun p => p.1 == c with
  | none => .next s
  | some (_, k) =>
    let t : State := { s with tear := tset s.tear c (k + 1) }
    if !stepQuiet s c k || planeBusy s then .next s
    else
      .next (match k with
        | 1 => let q := tearQueue s c; if q.2 then { q.1 with tear := tset q.1.tear c 2 } else q.1
        | 2 => tearCores t c
        | 3 => tearTmes t c
        | 4 => tearPools t c
        | 5 => tearCopies t c
        | 6 => tearColls t c
        | 7 => tearNet t c
        | 8 => let t := tearL2 s c; if l2Quiet t c then { t with tear := tset t.tear c 9 } else t
        | 9 => tearTlbs t c
        | 10 => tearKeys t c
        | _ => tearEnds t c)

end Sys2Proof.Machine
end

