-- ==== Sys2Proof/Machine/Host.lean ====
section
/-!
DEFINITION. Host attachment, boot, recovery, commands, keys and power (20 R494 to R504).
-/

namespace Sys2Proof.Machine

/-! ## Boot and recovery (R500, R501) -/

/-- The body of an image, after its 32 KiB header. -/
def imageBody (im : List Byte) : List Byte := (im.drop 32768).take (leAt im 8 4)

/-- An image has the magic and its whole body. -/
def imageWhole (im : List Byte) : Bool :=
  leAt im 0 4 == 0x45444E46 && decide (leAt im 8 4 ≤ 48 * 2 ^ 20) && decide (32768 + leAt im 8 4 ≤ im.length)

/-- The SVN below which an image is refused: the fused rollback counter. -/
def rollbackSvn (s : State) : Nat := max Config.fusedSvn s.mgmt.rollback

/-- The first check of R500 step 3 that an image fails after it has been read; 0 for none. -/
def imageCode (s : State) (im : List Byte) : Nat :=
  if sha256 (sliceB im 48 64) ≠ Config.fusedVendorKeyHash ∨ slhVerify (im.take 112) (sliceB im 112 29792) (sliceB im 48 64) = false then 1
  else if sha256 (imageBody im) ≠ sliceB im 16 32 then 2
  else if leAt im 4 4 < rollbackSvn s then 3
  else 0

/-- Runs a verified image: the rollback counter is raised to its SVN and READY set (R500), and the alias key is signed (R503). -/
def runImage (s : State) (im : List Byte) : State :=
  { s.draw with
    hib := { s.hib with ready := true, recov := false }
    mgmt := { s.mgmt with
      fw := some (leAt im 4 4, BitVec.ofNat 256 (beNum (sha256 (imageBody im)))), rollback := max s.mgmt.rollback (leAt im 4 4), draw := s.free } }

/-- The machine as the boot ROM finds it: host memory, flash, one-time fuses and the events that are still to come survive a module reset, the MCB is filled
from the fuses (R17, R500), and the model's counters go on. -/
def afterReset (s : State) : State :=
  { State.reset with
    mem := s.mem.filter fun p => decide (2 ^ 64 ≤ p.1)
    clen := partClen, slcen := partSlcen, chen := partChen, bxlane := partBxlane
    mgmt := { Mgmt.init with flash := s.mgmt.flash, rollback := s.mgmt.rollback, ktk := s.mgmt.ktk }
    free := s.free, age := s.age, inputs := s.inputs, booted := true }

/-- The image in flash, where it can be read. -/
def flashOf (s : State) : Option (List Byte) :=
  match s.mgmt.flash with
  | some im => some im
  | none => Config.flashImage

/-- R500: module reset, and the boot ROM. -/
def execModuleReset (s : State) : Step :=
  let t := afterReset s
  let fail := fun code : Nat => { t with hib := { t.hib with bcode := BitVec.ofNat 8 code, recov := true } }
  match flashOf t with
  | none => .next (fail 4)
  | some im =>
    if !imageWhole im then .next (fail 4)
    else if imageCode t im = 0 then .next (runImage t im)
    else .next (fail (imageCode t im))

/-- A recovery image has arrived whole: the checks of R500, that of its form last; it runs without being written to flash (R501). -/
def recovery (s : State) (im : List Byte) : State :=
  if imageCode s im = 0 ∧ imageWhole im then runImage s im else { s with hib := { s.hib with bcode := 5 } }

/-- R501. -/
def execRecoveryImageI3c (image : List Byte) (s : State) : Step :=
  if s.hib.recov then .next (recovery s image) else .next s

/-! ## The CXL link (R494, R496) -/

/-- R494. -/
def execCxlLinkTraining (fast : Bool) (s : State) : Step :=
  if s.booted && s.mgmt.cxl.isNone then .next { s with mgmt := { s.mgmt with cxl := some fast } } else .next s

/-- The host can reach the module. -/
def linkUp (s : State) : Bool := s.mgmt.cxl.isSome

/-- R496: a CXL.mem access within a line of the HDM range, whose line the host may hold afterwards. -/
def execHostCxlMemAccess (addr : Nat) (write : Bool) (bytes : List Byte) (s : State) : Step :=
  let pa := s.module.toNat * 2 ^ 42 + addr
  let la := addr / 512
  if !linkUp s || !s.hib.ready || addr < 0x10000000 || memLimit s < addr + bytes.length || 512 < addr % 512 + bytes.length then .next s
  else
    let s : State := { s with mgmt := { s.mgmt with held := s.mgmt.held.filter (· != la) } }
    let s := if write then homeWrite s whoHost 0 pa 0 bytes else (homeRead s whoHost pa 0 bytes.length).1
    .next { s with mgmt := { s.mgmt with held := s.mgmt.held ++ [la] } }

/-- R496: the host answers a snoop: its caches hold the line no more. -/
def execBackInvalidateSnoopResponse (line : Nat) (s : State) : Step :=
  if s.mgmt.snoops.contains line then
    .next { s with mgmt := { s.mgmt with snoops := s.mgmt.snoops.filter (· != line), held := s.mgmt.held.filter (· != line) } }
  else .next s

/-! ## Host memory through CXL.cache -/

/-- Bytes of host memory, where they can be read. -/
def hostRead (s : State) (a n : Nat) : Option (List Byte) :=
  if s.lostIn (hostKey a) n then none else some (s.read (hostKey a) n)

/-! ## Commands (R498, Table 20.2) -/

/-- The operation of a command entry. -/
def opOf (bs : List Byte) : Nat := leAt bs 0 1 % 128

/-- The unused bytes of a command, by offset and count. -/
def unusedBytes : Nat → List (Nat × Nat)
  | 1 => [(10, 6), (48, 16)]
  | 2 => [(10, 6), (56, 8)]
  | 3 => [(10, 54)]
  | 4 => [(10, 6), (32, 32)]
  | 5 => [(16, 48)]
  | 6 => [(10, 54)]
  | 7 => [(10, 54)]
  | 8 => [(12, 4), (24, 40)]
  | 9 => [(48, 16)]
  | _ => [(20, 44)]

/-- A command has a known OP and zero flags and unused bytes. -/
def commandOk (bs : List Byte) : Bool :=
  decide (1 ≤ opOf bs) && decide (opOf bs ≤ 10) && decide (leAt bs 1 1 < 2) && (unusedBytes (opOf bs)).all fun r => leAt bs r.1 r.2 == 0

/-- Commands at the head that are malformed complete with status 1. -/
def skipBad (s : State) : List (Nat × List Byte) → State
  | [] => { s with qm := { s.qm with cmds := [] } }
  | q :: t =>
    if commandOk q.2 then { s with qm := { s.qm with cmds := q :: t } } else skipBad (commandDone s q.1 q.2 1) t

/-- The command at the head, if it has an OP. -/
def command? (s : State) (op : Nat) : Option (Nat × List Byte) := s.qm.cmds.head?.filter fun q => opOf q.2 == op

/-- The command at the head completes, and the next one starts. -/
def completed (s : State) (q : Nat × List Byte) (status : Nat) : State :=
  skipBad (commandDone s q.1 q.2 status) (s.qm.cmds.drop 1)

/-- The command at the head completes later, and the next one starts (R498). -/
def postponed (s : State) (q : Nat × List Byte) : State :=
  skipBad { s with qm := { s.qm with late := s.qm.late ++ [q] } } (s.qm.cmds.drop 1)

/-- The descriptor of a context that a command names is read at its home. -/
def ctxSeen (s : State) (c : Nat) : State := if c < 4096 then ctxTouch s c else s

/-- A command of an OP: a status and the state with its effect. -/
def commandForm (s : State) (op : Nat) (f : State → List Byte → State × Nat) : Step :=
  match command? s op with
  | none => .next s
  | some q => let r := f s q.2; .next (completed r.1 q r.2)

/-- Takes the entries HEAD to TAIL - 1 of the command ring (R498). -/
def takeCommands (s : State) : State :=
  let n := 2 ^ s.hib.log2n.toNat
  let k := (s.hib.tail - s.hib.head).toNat
  let new := (List.range k).map fun i =>
    let a := s.hib.hcrbase.toNat + 64 * ((s.hib.head.toNat + i) % n)
    (a, s.read (hostKey a) 64)
  skipBad { s with hib := { s.hib with head := s.hib.tail } } (s.qm.cmds ++ new)

/-- A stream of a context is mapped. -/
def ctxMapped (s : State) (c : Nat) : Bool := s.qm.streams.any fun p => streamCtx s p.1 == c

/-- CTXNEW. -/
def ctxnewDo (s : State) (bs : List Byte) : State × Nat :=
  let c := leAt bs 8 2
  if 4096 ≤ c ∨ leAt bs 16 8 % 4096 ≠ 0 ∨ leAt bs 24 8 % 64 ≠ 0 ∨ leAt bs 32 8 % 256 ≠ 0 ∨ leAt bs 40 8 % 64 ≠ 0 then (s, 1)
  else if tearing s c || ctxMapped s c then (s, 2)
  else
    ({ planeStore s (ctxTable + 64 * c) (bytesOf 8 1 ++ sliceB bs 16 32 ++ bytesOf 24 0) with torn := tset s.torn c false }, 0)

/-- R498: CTXNEW. -/
def execCtxnew (s : State) : Step := commandForm s 1 ctxnewDo

/-- PRIO, WEIGHT, RING and NENT of a stream descriptor are in range, and its other bytes zero (Table 16.1). -/
def streamFieldsOk (d : List Byte) : Bool :=
  decide (leAt d 0 1 < 32) && leAt d 1 1 == 0 && decide (1 ≤ leAt d 2 1) && leAt d 3 1 == 0 && leAt d 6 2 == 0 && leAt d 8 8 % 64 == 0 &&
    nentOk (leAt d 16 4) && leAt d 20 4 == 0

/-- STRNEW. -/
def strnewDo (s : State) (bs : List Byte) : State × Nat :=
  let n := leAt bs 8 2
  let d := sliceB bs 16 40
  let v := fB (leAt d 0 1) 0
  let c := leAt d 4 2
  let s := ctxSeen s c
  if (mapped? s n).isSome then (s, 2)
  else if v && !ctxValid s c then (s, 3)
  else if v && tearing s c then (s, 2)
  else if v && !streamFieldsOk d then (s, 1)
  else
    let s := planeStore s (streamTable + 64 * n) (d ++ bytesOf 24 0)
    let s : State := { s with qm := { s.qm with subs := s.qm.subs.filter (· != n), stops := s.qm.stops.filter (· != n), boosts := tdel s.qm.boosts n } }
    (if v && leAt d 24 8 != leAt d 32 8 then submitted s n else s, 0)

/-- R498: STRNEW. -/
def execStrnew (s : State) : Step := commandForm s 2 strnewDo

/-- STRRST. -/
def strrstDo (s : State) (bs : List Byte) : State × Nat :=
  let n := leAt bs 8 2
  let s := streamTouch s n
  if !streamValid s n then (s, 3)
  else
    match mapped? s n with
    | some m => if m.stopped then (settleIdle (setStream s n { m with head := m.tail, stopped := false }) n, 0) else (s, 2)
    | none =>
      if s.qm.stops.contains n then
        let s := planeStore s (streamTable + 64 * n + 24) (bytesOf 8 (streamField s n 32 8))
        ({ s with qm := { s.qm with stops := s.qm.stops.filter (· != n), subs := s.qm.subs.filter (· != n) } }, 0)
      else (s, 2)

/-- R498: STRRST. -/
def execStrrst (s : State) : Step := commandForm s 3 strrstDo

/-- The status of an APPEND by that of the append (Table 20.2). -/
def appendStatus : Nat → Nat
  | 0 => 0
  | 1 => 4
  | _ => 7

/-- APPEND: a status, or the append has to be made again. -/
def appendDo (s : State) (bs : List Byte) : EngAns Nat :=
  let n := leAt bs 8 2
  let s := streamTouch s n
  if !streamValid s n then .ok s 3
  else if tearing s (streamCtx s n) then .ok s 2
  else (appendEntry s n (sliceB bs 16 16)).andThen fun s r => .ok s (appendStatus r)

/-- R498: APPEND. -/
def execAppend (s : State) : Step :=
  match command? s 4 with
  | none => .next s
  | some q =>
    match appendDo s q.2 with
    | .ok s st => .next (completed s q st)
    | .err s _ _ => .next (completed s q 7)
    | .later s _ => .next s

/-- The WAITs of mapped streams that are blocked on a semaphore are tested again, in ascending order of stream (R442, R498). -/
def retestWaits (s : State) (k : Nat) : State :=
  (s.qm.streams.filter fun p => p.2.blocked.isSome).foldl (fun s p =>
    match headEntry s p.1 with
    | .entry t m e => if e.kind = 2 ∧ e.sem = k then waitEntry t p.1 m e else s
    | _ => s) s

/-- SEMSET. -/
def semsetDo (s : State) (bs : List Byte) : State × Nat :=
  let k := leAt bs 8 2
  let c := leAt bs 10 2
  let owner := s.qm.owners.find? fun p => p.1 == k
  let s := ctxSeen (owner.elim s fun p => ctxSeen s p.2) c
  let taken := match owner with
    | some p => p.2 != c && ctxValid s p.2 && !tearing s p.2
    | none => false
  if 4096 ≤ k then (s, 1)
  else if !ctxValid s c then (s, 3)
  else if tearing s c || taken then (s, 2)
  else (retestWaits (setStreamSem { s with qm := { s.qm with owners := tset s.qm.owners k c } } k (leAt bs 12 4)) k, 0)

/-- R498: SEMSET. -/
def execSemset (s : State) : Step := commandForm s 5 semsetDo

/-- CANCEL. -/
def cancelDo (s : State) (bs : List Byte) : State × Nat :=
  let n := leAt bs 8 2
  match mapped? s n with
  | none => (s, 3)
  | some m =>
    match m.launch.bind fun u => (s.launch? u).map fun l => (u, l) with
    | some (u, l) => if l.record.rtc then (s.setLaunch u { l with cancelled := true }, 0) else (s, 3)
    | none => if m.ready.any (·.rtc) then (setStream s n { m with cancel := true }, 0) else (s, 3)

/-- R498: CANCEL. -/
def execCancel (s : State) : Step := commandForm s 6 cancelDo

/-- R498: TEARDOWN starts the teardown, which completes the command after its last step. -/
def execTeardown (s : State) : Step :=
  match command? s 7 with
  | none => .next s
  | some q =>
    let c := leAt q.2 8 2
    let s := ctxSeen s c
    if !ctxValid s c then .next (completed s q 3)
    else if tearing s c then .next (completed s q 2)
    else .next (postponed (startTear s c) q)

/-- KEYLOAD. -/
def keyloadDo (s : State) (bs : List Byte) : State × Nat :=
  let k := leAt bs 8 2
  let c := leAt bs 10 2
  let s := ctxSeen s c
  if k = 0 ∨ 4096 ≤ k then (s, 1)
  else if !ctxValid s c then (s, 3)
  else if tearing s c then (s, 2)
  else
    match hostRead s (leAt bs 16 8) 72 with
    | none => (s, 6)
    | some blob =>
      match s.mgmt.ktk.bind fun kek => unwrapKey kek blob with
      | none => (s, 5)
      | some x =>
        if (tget KeyEntry.init s.keys k).v then (s, 2) else ({ s with keys := tset s.keys k ⟨true, c, x⟩ }, 0)

/-- R502: KEYLOAD. -/
def execKeyload (s : State) : Step := commandForm s 8 keyloadDo

/-- R503: ATTEST completes later. -/
def execAttest (s : State) : Step :=
  match command? s 9 with
  | none => .next s
  | some q => .next (postponed s q)

/-- R498: FWUPD completes later. -/
def execFwupd (s : State) : Step :=
  match command? s 10 with
  | none => .next s
  | some q => .next (postponed s q)

/-- The command of an OP that is to complete first. -/
def late? (s : State) (op : Nat) : Option (Nat × List Byte) := s.qm.late.find? fun q => opOf q.2 == op

/-- A late command completes. -/
def lateDone (s : State) (q : Nat × List Byte) (status : Nat) : State :=
  commandDone { s with qm := { s.qm with late := s.qm.late.erase q } } q.1 q.2 status

/-- The key pair that a 32-byte value generates (R503). -/
def keyOfValue (v : List Byte) : SlhKey :=
  let x := beBytes 96 (Config.keySeeds v).toNat
  slhKey (x.take 32) (sliceB x 32 32) (x.drop 64)

/-- The device identity key (R503). -/
def identityKey : SlhKey := keyOfValue (sha256 Config.uniqueSecret)

/-- The hash of the body of the firmware that runs. -/
def bodyHash (s : State) : List Byte := beBytes 32 (s.mgmt.fw.getD (0, 0)).2.toNat

/-- The alias key of the firmware that runs (R503). -/
def aliasKey (s : State) : SlhKey := keyOfValue (sha256 (Config.uniqueSecret ++ bodyHash s))

/-- A signature of a message with the randomness of a draw. -/
def signedAt (n : Nat) (k : SlhKey) (m : List Byte) : List Byte := slhSign k (beBytes 32 (Config.signRandom n).toNat) m

/-- The certificate of the alias key, which the identity key signed at boot (R503). -/
def aliasCert (s : State) : List Byte := Config.aliasCertificate (aliasKey s).pk (signedAt s.mgmt.draw identityKey (aliasKey s).pk)

/-- The part of an attestation report that is signed (R503). -/
def attestMessage (s : State) (nonce : List Byte) : List Byte :=
  nonce ++ bytesOf 8 devid.toNat ++ bytesOf 8 isaver.toNat ++ bytesOf 8 (cfgsum s).toNat ++ bodyHash s ++ bytesOf 4 (s.mgmt.fw.getD (0, 0)).1 ++
    sha256 (beBytes 32 (s.mgmt.ktk.getD 0).toNat) ++ bytesOf 8 s.tb ++ aliasCert s ++ Config.identityCertificate

/-- R503: the report of an ATTEST is written, and the command completes. -/
def execAttestCompletion (s : State) : Step :=
  match late? s 9 with
  | none => .next s
  | some q =>
    let m := attestMessage s (sliceB q.2 8 32)
    .next (lateDone (s.draw.write (hostKey (leAt q.2 40 8)) ((m ++ signedAt s.free (aliasKey s) m).take 65536)) q 0)

/-- R498: the image of a FWUPD has been verified, and is written to flash. -/
def execFwupdCompletion (s : State) : Step :=
  match late? s 10 with
  | none => .next s
  | some q =>
    match hostRead s (leAt q.2 8 8) (leAt q.2 16 4) with
    | none => .next (lateDone s q 6)
    | some im =>
      if imageWhole im ∧ imageCode s im = 0 then .next (lateDone { s with mgmt := { s.mgmt with flash := some im } } q 0)
      else .next (lateDone s q 5)

/-! ## The host interface block (R497, Table 20.1) -/

/-- HSTAT (Table 20.1). -/
def hstat (h : Hib) : Word :=
  wordN (b2n h.ready + 2 * b2n h.recov + 4 * b2n h.ovr + 8 * b2n h.capx + 16 * b2n h.trip + 2 ^ 8 * h.bcode.toNat)

/-- What a host reads at an offset of the HIB (R497): every offset that is not assigned reads zero. -/
def hibRead (s : State) (off : Nat) : Word :=
  match off with
  | 0x00 => hstat s.hib
  | 0x08 => s.hib.hcrbase
  | 0x10 => s.hib.log2n.setWidth 64
  | 0x18 => s.hib.tail.setWidth 64
  | 0x20 => s.hib.head.setWidth 64
  | 0x28 => s.hib.rcvaddr
  | 0x30 => s.hib.rcvlen.setWidth 64
  | 0x38 => wordN (s.hib.pwr.toNat + 2 ^ 32 * s.hib.tmax.toNat)
  | 0x40 => s.hib.cap.setWidth 64
  | _ => 0

/-- A write that is ignored for its value. -/
def overrun (s : State) : State := { s with hib := { s.hib with ovr := true } }

/-- The command ring is idle and may be moved. -/
def ringIdle (s : State) : Bool := s.hib.ready && s.hib.head == s.hib.tail

/-- A write of RCVLEN (R501). -/
def rcvlenTo (s : State) (v : BitVec 64) : State :=
  let n : BitVec 32 := v.setWidth 32
  let s : State := { s with hib := { s.hib with rcvlen := n } }
  if n ≠ 0 ∧ s.hib.recov then
    match hostRead s s.hib.rcvaddr.toNat n.toNat with
    | some im => recovery s im
    | none => { s with hib := { s.hib with bcode := 5 } }
  else s

/-- A write of HCTAIL (R498). -/
def hctailTo (s : State) (v : BitVec 64) : State :=
  let t : BitVec 32 := v.setWidth 32
  if 2 ^ s.hib.log2n.toNat < (t - s.hib.head).toNat then overrun s
  else
    let s : State := { s with hib := { s.hib with tail := t } }
    if s.hib.ready then takeCommands s else s

/-- A write of HCRSIZE. -/
def hcrsizeTo (s : State) (v : BitVec 64) : State :=
  let n : BitVec 4 := v.setWidth 4
  if n.toNat < 4 ∨ 12 < n.toNat then overrun s
  else if ringIdle s then { s with hib := { s.hib with log2n := n, head := 0, tail := 0 } }
  else s

/-- A write of HCRBASE. -/
def hcrbaseTo (s : State) (v : BitVec 64) : State :=
  if ringIdle s then { s with hib := { s.hib with hcrbase := wordN (v.toNat / 64 * 64) } } else s

/-- A write of PCAP. -/
def pcapTo (s : State) (v : BitVec 64) : State :=
  let n : BitVec 14 := v.setWidth 14
  if n.toNat < 2000 ∨ 10000 < n.toNat then overrun s else { s with hib := { s.hib with cap := n } }

/-- R501. -/
def execRcvlenWrite (v : BitVec 64) (s : State) : Step := if linkUp s then .next (rcvlenTo s v) else .next s
/-- R498. -/
def execHctailWrite (v : BitVec 64) (s : State) : Step := if linkUp s then .next (hctailTo s v) else .next s
/-- R497. -/
def execHcrsizeWrite (v : BitVec 64) (s : State) : Step := if linkUp s then .next (hcrsizeTo s v) else .next s
/-- R497. -/
def execHcrbaseWrite (v : BitVec 64) (s : State) : Step := if linkUp s then .next (hcrbaseTo s v) else .next s
/-- R497. -/
def execPcapWrite (v : BitVec 64) (s : State) : Step := if linkUp s then .next (pcapTo s v) else .next s

/-- R17, R497: a host write at an offset of the MCB, which is ignored, or of the HIB. -/
def execHostRegisterWrite (hib : Bool) (off : Nat) (v : BitVec 64) (s : State) : Step :=
  if !hib || !linkUp s then .next s
  else
    match off with
    | 0x00 => .next { s with hib := { s.hib with ovr := s.hib.ovr && !v.getLsbD 2 } }
    | 0x08 => .next (hcrbaseTo s v)
    | 0x10 => .next (hcrsizeTo s v)
    | 0x18 => .next (hctailTo s v)
    | 0x28 => .next { s with hib := { s.hib with rcvaddr := v } }
    | 0x30 => .next (rcvlenTo s v)
    | 0x40 => .next (pcapTo s v)
    | _ => .next s

/-! ## Keys, power and temperature (R502, R504) -/

/-- R502: the key-transport key is provisioned once. -/
def execKeyTransportKeyProvisioning (key : BitVec 256) (s : State) : Step :=
  if s.mgmt.ktk.isNone then .next { s with mgmt := { s.mgmt with ktk := some key } } else .next s

/-- A real-time contract is admitted. -/
def contractAdmitted (s : State) : Bool := !(admitted s).isEmpty

/-- The thermal trip: the core rails are removed and the contents of every memory of the module lost (R504). -/
def tripped (s : State) : State :=
  { s with
    mem := s.mem.filter (fun p => decide (2 ^ 64 ≤ p.1)), lost := s.lost.filter fun w => decide (2 ^ 61 ≤ w)
    hib := { s.hib with trip := true, msix1 := s.hib.msix1 + 1 } }

/-- The core clock after a sample, in steps of 100 MHz. -/
def clockAfter (s : State) (power temp : Nat) : Nat :=
  let cap := s.hib.cap.toNat * 1000
  let clk := s.mgmt.clk
  if 1520 ≤ temp then max 9 (clk - 1)
  else if cap < power then (if contractAdmitted s then clk else max 9 (clk - 1))
  else if power * 20 ≤ cap * 19 then min 18 (clk + 1)
  else clk

/-- R504: a sample of package power (mW) and of the highest junction temperature (1/16 °C). -/
def execPowerSample (power : BitVec 32) (temp : BitVec 16) (s : State) : Step :=
  if s.hib.trip then .next s
  else
    let clk := clockAfter s power.toNat temp.toNat
    let s : State := { s with
      hib := { s.hib with pwr := power, tmax := temp, capx := decide (s.hib.cap.toNat * 1000 < power.toNat) }
      mgmt := { s.mgmt with clk := clk } }
    if 1760 ≤ temp.toNat then .next (tripped s) else .next s

end Sys2Proof.Machine
end

