-- ==== Sys2Proof/Machine/Translation.lean ====
section
/-!
DEFINITION. Gather windows, TLB invalidation and the table walkers (12 R328 to R345).
-/

namespace Sys2Proof.Machine

/-! ## Gather windows (R336, R342 to R344) -/

/-- The address of window `w` (Table 12.1). -/
def windowAddr (w : Nat) : Word := wordN (0x100000000000000 + w * 2 ^ 28)

/-- The lowest free descriptor of a context. -/
def freeWindow (s : State) (c : Nat) : Option Nat :=
  (List.range 256).find? fun w => !(tget Window.init s.windows (256 * c + w)).bound

/-- The bound window of a context that an address names. -/
def boundWindow (s : State) (c : Nat) (va : Word) : Option Nat :=
  (List.range 256).find? fun w => va == windowAddr w && (tget Window.init s.windows (256 * c + w)).bound

/-- R342. -/
def execGbind (g : Guard) (d a b : Reg) (esz : BitVec 3) (iw : BitVec 2) (isgn bytes : Bool) (cnt : BitVec 24) (s : State) :
    Host.Outcome State Fault Refusal :=
  head s g {} fun s =>
    let idx := s.getS a
    let base := s.getS b
    if idx.toNat % 2 ^ iw.toNat ≠ 0 then .trap s (memTrap 8 .read idx)
    else if whereIs idx ≠ .global then .trap s (memTrap 7 .read idx)
    else if whereIs base ≠ .global then .trap s (memTrap 7 .read base)
    else
      match freeWindow s s.ctx with
      | none => .retire (s.setS d 0) .seq
      | some w =>
        let s := { s with windows := tset s.windows (256 * s.ctx + w) ⟨true, idx, base, esz, iw, isgn, bytes, cnt⟩ }
        .retire (s.setS d (windowAddr w)) .seq

/-- R343. -/
def execGunb (g : Guard) (d a : Reg) (s : State) : Host.Outcome State Fault Refusal :=
  plain s g fun s =>
    match boundWindow s s.ctx (s.getS a) with
    | some w => ({ s with windows := tdel s.windows (256 * s.ctx + w) }).setS d 0
    | none => s.setS d 1

/-- R344. -/
def execGstat (g : Guard) (d a : Reg) (s : State) : Host.Outcome State Fault Refusal :=
  plain s g fun s =>
    match boundWindow s s.ctx (s.getS a) with
    | some w =>
      let x := tget Window.init s.windows (256 * s.ctx + w)
      s.setS d (wordN (2 ^ 63 + w * 2 ^ 32 + x.cnt.toNat * 2 ^ 8 + b2n x.bytes * 2 ^ 6 + b2n x.isgn * 2 ^ 5 + x.iw.toNat * 2 ^ 3 +
        x.esz.toNat))
    | none => s.setS d 0

/-! ## TLB invalidation (R345) -/

/-- Whether the page of an entry overlaps a range of `n` bytes from `a`. -/
def pageOverlaps (e : TlbEntry) (a n : Nat) : Bool :=
  decide (0 < n) && decide (e.vpn * 2 ^ e.size < a + n) && decide (a < (e.vpn + 1) * 2 ^ e.size)

/-- Invalidates the entries of a context in every TLB of the module, of a range or all of them; walks in flight for the context will not
install their results. -/
def tlbInvalidate (s : State) (c : Nat) (range : Option (Nat × Nat)) : State :=
  let hit := fun e : TlbEntry => e.ctx == c && (match range with | some (a, n) => pageOverlaps e a n | none => true)
  { s with
    clusters := s.clusters.map fun p => (p.1, { p.2 with tlb := p.2.tlb.filter fun e => !hit e })
    dies := s.dies.map fun p =>
      (p.1, { p.2 with walks := p.2.walks.map fun r => if r.ctx = c then { r with dead := true } else r }) }

/-- A walk of a context that an invalidation has reached is still in flight. -/
def deadWalk (s : State) (c : Nat) : Bool := s.dies.any fun p => p.2.walks.any fun r => r.dead && r.ctx == c

/-- R345: it invalidates once, and retires when every walk that it reached has ended. -/
def execTlbinv (g : Guard) (a b : Reg) (all : Bool) (s : State) : Host.Outcome State Fault Refusal :=
  head s g { priv := true } fun s =>
    let t := if s.sl.wait = .poll then s
      else tlbInvalidate s s.ctx (if all then none else some ((s.getS a).toNat, (s.getS b).toNat))
    if deadWalk t t.ctx then .wait t .poll else .retire t .seq

/-! ## Walks (R328, R330) -/

/-- A slot that waits for a walk executes its head again, or stores its trap record. -/
def walkDone (s : State) (n : Nat) (res : Option (Nat × Nat)) : State :=
  match (s.slot n).wait with
  | .walk => s.setSlot n { s.slot n with wait := .none, walkRes := res }
  | _ => s

/-- A copy operation that waits for a walk goes on. -/
def CopyOp.walked (o : CopyOp) (res : Option (Nat × Nat)) : CopyOp :=
  if o.wait = .walk then { o with wait := res.elim .none fun r => .walked r.1 r.2 } else o

/-- The lines of an `l2pf` of a slot whose page has no translation are dropped (R320). -/
def fetchesDropped (s : State) (cl n page : Nat) : State :=
  let c := s.cluster cl
  s.setCluster cl { c with fetches := c.fetches.filter fun f => !(f.1 == n && f.2.1.toNat / 2 ^ 16 == page) }

/-- A walk for an agent of a cluster has ended: with a page that it may access, or with the page and the cause of a fault. -/
def walkEnds (s : State) (cl who page : Nat) (cause : Option Nat) : State :=
  let res := cause.map fun c => (page, c)
  if whoOp 0 ≤ who then
    { s with copies := s.copies.map fun p => (p.1, { p.2 with ops := p.2.ops.map fun o => if whoOp o.id = who then o.walked res else o }) }
  else
    match slotOfWho who with
    | none => s
    | some n => if whoFetch 0 ≤ who then (if cause.isSome then fetchesDropped s cl n page else s) else walkDone s n res

/-- R330: one of the walks of a die that the 64 walkers have taken ends, the item `sel` among them; one that reads an entry behind what waits at its home slice
goes on (R298). -/
def execTableWalk (die : Nat) (s : State) : Host.Outcome State Fault Refusal :=
  let d := s.die die
  let i := s.sel % (min 64 d.walks.length)
  match d.walks[i]? with
  | none => .next s
  | some r =>
    let page := r.va.toNat / 2 ^ 16
    let gone := fun s : State => s.setDie die { s.die die with walks := ldel (s.die die).walks i }
    let ends := fun (s : State) (f : Nat × Access × Bool → Option Nat) => r.slots.foldl (fun s x => walkEnds s r.cl x.1 page (f x)) s
    if r.dead then .next (ends (gone s) fun _ => none)
    else
      match walkTable s r.ctx r.va with
      | (s, .later) => .next s
      | (s, .fault c) => .next (ends (gone s) fun _ => some c)
      | (s, .leaf e) =>
        let ok := fun x : Nat × Access × Bool => permOk e x.2.1 x.2.2
        let s := if r.slots.any ok then tlbPut s r.cl e else s
        .next (ends (gone s) fun x => if ok x then none else some 6)

/-- R330: a slot whose walk request found the queue full executes its head again. -/
def execWalkQueueRetry (s : State) : Host.Outcome State Fault Refusal :=
  match s.sl.wait with
  | .walkFull _ => .next (s.setSl { s.sl with wait := .none })
  | _ => .next s

end Sys2Proof.Machine
end

