-- ==== Sys2Proof/Machine/Dispatch.lean ====
section
/-!
DEFINITION. The meaning of every instruction: one arm per constructor of `Instr`.
-/

namespace Sys2Proof.Machine

/-- The effect of an instruction, or of an event, on the state. -/
def exec (i : Instr) (s : State) : Host.Outcome State Fault Refusal :=
  match i with
  | .hret g => Sys2Proof.Machine.execHret g s
  | .hpost g a b ch dec => Sys2Proof.Machine.execHpost g a b ch dec s
  | .harm g d a b keep ch => Sys2Proof.Machine.execHarm g d a b keep ch s
  | .hen g d a usech ch => Sys2Proof.Machine.execHen g d a usech ch s
  | .hdis g d a usech ch => Sys2Proof.Machine.execHdis g d a usech ch s
  | .hpclr g d a usech ch => Sys2Proof.Machine.execHpclr g d a usech ch s
  | .hprio g d p ch => Sys2Proof.Machine.execHprio g d p ch s
  | .tsread g d => Sys2Proof.Machine.execTsread g d s
  | .dsync g d mask => Sys2Proof.Machine.execDsync g d mask s
  | .falign g => Sys2Proof.Machine.execFalign g s
  | .rtake g d b obj => Sys2Proof.Machine.execRtake g d b obj s
  | .lnch g d a b => Sys2Proof.Machine.execLnch g d a b s
  | .add g d a b => Sys2Proof.Machine.execAdd g d a b s
  | .sub g d a b => Sys2Proof.Machine.execSub g d a b s
  | .and g d a b => Sys2Proof.Machine.execAnd g d a b s
  | .or g d a b => Sys2Proof.Machine.execOr g d a b s
  | .xor g d a b => Sys2Proof.Machine.execXor g d a b s
  | .andn g d a b => Sys2Proof.Machine.execAndn g d a b s
  | .orn g d a b => Sys2Proof.Machine.execOrn g d a b s
  | .mov g d a => Sys2Proof.Machine.execMov g d a s
  | .mul g d a b => Sys2Proof.Machine.execMul g d a b s
  | .mulh g d a b => Sys2Proof.Machine.execMulh g d a b s
  | .mulhn g d a b => Sys2Proof.Machine.execMulhn g d a b s
  | .sel g d a b => Sys2Proof.Machine.execSel g d a b s
  | .div g d a b => Sys2Proof.Machine.execDiv g d a b s
  | .divn g d a b => Sys2Proof.Machine.execDivn g d a b s
  | .rem g d a b => Sys2Proof.Machine.execRem g d a b s
  | .remn g d a b => Sys2Proof.Machine.execRemn g d a b s
  | .shl g d a b => Sys2Proof.Machine.execShl g d a b s
  | .shr g d a b => Sys2Proof.Machine.execShr g d a b s
  | .sar g d a b => Sys2Proof.Machine.execSar g d a b s
  | .rotl g d a b => Sys2Proof.Machine.execRotl g d a b s
  | .min g d a b => Sys2Proof.Machine.execMin g d a b s
  | .max g d a b => Sys2Proof.Machine.execMax g d a b s
  | .minn g d a b => Sys2Proof.Machine.execMinn g d a b s
  | .maxn g d a b => Sys2Proof.Machine.execMaxn g d a b s
  | .addi g d a imm => Sys2Proof.Machine.execAddi g d a imm s
  | .shli g d a n => Sys2Proof.Machine.execShli g d a n s
  | .shri g d a n => Sys2Proof.Machine.execShri g d a n s
  | .sari g d a n => Sys2Proof.Machine.execSari g d a n s
  | .addpc g d t => Sys2Proof.Machine.execAddpc g d t s
  | .lui g d imm => Sys2Proof.Machine.execLui g d imm s
  | .lim g d v => Sys2Proof.Machine.execLim g d v s
  | .cmpi g j a unsig imm => Sys2Proof.Machine.execCmpi g j a unsig imm s
  | .clz g d a => Sys2Proof.Machine.execClz g d a s
  | .ctz g d a => Sys2Proof.Machine.execCtz g d a s
  | .popc g d a => Sys2Proof.Machine.execPopc g d a s
  | .bswap g d a => Sys2Proof.Machine.execBswap g d a s
  | .ext g d a w1 p => Sys2Proof.Machine.execExt g d a w1 p s
  | .extn g d a w1 p => Sys2Proof.Machine.execExtn g d a w1 p s
  | .ins g d a w1 p => Sys2Proof.Machine.execIns g d a w1 p s
  | .sext g d a n1 => Sys2Proof.Machine.execSext g d a n1 s
  | .zext g d a n1 => Sys2Proof.Machine.execZext g d a n1 s
  | .cmp g j a b unsig => Sys2Proof.Machine.execCmp g j a b unsig s
  | .gop g op gd na ga nb gb => Sys2Proof.Machine.execGop g op gd na ga nb gb s
  | .nop g => Sys2Proof.Machine.execNop g s
  | .br g t => Sys2Proof.Machine.execBr g t s
  | .jl g t => Sys2Proof.Machine.execJl g t s
  | .jlr g d a => Sys2Proof.Machine.execJlr g d a s
  | .trap g code => Sys2Proof.Machine.execTrap g code s
  | .lpset g count u => Sys2Proof.Machine.execLpset g count u s
  | .lpsetr g a u => Sys2Proof.Machine.execLpsetr g a u s
  | .lpbrk g => Sys2Proof.Machine.execLpbrk g s
  | .eret g => Sys2Proof.Machine.execEret g s
  | .csrr g d csr => Sys2Proof.Machine.execCsrr g d csr s
  | .csrw g d a csr => Sys2Proof.Machine.execCsrw g d a csr s
  | .csrs g d a csr => Sys2Proof.Machine.execCsrs g d a csr s
  | .csrc g d a csr => Sys2Proof.Machine.execCsrc g d a csr s
  | .fpstatAccess g op d a => Sys2Proof.Machine.execFpstatAccess g op d a s
  | .qportRead g d q => Sys2Proof.Machine.execQportRead g d q s
  | .qportWrite g d a q => Sys2Proof.Machine.execQportWrite g d a q s
  | .lhstRet g op d a => Sys2Proof.Machine.execLhstRet g op d a s
  | .ld g z d a imm sync => Sys2Proof.Machine.execLd g z d a imm sync s
  | .ldn g z d a imm sync => Sys2Proof.Machine.execLdn g z d a imm sync s
  | .st g z d a imm sync => Sys2Proof.Machine.execSt g z d a imm sync s
  | .ldx g z d a b => Sys2Proof.Machine.execLdx g z d a b s
  | .ldxSync g z d a b eng => Sys2Proof.Machine.execLdxSync g z d a b eng s
  | .stx g z d a b => Sys2Proof.Machine.execStx g z d a b s
  | .stxSync g z d a b eng => Sys2Proof.Machine.execStxSync g z d a b eng s
  | .amo g dbl d a b op ord scope => Sys2Proof.Machine.execAmo g dbl d a b op ord scope s
  | .amocas g dbl d a b ar => Sys2Proof.Machine.execAmocas g dbl d a b ar s
  | .ldfe g d a b imm => Sys2Proof.Machine.execLdfe g d a b imm s
  | .stfe g d a b imm => Sys2Proof.Machine.execStfe g d a b imm s
  | .ldff g d a b imm => Sys2Proof.Machine.execLdff g d a b imm s
  | .ldre g d a b imm => Sys2Proof.Machine.execLdre g d a b imm s
  | .stsf g d a b imm => Sys2Proof.Machine.execStsf g d a b imm s
  | .mon g a => Sys2Proof.Machine.execMon g a s
  | .mwait g d a => Sys2Proof.Machine.execMwait g d a s
  | .fence g scope kind => Sys2Proof.Machine.execFence g scope kind s
  | .spal g d a bank fe side => Sys2Proof.Machine.execSpal g d a bank fe side s
  | .spfr g d a => Sys2Proof.Machine.execSpfr g d a s
  | .fecl g a b full => Sys2Proof.Machine.execFecl g a b full s
  | .vclaim g d a wait min => Sys2Proof.Machine.execVclaim g d a wait min s
  | .vrel g => Sys2Proof.Machine.execVrel g s
  | .vreneg g d a want => Sys2Proof.Machine.execVreneg g d a want s
  | .sfn g d a fn fmt rm => Sys2Proof.Machine.execSfn g d a fn fmt rm s
  | .vld g z d a off sync => Sys2Proof.Machine.execVld g z d a off sync s
  | .vst g z d a off sync => Sys2Proof.Machine.execVst g z d a off sync s
  | .vlds g z d a b off sync => Sys2Proof.Machine.execVlds g z d a b off sync s
  | .vsts g z d a b off sync => Sys2Proof.Machine.execVsts g z d a b off sync s
  | .vadd g ty rm d a b sat => Sys2Proof.Machine.execVadd g ty rm d a b sat s
  | .vsub g ty rm d a b sat => Sys2Proof.Machine.execVsub g ty rm d a b sat s
  | .vmul g ty rm d a b sat => Sys2Proof.Machine.execVmul g ty rm d a b sat s
  | .vfma g ty rm d a b c sat => Sys2Proof.Machine.execVfma g ty rm d a b c sat s
  | .vfms g ty rm d a b c sat => Sys2Proof.Machine.execVfms g ty rm d a b c sat s
  | .vmin g ty d a b => Sys2Proof.Machine.execVmin g ty d a b s
  | .vmax g ty d a b => Sys2Proof.Machine.execVmax g ty d a b s
  | .vabs g ty d a sat => Sys2Proof.Machine.execVabs g ty d a sat s
  | .vchs g ty d a sat => Sys2Proof.Machine.execVchs g ty d a sat s
  | .vand g ty d a b => Sys2Proof.Machine.execVand g ty d a b s
  | .vor g ty d a b => Sys2Proof.Machine.execVor g ty d a b s
  | .vxor g ty d a b => Sys2Proof.Machine.execVxor g ty d a b s
  | .vshl g ty d a b imm n => Sys2Proof.Machine.execVshl g ty d a b imm n s
  | .vshr g ty d a b imm n => Sys2Proof.Machine.execVshr g ty d a b imm n s
  | .vsar g ty d a b imm n => Sys2Proof.Machine.execVsar g ty d a b imm n s
  | .vcmp g ty j a b cmb => Sys2Proof.Machine.execVcmp g ty j a b cmb s
  | .vsel g ty d a b m => Sys2Proof.Machine.execVsel g ty d a b m s
  | .vclamp g ty d a b c => Sys2Proof.Machine.execVclamp g ty d a b c s
  | .vcvt g ty rm d a irm src => Sys2Proof.Machine.execVcvt g ty rm d a irm src s
  | .vmxq g ty d a => Sys2Proof.Machine.execVmxq g ty d a s
  | .vmxd g ty rm d a => Sys2Proof.Machine.execVmxd g ty rm d a s
  | .vtern g ty d a b det => Sys2Proof.Machine.execVtern g ty d a b det s
  | .vred g ty rm d a red => Sys2Proof.Machine.execVred g ty rm d a red s
  | .vsplat g ty d a => Sys2Proof.Machine.execVsplat g ty d a s
  | .vext g ty d a b => Sys2Proof.Machine.execVext g ty d a b s
  | .vins g ty d a b => Sys2Proof.Machine.execVins g ty d a b s
  | .vmov g ty d a form => Sys2Proof.Machine.execVmov g ty d a form s
  | .mlw g a l actv eng => Sys2Proof.Machine.execMlw g a l actv eng s
  | .mrun g d a b row eng => Sys2Proof.Machine.execMrun g d a b row eng s
  | .mrunq g d a row fwd eng => Sys2Proof.Machine.execMrunq g d a row fwd eng s
  | .mdrain g d a nrow frow bank dst eng => Sys2Proof.Machine.execMdrain g d a nrow frow bank dst eng s
  | .mdrs g d a nrow frow bank dst eng => Sys2Proof.Machine.execMdrs g d a nrow frow bank dst eng s
  | .mclr g banks eng => Sys2Proof.Machine.execMclr g banks eng s
  | .mswap g l set eng => Sys2Proof.Machine.execMswap g l set eng s
  | .mpass g d a nrow esz plane eng => Sys2Proof.Machine.execMpass g d a nrow esz plane eng s
  | .mcfg g a mode clrf user base => Sys2Proof.Machine.execMcfg g a mode clrf user base s
  | .msave g a what eng => Sys2Proof.Machine.execMsave g a what eng s
  | .mrest g a what eng => Sys2Proof.Machine.execMrest g a what eng s
  | .swt g idx t => Sys2Proof.Machine.execSwt g idx t s
  | .ssig g j n => Sys2Proof.Machine.execSsig g j n s
  | .sset g d a idx => Sys2Proof.Machine.execSset g d a idx s
  | .srd g d idx => Sys2Proof.Machine.execSrd g d idx s
  | .qctl g q a => Sys2Proof.Machine.execQctl g q a s
  | .qstat g d q => Sys2Proof.Machine.execQstat g d q s
  | .qdir g d q dir tport => Sys2Proof.Machine.execQdir g d q dir tport s
  | .qflush g mask => Sys2Proof.Machine.execQflush g mask s
  | .rbinit g a b nslot1 slotsz1 => Sys2Proof.Machine.execRbinit g a b nslot1 slotsz1 s
  | .rbacq g d a n try_ => Sys2Proof.Machine.execRbacq g d a n try_ s
  | .rbpub g a b n => Sys2Proof.Machine.execRbpub g a b n s
  | .rbtake g d a n try_ => Sys2Proof.Machine.execRbtake g d a n try_ s
  | .rbrel g a b n => Sys2Proof.Machine.execRbrel g a b n s
  | .stacq g d a role try_ => Sys2Proof.Machine.execStacq g d a role try_ s
  | .strel g a b role => Sys2Proof.Machine.execStrel g a b role s
  | .sopen g f a b off => Sys2Proof.Machine.execSopen g f a b off s
  | .snext g d f => Sys2Proof.Machine.execSnext g d f s
  | .sisect g d fa fb => Sys2Proof.Machine.execSisect g d fa fb s
  | .sunion g d fa fb => Sys2Proof.Machine.execSunion g d fa fb s
  | .sskip g d f b => Sys2Proof.Machine.execSskip g d f b s
  | .scrd g d f b => Sys2Proof.Machine.execScrd g d f b s
  | .sval g d f sgn => Sys2Proof.Machine.execSval g d f sgn s
  | .sdone g gd f => Sys2Proof.Machine.execSdone g gd f s
  | .ssave g f a => Sys2Proof.Machine.execSsave g f a s
  | .srest g f a => Sys2Proof.Machine.execSrest g f a s
  | .sclose g f => Sys2Proof.Machine.execSclose g f s
  | .cwb g a b => Sys2Proof.Machine.execCwb g a b s
  | .cinv g a b => Sys2Proof.Machine.execCinv g a b s
  | .cwbi g a b => Sys2Proof.Machine.execCwbi g a b s
  | .iinv g a b => Sys2Proof.Machine.execIinv g a b s
  | .ibar g => Sys2Proof.Machine.execIbar g s
  | .l2pf g a n1 cdc => Sys2Proof.Machine.execL2pf g a n1 cdc s
  | .l2zero g a => Sys2Proof.Machine.execL2zero g a s
  | .gbind g d a b esz iw isgn bytes cnt => Sys2Proof.Machine.execGbind g d a b esz iw isgn bytes cnt s
  | .gunb g d a => Sys2Proof.Machine.execGunb g d a s
  | .gstat g d a => Sys2Proof.Machine.execGstat g d a s
  | .tlbinv g a b all => Sys2Proof.Machine.execTlbinv g a b all s
  | .cpush g d a b place opt glb ring eng => Sys2Proof.Machine.execCpush g d a b place opt glb ring eng s
  | .cslab g d a b g1 g2 place opt unit eng => Sys2Proof.Machine.execCslab g d a b g1 g2 place opt unit eng s
  | .cmcast g d a b place opt unit eng => Sys2Proof.Machine.execCmcast g d a b place opt unit eng s
  | .cthr g d a b gr pr seed tb arr note stoch eng => Sys2Proof.Machine.execCthr g d a b gr pr seed tb arr note stoch eng s
  | .cconv g d a b conv tslot note eng => Sys2Proof.Machine.execCconv g d a b conv tslot note eng s
  | .ctab g d a tslot tfmt => Sys2Proof.Machine.execCtab g d a tslot tfmt s
  | .cfree g a place => Sys2Proof.Machine.execCfree g a place s
  | .tbinit g a n => Sys2Proof.Machine.execTbinit g a n s
  | .tbarr g d a => Sys2Proof.Machine.execTbarr g d a s
  | .tbexp g d a b arr => Sys2Proof.Machine.execTbexp g d a b arr s
  | .tbwait g d a b => Sys2Proof.Machine.execTbwait g d a b s
  | .tbtest g d a b => Sys2Proof.Machine.execTbtest g d a b s
  | .tbguard g d a b => Sys2Proof.Machine.execTbguard g d a b s
  | .msend g d a b place ch dec => Sys2Proof.Machine.execMsend g d a b place ch dec s
  | .mrecv g d a b => Sys2Proof.Machine.execMrecv g d a b s
  | .mpeek g d a => Sys2Proof.Machine.execMpeek g d a s
  | .rst g z d a place ord => Sys2Proof.Machine.execRst g z d a place ord s
  | .rld g z d a place zx => Sys2Proof.Machine.execRld g z d a place zx s
  | .jread g d a b => Sys2Proof.Machine.execJread g d a b s
  | .jack g d a => Sys2Proof.Machine.execJack g d a s
  | .nfence g rst msg => Sys2Proof.Machine.execNfence g rst msg s
  | .coll g d a b c e kind ty red rm => Sys2Proof.Machine.execColl g d a b c e kind ty red rm s
  | .enctabWrite g op d a => Sys2Proof.Machine.execEnctabWrite g op d a s
  | .brk g code => Sys2Proof.Machine.execBrk g code s
  | .dbgctlStat g d => Sys2Proof.Machine.execDbgctlStat g d s
  | .dbgctlHalt g d => Sys2Proof.Machine.execDbgctlHalt g d s
  | .dbgctlRun g d => Sys2Proof.Machine.execDbgctlRun g d s
  | .dbgctlKill g d a => Sys2Proof.Machine.execDbgctlKill g d a s
  | .dbgctlSettle g d => Sys2Proof.Machine.execDbgctlSettle g d s
  | .rangeUnitService die => Sys2Proof.Machine.execRangeUnitService die s
  | .queueEntryLanding core => Sys2Proof.Machine.execQueueEntryLanding core s
  | .cspBlockZeroed cl => Sys2Proof.Machine.execCspBlockZeroed cl s
  | .vlpRequestService octet => Sys2Proof.Machine.execVlpRequestService octet s
  | .sfuReturn quad => Sys2Proof.Machine.execSfuReturn quad s
  | .tmeOperationStart tile => Sys2Proof.Machine.execTmeOperationStart tile s
  | .tmeOperationComplete tile k => Sys2Proof.Machine.execTmeOperationComplete tile k s
  | .iinvComplete cl => Sys2Proof.Machine.execIinvComplete cl s
  | .tableWalk die => Sys2Proof.Machine.execTableWalk die s
  | .copyOperationStart engine => Sys2Proof.Machine.execCopyOperationStart engine s
  | .copyChunkLanding engine op chunk => Sys2Proof.Machine.execCopyChunkLanding engine op chunk s
  | .copyOperationComplete engine op => Sys2Proof.Machine.execCopyOperationComplete engine op s
  | .collectiveStart engine => Sys2Proof.Machine.execCollectiveStart engine s
  | .collectiveContribution engine op rank chunk data => Sys2Proof.Machine.execCollectiveContribution engine op rank chunk data s
  | .collectiveChunkTimeout engine op chunk => Sys2Proof.Machine.execCollectiveChunkTimeout engine op chunk s
  | .collectiveComplete engine op => Sys2Proof.Machine.execCollectiveComplete engine op s
  | .activationStart core => Sys2Proof.Machine.execActivationStart core s
  | .l2RequestService slice => Sys2Proof.Machine.execL2RequestService slice s
  | .l2WriteReplay slice k => Sys2Proof.Machine.execL2WriteReplay slice k s
  | .writeBackBufferDrain slice => Sys2Proof.Machine.execWriteBackBufferDrain slice s
  | .l2FillReturn slice k => Sys2Proof.Machine.execL2FillReturn slice k s
  | .hostCxlMemAccess addr write bytes => Sys2Proof.Machine.execHostCxlMemAccess addr write bytes s
  | .encoderFrame die entry => Sys2Proof.Machine.execEncoderFrame die entry s
  | .encoderRdPoll die entry => Sys2Proof.Machine.execEncoderRdPoll die entry s
  | .timeSyncMessage master => Sys2Proof.Machine.execTimeSyncMessage master s
  | .fabricTraining module => Sys2Proof.Machine.execFabricTraining module s
  | .recoveryImageI3c image => Sys2Proof.Machine.execRecoveryImageI3c image s
  | .rcvlenWrite v => Sys2Proof.Machine.execRcvlenWrite v s
  | .hctailWrite v => Sys2Proof.Machine.execHctailWrite v s
  | .hcrsizeWrite v => Sys2Proof.Machine.execHcrsizeWrite v s
  | .hcrbaseWrite v => Sys2Proof.Machine.execHcrbaseWrite v s
  | .pcapWrite v => Sys2Proof.Machine.execPcapWrite v s
  | .hostRegisterWrite hib off v => Sys2Proof.Machine.execHostRegisterWrite hib off v s
  | .powerSample power temp => Sys2Proof.Machine.execPowerSample power temp s
  | .unassignedOpcode head => Sys2Proof.Machine.execUnassignedOpcode head s
  | .backInvalidateSnoopResponse line => Sys2Proof.Machine.execBackInvalidateSnoopResponse line s
  | .keyTransportKeyProvisioning key => Sys2Proof.Machine.execKeyTransportKeyProvisioning key s
  | .cxlLinkTraining fast => Sys2Proof.Machine.execCxlLinkTraining fast s
  | .falignTimeout => Sys2Proof.Machine.execFalignTimeout s
  | .feRetryAttempt => Sys2Proof.Machine.execFeRetryAttempt s
  | .mwaitDeadline => Sys2Proof.Machine.execMwaitDeadline s
  | .walkQueueRetry => Sys2Proof.Machine.execWalkQueueRetry s
  | .cfreeArrival => Sys2Proof.Machine.execCfreeArrival s
  | .messageArrival => Sys2Proof.Machine.execMessageArrival s
  | .returnedMessage => Sys2Proof.Machine.execReturnedMessage s
  | .acknowledgementArrival => Sys2Proof.Machine.execAcknowledgementArrival s
  | .remoteStoreArrival => Sys2Proof.Machine.execRemoteStoreArrival s
  | .journalRefusal => Sys2Proof.Machine.execJournalRefusal s
  | .remoteLoadService => Sys2Proof.Machine.execRemoteLoadService s
  | .remoteLoadReply => Sys2Proof.Machine.execRemoteLoadReply s
  | .driftCreditArrival => Sys2Proof.Machine.execDriftCreditArrival s
  | .remoteReplyTimeout => Sys2Proof.Machine.execRemoteReplyTimeout s
  | .fetchLine => Sys2Proof.Machine.execFetchLine s
  | .launchCheck => Sys2Proof.Machine.execLaunchCheck s
  | .launchStart => Sys2Proof.Machine.execLaunchStart s
  | .launchEnd => Sys2Proof.Machine.execLaunchEnd s
  | .streamWaitEntry => Sys2Proof.Machine.execStreamWaitEntry s
  | .streamSignalEntry => Sys2Proof.Machine.execStreamSignalEntry s
  | .streamMapping => Sys2Proof.Machine.execStreamMapping s
  | .inheritanceSearch => Sys2Proof.Machine.execInheritanceSearch s
  | .contractJobRelease => Sys2Proof.Machine.execContractJobRelease s
  | .contractBudgetOverrun => Sys2Proof.Machine.execContractBudgetOverrun s
  | .gangSwitchOut => Sys2Proof.Machine.execGangSwitchOut s
  | .gangSwitchIn => Sys2Proof.Machine.execGangSwitchIn s
  | .timeSyncLoss => Sys2Proof.Machine.execTimeSyncLoss s
  | .teardownStep => Sys2Proof.Machine.execTeardownStep s
  | .moduleReset => Sys2Proof.Machine.execModuleReset s
  | .ctxnew => Sys2Proof.Machine.execCtxnew s
  | .strnew => Sys2Proof.Machine.execStrnew s
  | .strrst => Sys2Proof.Machine.execStrrst s
  | .append => Sys2Proof.Machine.execAppend s
  | .semset => Sys2Proof.Machine.execSemset s
  | .cancel => Sys2Proof.Machine.execCancel s
  | .teardown => Sys2Proof.Machine.execTeardown s
  | .keyload => Sys2Proof.Machine.execKeyload s
  | .attest => Sys2Proof.Machine.execAttest s
  | .fwupd => Sys2Proof.Machine.execFwupd s
  | .attestCompletion => Sys2Proof.Machine.execAttestCompletion s
  | .fwupdCompletion => Sys2Proof.Machine.execFwupdCompletion s

end Sys2Proof.Machine
end

