-- ==== Sys2Proof/Machine/Sched.lean ====
section
/-!
DEFINITION. What can happen next (00 R3, 04 R103): the heads that a barrel may issue, the events that are due in the units, and the events from
outside. One of them is a step; which one is free.
-/

namespace Sys2Proof.Machine

/-- What a slot or a unit does in a step. -/
inductive Act where
  /-- an instruction, or an event -/
  | run (i : Instr)
  /-- the trap of a head that the decoder refuses -/
  | trap (t : Trap)
  /-- the oldest store of a slot's store queue enters the cluster data cache (R154, R423) -/
  | storeEnters
  /-- a write to another module is acknowledged, or lost (R399) -/
  | away (k : Nat) (lost : Bool)
  /-- error entries that are owed are written (R463) -/
  | owed
  /-- an operation of a matrix engine makes progress, or reads a word of its operands (R216, R229) -/
  | tmeWork (tile k : Nat)
  | tmeRead (tile k : Nat)
  /-- a restored matrix engine reloads a latch (R230) -/
  | tmeReload (tile : Nat)
  /-- the window stores or the `l2zero` of a slot are performed (R321, R337) -/
  | performed
  /-- the store of a trap record goes on after a table walk (R330) -/
  | trapResumes
  /-- the updates of a semaphore file in a cycle are over (R248) -/
  | semTest (tile : Nat)
  /-- line `k` that an `l2pf` has asked a cluster for is prefetched, or dropped (R320) -/
  | prefetch (cl k : Nat)
  /-- the encoder of a die reads its table again (R450) -/
  | encTable (die : Nat)
  deriving DecidableEq, Repr

/-- Something that can happen: the slot concerned, the item concerned, what it is, and whether it comes from outside. -/
structure Happening where
  cur : Nat
  sel : Nat
  act : Act
  ext : Bool
  deriving DecidableEq, Repr

/-- An event of a unit. -/
def event (i : Instr) : Happening := ⟨0, 0, .run i, false⟩

/-- An event of a slot. -/
def eventOf (n : Nat) (i : Instr) : Happening := ⟨n, 0, .run i, false⟩

/-- An event that concerns an item. -/
def eventAt (k : Nat) (i : Instr) : Happening := ⟨0, k, .run i, false⟩

/-! ## Slots -/

/-- A slot is ready (R103). -/
def ready (l : Slot) : Bool := l.chan.isSome && l.line != [] && l.wait == .none && l.entry.isNone

/-- The head at the PC of a slot, as the decoder reads it (Table 3.7); a PC that names no head of the line held is malformed. -/
def actOf (l : Slot) : Act :=
  match headAt l with
  | some (.ok i) => .run i
  | some .unassigned => .run (.unassignedOpcode (l.line.getD (l.pc.toNat / 2 % 32) 0))
  | some .badLength => .trap (trapI 2 1 0)
  | some .illegal => .trap (trapI 1 0 (l.line.getD (l.pc.toNat / 2 % 32) 0).toNat)
  | none => .trap (trapI 2 4 0)

/-- A head of a slot. -/
def headOfSlot (s : State) (n : Nat) : Happening := ⟨n, 0, actOf (s.slot n), false⟩

/-- What a happening does in its state. -/
def proceed (s : State) (h : Happening) : Host.Outcome State Fault Refusal :=
  match h.act with
  | .run i => exec i s
  | .trap t => .next (headTrap (barrelMoved s) s.cur t)
  | .storeEnters => .next (storeEnters s s.cur)
  | .away k lost => .next (awayEnds s k lost)
  | .owed => .next (writeOwed s)
  | .tmeWork tile k => .next (tmeProgress s tile k)
  | .tmeRead tile k => .next (tmeReadsWord s tile k)
  | .tmeReload tile => .next (tmeReload s tile)
  | .performed => .next (slotPerformed s)
  | .trapResumes => .next (trapResumes s s.cur)
  | .semTest tile => .next (semTested s tile)
  | .prefetch cl k => .next (prefetchLine s cl k)
  | .encTable die => .next (rereadTable s die)

/-- A wait that precedes the issue of its head and that no event ends: the head is executed again once the slot is no longer blocked. The parked retry of a full/empty
instruction, which has issued, is an event (R161). -/
def retested : Wait → Bool
  | .port _ | .push _ _ | .ring _ _ _ | .monitor _ | .barrier _ _ _ | .drift | .poll => true
  | .parked _ _ _ tries => tries == 0
  | _ => false

/-- What a blocked head has come to: why it waits, the reply it awaits, and how far a release or a range form has gone. -/
def Slot.stage (l : Slot) : Wait × Option (Word × Nat) × Option Nat × Nat := (l.wait, l.reply, l.rel, l.block)

/-- The head of a blocked slot would not wait again as it does: what it waits for has come, or it goes on to wait for something else. -/
def wouldRun (s : State) (n : Nat) : Bool :=
  match proceed { s with cur := n } (headOfSlot s n) with
  | .next t => !retested (t.slot n).wait || (t.slot n).stage != (s.slot n).stage
  | _ => true

/-- A slot is ready, or is no longer blocked (R103). -/
def issuable (s : State) (n : Nat) : Bool := ready (s.slot n) || ((s.slot n).chan.isSome && retested (s.slot n).wait && wouldRun s n)

/-- A core has updated its semaphore file in the current cycle, in which it issues no other head (R103, R248). -/
def hasActed (s : State) (core : Nat) : Bool := (s.tile (core / 2)).upd != 0 && (s.tile (core / 2)).acted.contains core

/-- The slot from which the barrel of a core issues: the first that is ready, from its pointer on (R24, R103). -/
def barrelSlot (s : State) (core : Nat) : Option Nat :=
  if hasActed s core then none else ((List.range 4).map fun i => 4 * core + ((s.core core).ptr + i) % 4).find? (issuable s)

/-- What can happen to a slot beside the issue of a head. -/
def slotHappenings (s : State) (n : Nat) (l : Slot) : List Happening :=
  (if l.sq = [] then [] else [⟨n, 0, .storeEnters, false⟩]) ++
    if l.chan.isNone then []
    else
      match l.wait with
      | .none => if l.entry.isSome then [⟨n, 0, .trapResumes, false⟩] else if l.line = [] then [eventOf n .fetchLine] else []
      | .align cc => if cc + 64 ≤ s.cc then [eventOf n .falignTimeout] else []
      | .fe _ _ => if feDue s n then [eventOf n .feRetryAttempt] else []
      | .parked _ _ _ _ => if feDue s n then [eventOf n .feRetryAttempt] else []
      | .performs _ => if unperformed s n then [] else [⟨n, 0, .performed, false⟩]
      | .walkFull due => if due ≤ s.cc then [eventOf n .walkQueueRetry] else []
      | .remote due _ => if due ≤ s.tb then [eventOf n .remoteReplyTimeout] else []
      | .monitor dl => if dl ≠ 0 ∧ dl ≤ s.tb then [eventOf n .mwaitDeadline] else []
      | _ => []

/-- The heads and the events of the slots. -/
def slotsHappen (s : State) : List Happening :=
  ((s.slots.map fun p => coreOf p.1).dedup.filterMap fun k => (barrelSlot s k).map (headOfSlot s)) ++
    (s.slots.flatMap fun p => slotHappenings s p.1 p.2) ++
    s.tiles.filterMap fun p => if p.2.upd = 0 then none else some ⟨0, 0, .semTest p.1, false⟩

/-! ## Cores, lanes and engines -/

/-- Activation starts and queue landings of a core. -/
def coreHappen (s : State) (k : Nat) (c : CoreSt) : List Happening :=
  (if (s.launchAt (k / 16)).any (fun l => !tearing s l.ctx) && (selectedChannel s k).isSome && (freeSlot s k).isSome then [event (.activationStart k)] else []) ++
    (List.range 4).filterMap fun q =>
      if ((c.q[q]?).map (·.landing)).getD [] = [] then none else some (eventAt q (.queueEntryLanding k))

/-- Lane pools and special-function units. -/
def lanesHappen (s : State) : List Happening :=
  (s.pools.filterMap fun p => if p.2.reqs = [] && p.2.blocked = [] then none else some (event (.vlpRequestService p.1))) ++
    s.sfus.filterMap fun p => if p.2 = [] then none else some (event (.sfuReturn p.1))

/-- Matrix engines. -/
def tmesHappen (s : State) : List Happening :=
  s.tmes.flatMap fun p =>
    (if (tmeNext p.2).isSome then [event (.tmeOperationStart p.1)] else []) ++
      (if p.2.resume = [] then [] else [⟨0, 0, .tmeReload p.1, false⟩]) ++
      (List.range p.2.ops.length).flatMap fun k =>
        ⟨0, 0, .tmeRead p.1 k, false⟩ ::
          if (p.2.ops[k]?).any (·.started) then [event (.tmeOperationComplete p.1 k), ⟨0, 0, .tmeWork p.1 k, false⟩] else []

/-- Copy engines. -/
def copiesHappen (s : State) : List Happening :=
  s.copies.flatMap fun p =>
    (if (copyNext s p.2).isSome then [event (.copyOperationStart p.1)] else []) ++
      p.2.ops.flatMap fun o =>
        if !o.started || o.wait.awaits s.cc then []
        else if o.pending = [] then [event (.copyOperationComplete p.1 o.id)]
        else o.pending.map fun c => event (.copyChunkLanding p.1 o.id c)

/-- What can happen to a collective that has started: its own contributions, time-outs and its completion. -/
def collHappen (s : State) (e : Nat) (o : CollOp) : List Happening :=
  if o.wait.awaits s.cc then []
  else if o.ended || (List.range o.nch).all o.chunkDone then [event (.collectiveComplete e o.id)]
  else
    (List.range o.nch).flatMap fun c =>
      let p := o.part c
      (if o.ranks.contains o.rank && !p.closed && !p.refused && !(p.got.any fun x => x.1 == o.rank) then
        [event (.collectiveContribution e o.id o.rank c none)] else []) ++
      (if !p.closed && o.late c s.tb then [event (.collectiveChunkTimeout e o.id c)] else [])

/-- Collective engines. -/
def collsHappen (s : State) : List Happening :=
  s.colls.flatMap fun p =>
    (if (collNext s p.1).any fun o => !o.wait.awaits s.cc then [event (.collectiveStart p.1)] else []) ++
      (p.2.filter (·.started)).flatMap (collHappen s p.1)

/-- The prefetches of a cluster, but for lines whose page is being walked (R320, R330). -/
def prefetchesHappen (s : State) (cl : Nat) (c : Cluster) : List Happening :=
  (List.range c.fetches.length).filterMap fun k =>
    if (c.fetches[k]?).any fun f => pageWalked s cl f.2.1 then none else some ⟨0, 0, .prefetch cl k, false⟩

/-- Clusters and dies: the zeroing of blocks, invalidations, prefetches, walks and range units. -/
def clustersHappen (s : State) : List Happening :=
  (s.clusters.flatMap fun p =>
    (if p.2.zeroing = [] then [] else [event (.cspBlockZeroed p.1)]) ++ (if p.2.iinvs = [] then [] else [event (.iinvComplete p.1)]) ++
      prefetchesHappen s p.1 p.2) ++
  s.dies.flatMap fun p =>
    (if p.2.walks = [] then [] else [event (.tableWalk p.1)]) ++ (if p.2.ranges = [] then [] else [event (.rangeUnitService p.1)])

/-- Home slices. -/
def slicesHappen (s : State) : List Happening :=
  s.slices.flatMap fun p =>
    (List.range (servable s p.1).length).map (fun k => eventAt k (.l2RequestService p.1)) ++
      (List.range p.2.refused.length).map (fun k => event (.l2WriteReplay p.1 k)) ++
      (if p.2.wbuf = [] then [] else [event (.writeBackBufferDrain p.1)]) ++
      (List.range p.2.fills.length).map fun k => event (.l2FillReturn p.1 k)

/-- Writes to other modules, and error entries that are owed. -/
def awayHappen (s : State) : List Happening :=
  ((List.range s.away.length).flatMap fun k =>
    ⟨0, 0, .away k false, false⟩ :: if (s.away[k]?).any fun w => decide (w.due ≤ s.tb) then [⟨0, 0, .away k true, false⟩] else []) ++
    if s.owed = [] ∨ planeBusy s then [] else [⟨0, 0, .owed, false⟩]

/-! ## Messages -/

/-- The event that a message in flight is. -/
def arrivalOf : Flight → Instr
  | .user _ _ _ _ _ _ => .messageArrival
  | .back _ _ _ => .returnedMessage
  | .ack _ _ => .acknowledgementArrival
  | .engine _ _ _ _ _ _ => .messageArrival
  | .start _ _ _ => .messageArrival
  | .store _ _ _ _ _ _ _ => .remoteStoreArrival
  | .storeAck _ _ _ => .acknowledgementArrival
  | .storeRefused _ _ _ _ => .journalRefusal
  | .late _ _ _ _ _ => .journalRefusal
  | .load _ _ _ _ _ _ => .remoteLoadService
  | .loadReply _ _ _ _ => .remoteLoadReply
  | .credit _ _ _ => .driftCreditArrival
  | .cfree _ _ _ _ _ => .cfreeArrival

/-- Messages in flight. -/
def netHappens (s : State) : List Happening := s.net.map fun p => eventAt p.1 (arrivalOf p.2)

/-! ## The control plane -/

/-- What the queue manager may do with the entry at the head of a mapped stream. -/
def entryHappen (s : State) (n : Nat) (m : MStream) (e : Entry) : List Happening :=
  if e.kind = 2 then
    (if m.blocked.isNone || !semMine s n e.sem || decide (e.value ≤ streamSem s e.sem) then [eventAt n .streamWaitEntry] else []) ++
      (if m.blocked.any fun b => decide (b + 50000 ≤ s.tb) then [eventAt n .inheritanceSearch] else [])
  else if e.kind = 3 then [eventAt n .streamSignalEntry]
  else [eventAt n .launchCheck]

/-- What the queue manager may do with a mapped stream. -/
def streamHappen (s : State) (n : Nat) : List Happening :=
  match headEntry s n with
  | .none => []
  | .entry t m e => entryHappen t n m e
  | .unreadable _ => [eventAt n .launchCheck]
  | .later _ => [eventAt n .launchCheck]

/-- What the queue manager may do with a launch. -/
def launchHappen (s : State) (u : Nat) (l : Launch) : List Happening :=
  (if (if l.out then l.jobDone && l.cancelled else launchDone s l && !(l.record.rtc && l.jobDone && !l.cancelled)) then
    [eventAt u .launchEnd] else []) ++
  (if l.record.rtc && !(l.cancelled && l.jobDone) && decide (l.r0 + l.rel * l.record.contract.period ≤ s.tb) then [eventAt u .contractJobRelease] else []) ++
  (if l.record.rtc && !l.out && !l.jobDone && settled s l && decide (l.record.contract.budget ≤ l.used + (s.tb - l.since)) then
    [eventAt u .contractBudgetOverrun] else []) ++
  (if leaves s u l then [eventAt u .gangSwitchOut] else []) ++ (if enters s u l then [eventAt u .gangSwitchIn] else [])

/-- Streams, launches and teardowns: the queue manager goes on once its own writes are performed. -/
def queueHappens (s : State) : List Happening :=
  if planeBusy s then [] else
  s.qm.streams.flatMap (fun p => streamHappen s p.1) ++
    (if s.qm.subs = [] then [] else [event .streamMapping]) ++
    (if s.qm.streams = [] then [] else (nextLaunch s).toList.map fun q => eventAt q.1 .launchStart) ++
    s.launches.flatMap (fun p => launchHappen s p.1 p.2) ++
    s.tear.map fun p => eventAt p.1 .teardownStep

/-- The command of an OP (Table 20.2). -/
def commandOf : Nat → Instr
  | 1 => .ctxnew
  | 2 => .strnew
  | 3 => .strrst
  | 4 => .append
  | 5 => .semset
  | 6 => .cancel
  | 7 => .teardown
  | 8 => .keyload
  | 9 => .attest
  | _ => .fwupd

/-- Host commands. -/
def commandsHappen (s : State) : List Happening :=
  (if planeBusy s then [] else s.qm.cmds.head?.toList.map fun q => event (commandOf (opOf q.2))) ++
    (if (late? s 9).isSome then [event .attestCompletion] else []) ++ (if (late? s 10).isSome then [event .fwupdCompletion] else [])

/-- Frame encoders, and the watch over the synchronisation of the time base. -/
def encodersHappen (s : State) : List Happening :=
  (s.encs.flatMap fun p =>
    (if planeBusy s then [] else (encNext s p.1).toList.map fun e => event (.encoderFrame p.1 e)) ++
      (if p.2.stale && !p.2.streams.any (fun q => q.2.pend.isSome) then [⟨0, 0, .encTable p.1, false⟩] else []) ++
      p.2.streams.filterMap fun q => q.2.pend.bind fun u => if u.due ≤ s.tb then some (event (.encoderRdPoll p.1 q.1)) else none) ++
  (if s.tbLock && !s.tbMaster && decide (s.mgmt.lastSync + 1000000 ≤ s.tb) then [event .timeSyncLoss] else [])

/-! ## The world outside -/

/-- An event that comes from outside the module: the host, the management port, the sensors, the fabric and its other modules. -/
def external : Instr → Bool
  | .collectiveContribution _ _ _ _ (some _) => true
  | .hostCxlMemAccess _ _ _ | .timeSyncMessage _ | .fabricTraining _ | .recoveryImageI3c _ | .rcvlenWrite _ => true
  | .hctailWrite _ | .hcrsizeWrite _ | .hcrbaseWrite _ | .pcapWrite _ | .hostRegisterWrite _ _ _ | .powerSample _ _ => true
  | .backInvalidateSnoopResponse _ | .keyTransportKeyProvisioning _ | .cxlLinkTraining _ | .moduleReset => true
  | _ => false

/-- The next event from outside. -/
def inputsHappen (s : State) : List Happening := s.inputs.head?.toList.map fun i => ⟨0, 0, .run i, true⟩

/-! ## The choice -/

/-- Everything that can happen next. -/
def happenings (s : State) : List Happening :=
  if !s.booted then [event .moduleReset]
  else
    inputsHappen s ++ slotsHappen s ++ s.cores.flatMap (fun p => coreHappen s p.1 p.2) ++ lanesHappen s ++ tmesHappen s ++ copiesHappen s ++
      collsHappen s ++ clustersHappen s ++ slicesHappen s ++ awayHappen s ++ netHappens s ++ queueHappens s ++ commandsHappen s ++ encodersHappen s

/-- The happening that is next, if there is one; where there are several, the choice is free. -/
def chosen (s : State) : Option Happening × State :=
  match happenings s with
  | [] => (none, s)
  | [h] => (some h, s)
  | hs => (hs[Config.pick s.free % hs.length]?, s.draw)

/-- A semaphore file has been updated in the current cycle, which is not over (R248). -/
def updating (s : State) : Bool := s.tiles.any fun p => p.2.upd != 0

/-- Time passes with every step, but the cycle is not over while the updates of a semaphore file are not (R248, log entry 6). -/
def tick (s : State) : State :=
  { s with cc := if updating s then s.cc else s.cc + 1 + Config.tickCc s.free, tb := s.tb + Config.tickNs s.free, free := s.free + 1 }

/-- The state in which a happening takes place. -/
def arranged (s : State) (h : Happening) : State :=
  { s with cur := h.cur, sel := h.sel, inputs := if h.ext then s.inputs.drop 1 else s.inputs }

end Sys2Proof.Machine
end

