-- ==== Sys2Proof/Machine/Step.lean ====
section
/-!
DEFINITION. One step of the module.
-/

namespace Sys2Proof.Machine

/-- A happening in its state; what comes from outside is an event from outside, or nothing. -/
def perform (s : State) (h : Happening) : Host.Outcome State Fault Refusal :=
  match h.act with
  | .run i => if h.ext && !external i then .next s else proceed s h
  | _ => proceed s h

/-- One step: one thing that can happen happens, or only time passes. After a thermal trip nothing but a module reset follows (R504). -/
def step (s : State) : Host.Outcome State Fault Refusal :=
  if s.hib.trip then
    match s.inputs with
    | [] => .fault .coreRailsRemoved
    | .moduleReset :: r => exec .moduleReset { s with inputs := r }
    | _ :: r => .next { s with inputs := r }
  else
    let c := chosen s
    match c.1 with
    | none => .next (tick c.2)
    | some h => perform (arranged (tick c.2) h) h

/-- The slot of `withFetchWord`: slot 0 of the compute core of tile 0, privileged, at head 0 of a line that holds one instruction. -/
def fetchSlot (h : Parcel) (ts : List Parcel) : Slot :=
  { Slot.init with chan := some 0, priv := true, pc := 0x20000000000#64, line := packLine [h :: ts] }

/-- An instruction as the next one that a step issues: the boot is over, and slot 4 (core 1 of cluster 0) holds the instruction's line at
its PC, as after a fetch (R62); it stands for the launch of a program (log entry 9). -/
def State.withFetchWord (s : State) (nbits w : Nat) : State :=
  let p := tableParcels nbits w
  { s with booted := true, slots := tset s.slots 4 (fetchSlot p.1 p.2) }

end Sys2Proof.Machine
end

