-- ==== Sys2Proof/Safety.lean ====
section
/-!
DEFINITION. The terms in which claims speak of a run: the end of a head, the states in which a head retires without a trap, what a head leaves
alone, and the canonical form of memory.
-/

namespace Sys2Proof.Machine

/-! ## Invariants -/

/-- The memory is in its canonical form: keys strictly rising, no zero byte listed. -/
def State.memOk (s : State) : Bool := s.mem.wf

/-- A ring header whose counts and pointers agree (R259): FILLED slots lie from TAKE to PUB, FREE slots from REL to ACQ, and the bits of PBIT and RBIT name
acquired and taken slots only. -/
def Ring.consistent (r : Ring) : Bool :=
  r.ok && (r.pub + r.nslot - r.take) % r.nslot == r.filled % r.nslot && (r.rel + r.nslot - r.acq) % r.nslot == r.free % r.nslot &&
    decide (r.pbit < 2 ^ 256) && decide (r.rbit < 2 ^ 256) &&
    (List.range 256).all fun x =>
      (!r.pbit.testBit x || (decide (x < r.nslot) && decide ((x + r.nslot - r.pub) % r.nslot < r.na))) &&
        (!r.rbit.testBit x || (decide (x < r.nslot) && decide ((x + r.nslot - r.rel) % r.nslot < r.nt)))

/-- The sectors of a home slice add up (R303): the free ones, the reserve of 16 at most and those of the resident lines are the 16,384 of the slice, and no line is
resident twice. -/
def Slice.accounts (c : Slice) : Prop :=
  c.freeSec + c.reserve + (c.lines.map fun l => nsecOf l.hdr).sum = 16384 ∧ c.reserve ≤ 16 ∧ (c.lines.map fun l => l.la).Nodup

/-! ## Rounding -/

/-- A mode rounds a value of a sign away from zero (R37). -/
def roundsAway (rm : Rm) (neg : Bool) : Bool := (rm == .rup && !neg) || (rm == .rdn && neg)

/-- `r` × 2^q is the magnitude m × 2^e of a value of a sign, rounded once to a multiple of 2^q (R37): the nearest, and of two equally near ones the even one; or the next one
away from zero; or the next one toward zero. -/
def Rounds (rm : Rm) (neg : Bool) (m : Nat) (e q : Int) (r : Nat) : Prop :=
  (q ≤ e → r = m * 2 ^ (e - q).toNat) ∧
  (e < q → let u := 2 ^ (q - e).toNat;
    (rm = .rne → 2 * m ≤ (2 * r + 1) * u ∧ 2 * r * u ≤ 2 * m + u ∧ (2 * m = (2 * r + 1) * u ∨ 2 * r * u = 2 * m + u → r % 2 = 0)) ∧
    (rm ≠ .rne → roundsAway rm neg = true → m ≤ r * u ∧ r * u < m + u) ∧
    (rm ≠ .rne → roundsAway rm neg = false → r * u ≤ m ∧ m < r * u + u))

/-- m × 2^e is not a multiple of 2^q. -/
def Inexact (m : Nat) (e q : Int) : Prop := e < q ∧ m % 2 ^ (q - e).toNat ≠ 0

/-! ## What an instruction writes -/

/-- The scalar instructions that write registers and guards only (05 R138 to R144, R150): the registers and the guards that each writes. -/
def regDest : Instr → Option (List Reg × List (Fin 8))
  | .add _ d _ _ | .sub _ d _ _ | .and _ d _ _ | .or _ d _ _ | .xor _ d _ _ | .andn _ d _ _ | .orn _ d _ _ | .mov _ d _ => some ([d], [])
  | .mul _ d _ _ | .mulh _ d _ _ | .mulhn _ d _ _ | .sel _ d _ _ | .div _ d _ _ | .divn _ d _ _ | .rem _ d _ _ | .remn _ d _ _ => some ([d], [])
  | .shl _ d _ _ | .shr _ d _ _ | .sar _ d _ _ | .rotl _ d _ _ | .min _ d _ _ | .max _ d _ _ | .minn _ d _ _ | .maxn _ d _ _ => some ([d], [])
  | .addi _ d _ _ | .shli _ d _ _ | .shri _ d _ _ | .sari _ d _ _ | .addpc _ d _ | .lui _ d _ | .lim _ d _ | .jlr _ d _ => some ([d], [])
  | .clz _ d _ | .ctz _ d _ | .popc _ d _ | .bswap _ d _ | .sext _ d _ _ | .zext _ d _ _ => some ([d], [])
  | .ext _ d _ _ _ | .extn _ d _ _ _ | .ins _ d _ _ _ => some ([d], [])
  | .cmp _ j _ _ _ | .cmpi _ j _ _ _ => some ([], [Fin.ofNat 8 (2 * j.val), Fin.ofNat 8 (2 * j.val + 1)])
  | .gop _ _ gd _ _ _ _ => some ([], [gd])
  | .nop _ | .br _ _ => some ([], [])
  | .jl _ _ => some ([31], [])
  | _ => none

/-! ## Guards, modes and roles -/

/-- The heads whose GI names a guard and that act by themselves (R74): the guard, and the wait and signal parcels. The heads of chapter 7 whose GI names a
mask, and `hret` and `falign`, with which the `falign` of other slots may be met, are not among them. -/
def guardOf : Instr → Option (Guard × Option Eng)
  | .hpost g _ _ _ _ | .harm g _ _ _ _ _ | .hen g _ _ _ _ | .hdis g _ _ _ _ | .hpclr g _ _ _ _ | .hprio g _ _ _
  | .tsread g _ | .dsync g _ _ | .rtake g _ _ _ | .lnch g _ _ _ | .add g _ _ _ | .sub g _ _ _ | .and g _ _ _
  | .or g _ _ _ | .xor g _ _ _ | .andn g _ _ _ | .orn g _ _ _ | .mov g _ _ | .mul g _ _ _ | .mulh g _ _ _
  | .mulhn g _ _ _ | .sel g _ _ _ | .div g _ _ _ | .divn g _ _ _ => some (g, none)
  | .rem g _ _ _ | .remn g _ _ _ | .shl g _ _ _ | .shr g _ _ _ | .sar g _ _ _ | .rotl g _ _ _ | .min g _ _ _
  | .max g _ _ _ | .minn g _ _ _ | .maxn g _ _ _ | .addi g _ _ _ | .shli g _ _ _ | .shri g _ _ _ | .sari g _ _ _
  | .addpc g _ _ | .lui g _ _ | .lim g _ _ | .cmpi g _ _ _ _ | .clz g _ _ | .ctz g _ _ | .popc g _ _ | .bswap g _ _
  | .ext g _ _ _ _ | .extn g _ _ _ _ => some (g, none)
  | .ins g _ _ _ _ | .sext g _ _ _ | .zext g _ _ _ | .cmp g _ _ _ _ | .gop g _ _ _ _ _ _ | .nop g | .br g _ | .jl g _
  | .jlr g _ _ | .trap g _ | .lpset g _ _ | .lpsetr g _ _ | .lpbrk g | .eret g | .csrr g _ _ | .csrw g _ _ _
  | .csrs g _ _ _ | .csrc g _ _ _ | .fpstatAccess g _ _ _ | .qportRead g _ _ | .qportWrite g _ _ _ | .lhstRet g _ _ _
  | .ldx g _ _ _ _ | .stx g _ _ _ _ => some (g, none)
  | .amo g _ _ _ _ _ _ _ | .amocas g _ _ _ _ _ | .ldfe g _ _ _ _ | .stfe g _ _ _ _ | .ldff g _ _ _ _
  | .ldre g _ _ _ _ | .stsf g _ _ _ _ | .mon g _ | .mwait g _ _ | .fence g _ _ | .spal g _ _ _ _ _ | .spfr g _ _
  | .fecl g _ _ _ | .vclaim g _ _ _ _ | .vrel g | .vreneg g _ _ _ | .mcfg g _ _ _ _ _ | .sset g _ _ _ | .srd g _ _
  | .qctl g _ _ | .qstat g _ _ | .qdir g _ _ _ _ | .qflush g _ | .rbinit g _ _ _ _ => some (g, none)
  | .rbacq g _ _ _ _ | .rbpub g _ _ _ | .rbtake g _ _ _ _ | .rbrel g _ _ _ | .stacq g _ _ _ _ | .strel g _ _ _
  | .sopen g _ _ _ _ | .snext g _ _ | .sisect g _ _ _ | .sunion g _ _ _ | .sskip g _ _ _ | .scrd g _ _ _
  | .sval g _ _ _ | .sdone g _ _ | .ssave g _ _ | .srest g _ _ | .sclose g _ | .cwb g _ _ | .cinv g _ _ | .cwbi g _ _
  | .iinv g _ _ | .ibar g | .l2pf g _ _ _ | .l2zero g _ => some (g, none)
  | .gbind g _ _ _ _ _ _ _ _ | .gunb g _ _ | .gstat g _ _ | .tlbinv g _ _ _ | .ctab g _ _ _ _ | .cfree g _ _
  | .tbinit g _ _ | .tbarr g _ _ | .tbexp g _ _ _ _ | .tbwait g _ _ _ | .tbtest g _ _ _ | .tbguard g _ _ _
  | .msend g _ _ _ _ _ _ | .mrecv g _ _ _ | .mpeek g _ _ | .rst g _ _ _ _ _ | .rld g _ _ _ _ _ | .jread g _ _ _
  | .jack g _ _ | .nfence g _ _ | .coll g _ _ _ _ _ _ _ _ _ | .enctabWrite g _ _ _ | .brk g _ | .dbgctlStat g _ => some (g, none)
  | .dbgctlHalt g _ | .dbgctlRun g _ | .dbgctlKill g _ _ | .dbgctlSettle g _ => some (g, none)
  | .ld g _ _ _ _ eng | .ldn g _ _ _ _ eng | .st g _ _ _ _ eng => some (g, eng)
  | .ldxSync g _ _ _ _ eng | .stxSync g _ _ _ _ eng | .mlw g _ _ _ eng | .mrun g _ _ _ _ eng | .mrunq g _ _ _ _ eng
  | .mdrain g _ _ _ _ _ _ eng | .mdrs g _ _ _ _ _ _ eng | .mclr g _ eng | .mswap g _ _ eng | .mpass g _ _ _ _ _ eng
  | .msave g _ _ eng | .mrest g _ _ eng | .cpush g _ _ _ _ _ _ _ eng | .cslab g _ _ _ _ _ _ _ _ eng
  | .cmcast g _ _ _ _ _ _ eng | .cthr g _ _ _ _ _ _ _ _ _ _ eng | .cconv g _ _ _ _ _ _ eng => some (g, some eng)
  | .swt g i t => some (g, some ⟨i, t, 0, 0⟩)
  | .ssig g j n => some (g, some ⟨0, 0, j, n⟩)
  | _ => none

/-- The mask-guarded heads of chapter 7 but for `vred` (R192, R194): the guard, the vector registers that the head reads, its parcels, and the scalar register that
names a lane. -/
def laneForm : Instr → Option (Guard × List Reg × Option Eng × Option Reg)
  | .vadd g _ _ _ a b _ | .vsub g _ _ _ a b _ | .vmul g _ _ _ a b _ => some (g, [a, b], none, none)
  | .vfma g _ _ _ a b c _ | .vfms g _ _ _ a b c _ | .vclamp g _ _ a b c => some (g, [a, b, c], none, none)
  | .vmin g _ _ a b | .vmax g _ _ a b | .vand g _ _ a b | .vor g _ _ a b | .vxor g _ _ a b => some (g, [a, b], none, none)
  | .vcmp g _ _ a b _ | .vsel g _ _ a b _ | .vtern g _ _ a b _ => some (g, [a, b], none, none)
  | .vshl g _ _ a b imm _ | .vshr g _ _ a b imm _ | .vsar g _ _ a b imm _ => some (g, a :: if imm then [] else [b], none, none)
  | .vabs g _ _ a _ | .vchs g _ _ a _ | .vcvt g _ _ _ a _ _ | .vmxq g _ _ a | .sfn g _ a _ _ _ => some (g, [a], none, none)
  | .vmxd g _ _ _ a => some (g, [a, a + 1], none, none)
  | .vsplat g _ _ _ => some (g, [], none, none)
  | .vmov g _ _ a form => some (g, if form.getLsbD 0 then [] else [a], none, none)
  | .vext g _ _ a b => some (g, [a], none, some b)
  | .vins g _ _ _ b => some (g, [], none, some b)
  | .vld g _ _ _ _ e | .vlds g _ _ _ _ _ e => some (g, [], e, none)
  | .vst g _ d _ _ e | .vsts g _ d _ _ _ e => some (g, [d], e, none)
  | _ => none

/-- The privileged forms (R73): those that R146, R128, R346 and chapter 16 call privileged. -/
def privForm : Instr → Bool
  | .eret _ | .tlbinv _ _ _ _ | .enctabWrite _ _ _ _ => true
  | .dbgctlStat _ _ | .dbgctlHalt _ _ | .dbgctlRun _ _ | .dbgctlKill _ _ _ | .dbgctlSettle _ _ => true
  | .csrr _ _ n => csrHidden n.toNat
  | .csrw _ _ _ n | .csrs _ _ _ n | .csrc _ _ _ n => csrHidden n.toNat || n.toNat == 0x002 || n.toNat == 0x1E3
  | _ => false

/-- The matrix forms (R73): every instruction of chapter 8. -/
def matrixForm : Instr → Bool
  | .mlw _ _ _ _ _ | .mrun _ _ _ _ _ _ | .mrunq _ _ _ _ _ _ | .mdrain _ _ _ _ _ _ _ _ | .mdrs _ _ _ _ _ _ _ _ => true
  | .mclr _ _ _ | .mswap _ _ _ _ | .mpass _ _ _ _ _ _ _ | .mcfg _ _ _ _ _ _ | .msave _ _ _ _ | .mrest _ _ _ _ => true
  | _ => false

/-- Orders 7 and 8 of Table 3.7 let the head issue: its mode and its role. -/
def permitted (s : State) (i : Instr) : Prop := (privForm i = true → s.sl.priv = true) ∧ (matrixForm i = true → isCompute s.myCore = true)

/-! ## The end of a head -/

/-- The state after the head at the PC of the executing slot has retired, its body having made `t` of `s`: the barrel moves, the end check
chooses the next PC, and a trap that is due between the two heads is taken (R64, R103, R133, R461). -/
def ended (s t : State) (nx : Next) : State := finish (barrelMoved t) s.cur nx (stepping s s.cur) none

/-- As `ended`, with a trap that the head raises after it has retired (R145, R470). -/
def endedTrap (s t : State) (x : Trap) : State := finish (barrelMoved t) s.cur .seq (stepping s s.cur) (some x)

/-- The state after a head has blocked, or waits for an event that completes it. -/
def blocked (t : State) (w : Wait) : State := (if w.issued then barrelMoved t else t).setSl { t.sl with wait := w }

/-- No trap is due when the head of the executing slot retires: no held refusal, no single step, and no end head that is being skipped. -/
def Quiet (s : State) : Prop := refusalDue s s.cur = none ∧ stepping s s.cur = false ∧ s.sl.skip = false

/-- The executing slot after its head has retired without a trap. -/
def retiredSlot (l : Slot) (nx : Next) : Slot := { (advance l nx).begun with last := l.pc }

/-- The state in which the body of a head with wait parcel `e` runs. -/
def issuedAt (s : State) (e : Eng) : State := (waitParcel s e).1

/-- The wait parcel of a head is met, if it has one (R247, R248). -/
def waitMet (s : State) (e : Option Eng) : Prop := ∀ x, e = some x → (waitParcel s x).2 = true

/-- The state in which the body of a head runs: the threshold of its wait parcel, if it has one, has been taken. -/
def bodyState (s : State) : Option Eng → State
  | none => s
  | some e => issuedAt s e

end Sys2Proof.Machine
end

