-- ==== Sys2Proof/Certificates/Slice0/Obligations.lean ====
section
/-!
DEFINITION. The statements for the provers. A statement about an instruction holds for every form that the spec gives it; `ended s t nx` is the state
after the head of the executing slot has retired, its body having left `t` (Safety.lean), and the statements on retirement say what that changes.
-/

open Sys2Proof Sys2Proof.Machine

/-- R59 to R82: what the words of a well-formed instruction decode to is that instruction, for every instruction that has words and every value
of its operands. -/
def Obligations.DecodeOfEncode : Prop :=
  ∀ i : Instr, i.wf = true → ∀ h t, encode i = h :: t → decodeParcels h t = .ok i

/-- Words that the spec writes out in its worked encodings, chapter by chapter, decode to the instructions that they stand for; a head of the reserved
majors and a wrong tail length are refused. -/
def Obligations.WordsOfTheTables : Prop :=
  let g : Guard := ⟨0, false⟩
  (decodeParcels 0x020B [0x2000, 0x004C] = .ok (.hen g 4 0 true 12) ∧
    decodeParcels 0x1408 [0x18C0, 0x0001] = .ok (.addi g 3 3 1) ∧
    decodeParcels 0x1C05 [0x090A] = .ok (.cmp g 1 4 5 false) ∧
    decodeParcels 0x1C06 [0x6086] = .ok (.gop g .or 4 false 2 false 3) ∧
    decodeParcels 0x240B [0x49C0, 0x0018] = .ok (.ld g .d 9 7 24 none) ∧
    decodeParcels 0x3008 [0x1D08, 0x0010] = .ok (.ldfe g 3 20 4 16) ∧
    decodeParcels 0x3408 [0x38C0, 0x0005] = .ok (.spal g 7 3 5 0 0)) ∧
  (decodeParcels 0x3608 [0x1140, 0x0280] = .ok (.vclaim g 2 5 true 128) ∧
    decodeParcels 0x400B [0x0844, 0x0000] = .ok (.vcmp g .f32 1 1 2 .set) ∧
    decodeParcels 0x360B [0x3180, 0x0003] = .ok (.sfn g 6 6 .rsqrt .f32 .rne) ∧
    decodeParcels 0x4C08 [0x0000, 0xFB01] = .ok (.mcfg g 0 true false false 0x3EC) ∧
    decodeParcels 0x2208 [0x1800, 0x0109] = .ok (.qportRead g 3 1) ∧
    decodeParcels 0x5209 [0x3080, 0x0203] = .ok (.rbacq g 6 2 3 true) ∧
    decodeParcels 0x5606 [0x1802] = .ok (.sisect g 3 0 1)) ∧
  (decodeParcels 0x5C04 [0x010C] = .ok (.cwb g 4 6) ∧
    decodeParcels 0x600C [0x390A, 0x0354, 0x0000] = .ok (.gbind g 7 4 5 4 2 false true 3) ∧
    decodeParcels 0x6409 [0x01C0, 0x0002] = .ok (.ctab g 0 7 2 0) ∧
    decodeParcels 0x6216 [0x4254, 0x0005, 0x0040, 0x1503, 0x1401] =
      .ok (.cmcast g 8 9 10 0x0005 ⟨0, false, true, false, 0⟩ false ⟨0x15, 0x03, 0x14, 0x01⟩) ∧
    decodeParcels 0x6E0C [0x214C, 0x3A00, 0x0000] = .ok (.coll g 4 5 6 7 8 .allReduce .f32 .add .rne) ∧
    decodeParcels 0x7004 [0x0007] = .ok (.brk g 7)) ∧
  decodeParcels 0x7200 [] = .unassigned ∧ decodeParcels 0x1404 [0x18C0] = .badLength ∧ decodeParcels 0x1408 [0x18C1, 0x0001] = .illegal

/-- A step runs the instruction that the decoder reads at the PC of the slot whose turn it is: that head is among what can happen, and where it is chosen the
step is `exec` of it, in the state in which the clocks have moved and the slot is the executing one. -/
def Obligations.StepRunsDecodedHead : Prop :=
  ∀ (s : State) (n : Nat) (h : Parcel) (t : List Parcel) (i : Instr),
    s.hib.trip = false → s.booted = true → barrelSlot s (coreOf n) = some n → (∃ p ∈ s.slots, coreOf p.1 = coreOf n) →
    headAt (s.slot n) = some (decodeParcels h t) → decodeParcels h t = .ok i →
    headOfSlot s n ∈ happenings s ∧
    ((chosen s).1 = some (headOfSlot s n) → step s = exec i (arranged (tick (chosen s).2) (headOfSlot s n))) ∧
    (arranged (tick (chosen s).2) (headOfSlot s n)).cur = n ∧
    (happenings s = [headOfSlot s n] → step s = exec i { tick s with cur := n, sel := 0 })

/-- R62, R63, R314, R72: an empty slot image is fetched through the instruction cache of the cluster. A line whose directory is well formed and whose head is at the PC is
held, and the slot is ready; a malformed line, and a PC that names no head of it, trap with malformed line; a line that the cache holds is not read again; an
unassigned head traps with illegal instruction and the head in INFO. A head that the decoder refuses traps when it is executed, and nothing else happens: an unassigned head with illegal instruction and the head in
INFO, a wrong tail length with malformed line and code 1, an operand that is not permitted with illegal instruction. -/
def Obligations.FetchOfLinesAndRefusedHeads : Prop :=
  (∀ (s : State) (c : Nat), s.sl.chan = some c → s.sl.line = [] →
    let pc := s.sl.pc;
    (∀ (t : State) (bs : List Byte) (hs : List (Parcel × List Parcel)),
      fetchImage s s.cur pc = .ok t bs → decodeLine (parcelsOf bs) = .heads hs →
        (pc.toNat % 2 = 0 → pc.toNat / 2 % 32 < hs.length → t.sl.skip = false →
          exec .fetchLine s = .next (t.setSl { t.sl with line := parcelsOf bs, wait := .none })) ∧
        (pc.toNat % 2 = 1 ∨ hs.length ≤ pc.toNat / 2 % 32 → exec .fetchLine s = .next (headTrap t t.cur (trapI 2 4 0)))) ∧
    (∀ (t : State) (bs : List Byte) (x : Nat), fetchImage s s.cur pc = .ok t bs → decodeLine (parcelsOf bs) = .fault x →
      exec .fetchLine s = .next (headTrap t t.cur (trapI 2 x 0))) ∧
    (∀ (t : State) (x : Trap), fetchImage s s.cur pc = .trap t x → exec .fetchLine s = .next (headTrap t t.cur x)) ∧
    (∀ (m pa key : Nat) (va : Word) (l : ILine),
      (s.cluster (clusterOf m)).icache.find? (fun l => l.la == pa / 64) = some l → icacheLine s m va pa key = .ok s l.data) ∧
    (∀ h : Parcel, exec (.unassignedOpcode h) s = .next (headTrap (barrelMoved s) s.cur (trapI 1 0 h.toNat)))) ∧
  (∀ (s : State) (h : Parcel) (t : List Parcel) (r : List (Parcel × List Parcel)),
    decodeLine s.sl.line = .heads r → r[s.sl.pc.toNat / 2 % 32]? = some (h, t) →
    s.sl.line.getD (s.sl.pc.toNat / 2 % 32) 0 = h →
    (decodeParcels h t = .unassigned →
      perform s (headOfSlot s s.cur) = .next (headTrap (barrelMoved s) s.cur (trapI 1 0 h.toNat))) ∧
    (decodeParcels h t = .illegal →
      perform s (headOfSlot s s.cur) = .next (headTrap (barrelMoved s) s.cur (trapI 1 0 h.toNat))) ∧
    (decodeParcels h t = .badLength →
      perform s (headOfSlot s s.cur) = .next (headTrap (barrelMoved s) s.cur (trapI 2 1 0))))

/-- R64, R103, R461: where no trap is due, the retirement of a head changes the slot's PC, line, loop counts and wait, and the barrel pointer of its core;
everything else, all of memory among it, stays as the body left it. R64: after a head that transfers no control and ends no loop the next PC is the next head of the line that is held, and after the last head it is head 0
of the next line, which is fetched. R133: the end check. At the end head of the inner loop the count goes down and the slot loops back, or the loop ends; then the outer loop is checked, and its
check ends the inner one. A slot in a trap handler or a light handler makes no end check. -/
def Obligations.RetirementOfHeads : Prop :=
  (∀ (s t : State) (nx : Next), t.cur = s.cur → refusalDue t t.cur = none → stepping s s.cur = false → (advance t.sl nx).skip = false →
    let u := ended s t nx
    u.sl = retiredSlot t.sl nx ∧
    (∀ n, n ≠ t.cur → u.slot n = t.slot n) ∧
    u.core t.myCore = { t.core t.myCore with ptr := (t.cur + 1) % 4 } ∧
    (∀ k, k ≠ t.myCore → u.core k = t.core k) ∧
    { u with slots := t.slots, cores := t.cores } = t ∧
    (retiredSlot t.sl nx).s = t.sl.s ∧ (retiredSlot t.sl nx).g = t.sl.g ∧ (retiredSlot t.sl nx).fpstat = t.sl.fpstat) ∧
  (∀ (l : Slot), l.intrap = false → l.lhact = false → (l.lai && l.lei == l.pc) = false → (l.lao && l.leo == l.pc) = false →
    (l.pc.toNat / 2 % 32 + 1 < lineH l.line → (retiredSlot l .seq).pc = l.pc + 2 ∧ (retiredSlot l .seq).line = l.line) ∧
    (lineH l.line ≤ l.pc.toNat / 2 % 32 + 1 →
      (retiredSlot l .seq).pc = BitVec.ofNat 64 ((l.pc.toNat / 64 + 1) * 64) ∧ (retiredSlot l .seq).line = []) ∧
    ∀ p, (retiredSlot l (.jump p)).pc = p ∧ (retiredSlot l (.jump p)).line = []) ∧
  (∀ (l : Slot),
    (l.intrap = false → l.lhact = false → l.lai = true → l.lei = l.pc → 1 < l.lci.toNat →
      (advance l .seq).lci = l.lci - 1 ∧ (advance l .seq).pc = l.lbi ∧ (advance l .seq).lai = true ∧ (advance l .seq).lco = l.lco) ∧
    (l.intrap = false → l.lhact = false → (l.lai = true → l.lei = l.pc → l.lci.toNat ≤ 1) → l.lao = true → l.leo = l.pc → 1 < l.lco.toNat →
      (advance l .seq).lco = l.lco - 1 ∧ (advance l .seq).pc = l.lbo ∧ (advance l .seq).lai = false ∧ (advance l .seq).lao = true) ∧
    (l.intrap = false → l.lhact = false → (l.lai = true → l.lei = l.pc → l.lci.toNat ≤ 1) → l.lao = true → l.leo = l.pc → l.lco.toNat ≤ 1 →
      (advance l .seq).lco = 0 ∧ (advance l .seq).lao = false ∧ (advance l .seq).lai = false ∧
      (advance l .seq).pc = (successor l.line l.pc).1) ∧
    (l.intrap = false → l.lhact = false → l.lai = true → l.lei = l.pc → l.lci.toNat ≤ 1 → ¬(l.lao = true ∧ l.leo = l.pc) →
      (advance l .seq).lci = 0 ∧ (advance l .seq).lai = false ∧ (advance l .seq).lao = l.lao ∧
      (advance l .seq).pc = (successor l.line l.pc).1) ∧
    (l.intrap = true ∨ l.lhact = true →
      (advance l .seq).pc = (successor l.line l.pc).1 ∧ (advance l .seq).lci = l.lci ∧ (advance l .seq).lco = l.lco ∧
      (advance l .seq).lai = l.lai ∧ (advance l .seq).lao = l.lao))

/-- R132, R330, R459, R460, R462: taking a trap. Before it the descriptor of the context is read at its home slice, the stores of the slot are performed, a slot in `tbwait` leaves its
barrier, and what the head has begun is dropped. Where the slot is not in a handler, the context has a handler and the record can be written, EPC, ECAUSE, EADDR and the
modes are saved, the slot is privileged at TVEC + 64 CAUSE and fetches there, and its registers, guards, flags and loops stay; where the record waits for a table walk, the trap goes on
after it; otherwise the fault is fatal: the slot stops and the teardown of its context begins. -/
def Obligations.TrapEntryOfSlot : Prop :=
  (∀ (s : State) (n : Nat) (t : Trap) (fpc epc : Word),
    let b := leaveBarrier (storesEnter (ctxTouch s (s.ctxAt (clusterOf n))) n) n
    let r := b.setSlot n { (b.slot n).begun with skip := false, stepOwed := none }
    let tvec := wordN (ctxField r (r.ctxAt (clusterOf n)) 16 8 / 64 * 64);
    ((r.slot n).intrap = false → tvec ≠ 0 → trapEntry s n t fpc epc = enterHandler r n t fpc epc) ∧
    ((r.slot n).intrap = true ∨ tvec = 0 → trapEntry s n t fpc epc = fatal r n t t.addr fpc)) ∧
  (∀ (r : State) (n : Nat) (t : Trap) (fpc epc : Word),
    let c := r.ctxAt (clusterOf n)
    let rec' := wordN (ctxField r c 24 8 / 256 * 256) + wordN (256 * n)
    let stored := storeNow r n rec' (trapRecord t fpc epc r.tb);
    (∀ q, stored = .done q →
      let u := enterHandler r n t fpc epc
      let l := u.slot n
      let m := (q.slot n).begun
      (l.epc = epc ∧ l.ecause = ecauseOf t ∧ l.eaddr = t.addr ∧ l.ppriv = m.priv ∧ l.priv = true ∧ l.intrap = true ∧
        l.pc = wordN (ctxField r c 16 8 / 64 * 64) + wordN (64 * t.cause) ∧ l.line = []) ∧
      { l with epc := m.epc, ecause := m.ecause, eaddr := m.eaddr, ppriv := m.ppriv, priv := m.priv, intrap := m.intrap, pc := m.pc, line := m.line } = m ∧
      { u with slots := q.slots } = q ∧ ∀ k, k ≠ n → u.slot k = q.slot k) ∧
    (∀ q, stored = .fault q → enterHandler r n t fpc epc = fatal (q.setSlot n (q.slot n).begun) n t (recordAddr q n) fpc) ∧
    (∀ q w, stored = .later q w →
      let u := q.setSlot n { q.slot n with wait := w, walkRes := none, entry := some (t, fpc, epc) };
      enterHandler r n t fpc epc = u ∧ ∀ v, (v.slot n).entry = (u.slot n).entry → trapResumes v n = enterHandler v n t fpc epc)) ∧
  (∀ (v : State) (n : Nat) (t : Trap) (a fpc : Word), ((fatal v n t a fpc).slot n).wait = .stopped ∧
    ((fatal v n t a fpc).tear.find? fun p => p.1 == v.ctxAt (clusterOf n)).isSome = true)

/-- R74, R249: a head whose guard is false has no effect but that of its signal parcel, and it retires: every instruction whose GI names a guard. R73: a privileged form in user mode raises a privilege trap, whatever its guard, and a matrix form on a staging core, in the mode that may run it, a role trap. -/
def Obligations.GuardsModesAndRoles : Prop :=
  (∀ (i : Instr) (g : Guard) (e : Option Eng) (s : State), guardOf i = some (g, e) → s.guardTrue g = false → permitted s i →
    exec i s = .next (ended s (signalParcel s e) .seq)) ∧
  (∀ (i : Instr) (s : State),
    (privForm i = true → s.sl.priv = false → exec i s = .next (headTrap (barrelMoved s) s.cur (trapI 3 0 0))) ∧
    (matrixForm i = true → isCompute s.myCore = false → exec i s = .next (headTrap (barrelMoved s) s.cur (trapI 4 0 0))))

/-- The scalar instructions that write registers and guards only: whatever they answer, where no trap is due, every register and guard but their destinations, every
byte of memory and every other field stays; the slot's PC, line and loop counts change by the retirement (R64, R133), and its core's barrel moves (R103). -/
def Obligations.RegisterInstructionsFrame : Prop :=
  ∀ (i : Instr) (rs : List Reg) (gs : List (Fin 8)) (s t : State), regDest i = some (rs, gs) → Quiet s → exec i s = .next t →
    (∀ r : Reg, r ∉ rs ∨ r = 0 → t.getS r = s.getS r) ∧ (∀ q : Fin 8, q ∉ gs ∨ q = 0 → t.getG q = s.getG q) ∧
    (∀ a, t.mem.get a = s.mem.get a) ∧ (∀ n, n ≠ s.cur → t.slot n = s.slot n) ∧
    (∀ k, { t.core k with ptr := (s.core k).ptr } = s.core k) ∧ (∀ k, k ≠ s.myCore → t.core k = s.core k) ∧
    { t.sl with s := s.sl.s, g := s.sl.g, pc := s.sl.pc, line := s.sl.line, lai := s.sl.lai, lao := s.sl.lao, lci := s.sl.lci,
                lco := s.sl.lco, wait := s.sl.wait, taken := s.sl.taken, walkRes := s.sl.walkRes, wins := s.sl.wins, block := s.sl.block,
                fetch := s.sl.fetch, rel := s.sl.rel, entry := s.sl.entry, reply := s.sl.reply, last := s.sl.last } = s.sl ∧
    { t with slots := s.slots, cores := s.cores } = s

/-- R138, Table 5.7, and R150: the two-source and one-source operations write their value to s[D], and nothing else but the retirement; `nop` has only the
retirement. The values are stated over the integers that the registers hold. R138, Table 5.7: the bit counts and the byte reversal write the one number that their description fixes. -/
def Obligations.TwoSourceAndBitResults : Prop :=
  (∀ (s : State) (g : Guard) (d a b : Reg), s.guardTrue g = true →
    let A := s.getS a
    let B := s.getS b
    let n := B.toNat % 64
    let w := fun (v : Word) => ended s (s.setS d v) .seq;
    (exec (.add g d a b) s = .next (w (BitVec.ofInt 64 (A.toInt + B.toInt))) ∧
      exec (.sub g d a b) s = .next (w (BitVec.ofInt 64 (A.toInt - B.toInt))) ∧
      exec (.and g d a b) s = .next (w (A &&& B)) ∧ exec (.or g d a b) s = .next (w (A ||| B)) ∧
      exec (.xor g d a b) s = .next (w (A ^^^ B)) ∧ exec (.andn g d a b) s = .next (w (A &&& ~~~B)) ∧
      exec (.orn g d a b) s = .next (w (A ||| ~~~B)) ∧ exec (.mov g d a) s = .next (w A) ∧
      exec (.sel g d a b) s = .next (w (if s.getS d ≠ 0 then A else B))) ∧
    (exec (.min g d a b) s = .next (w (BitVec.ofInt 64 (min A.toInt B.toInt))) ∧
      exec (.max g d a b) s = .next (w (BitVec.ofInt 64 (max A.toInt B.toInt))) ∧
      exec (.minn g d a b) s = .next (w (BitVec.ofNat 64 (min A.toNat B.toNat))) ∧
      exec (.maxn g d a b) s = .next (w (BitVec.ofNat 64 (max A.toNat B.toNat))) ∧
      exec (.mul g d a b) s = .next (w (BitVec.ofNat 64 (A.toNat * B.toNat))) ∧
      exec (.mulh g d a b) s = .next (w (BitVec.ofInt 64 (A.toInt * B.toInt / 2 ^ 64))) ∧
      exec (.mulhn g d a b) s = .next (w (BitVec.ofNat 64 (A.toNat * B.toNat / 2 ^ 64)))) ∧
    (exec (.shl g d a b) s = .next (w (BitVec.ofNat 64 (A.toNat * 2 ^ n))) ∧
      exec (.shr g d a b) s = .next (w (BitVec.ofNat 64 (A.toNat / 2 ^ n))) ∧
      exec (.sar g d a b) s = .next (w (BitVec.ofInt 64 (A.toInt / 2 ^ n))) ∧
      exec (.rotl g d a b) s = .next (w (A <<< n ||| A >>> (64 - n)))) ∧
    exec (.nop g) s = .next (ended s s .seq)) ∧
  (∀ (s : State) (g : Guard) (d a : Reg), s.guardTrue g = true →
    let A := s.getS a
    ∃ z t p v : Word,
      exec (.clz g d a) s = .next (ended s (s.setS d z) .seq) ∧ exec (.ctz g d a) s = .next (ended s (s.setS d t) .seq) ∧
      exec (.popc g d a) s = .next (ended s (s.setS d p) .seq) ∧ exec (.bswap g d a) s = .next (ended s (s.setS d v) .seq) ∧
      (z.toNat ≤ 64 ∧ A.toNat < 2 ^ (64 - z.toNat) ∧ (A ≠ 0 → 2 ^ (63 - z.toNat) ≤ A.toNat) ∧ (A = 0 → z = 64)) ∧
      (t.toNat ≤ 64 ∧ A.toNat % 2 ^ t.toNat = 0 ∧ (A ≠ 0 → A.getLsbD t.toNat = true) ∧ (A = 0 → t = 64)) ∧
      p.toNat = (List.range 64).countP (fun i => A.getLsbD i) ∧
      ∀ j < 8, v.extractLsb' (8 * j) 8 = A.extractLsb' (8 * (7 - j)) 8)

/-- R139, Table 5.8: the divide forms truncate toward zero, and division by zero gives all ones and the dividend. -/
def Obligations.DivideResults : Prop :=
  ∀ (s : State) (g : Guard) (d a b : Reg), s.guardTrue g = true →
    let A := s.getS a
    let B := s.getS b
    let w := fun (v : Word) => ended s (s.setS d v) .seq
    exec (.div g d a b) s = .next (w (if B = 0 then BitVec.allOnes 64 else BitVec.ofInt 64 (A.toInt.tdiv B.toInt))) ∧
    exec (.divn g d a b) s = .next (w (if B = 0 then BitVec.allOnes 64 else BitVec.ofNat 64 (A.toNat / B.toNat))) ∧
    exec (.rem g d a b) s = .next (w (if B = 0 then A else BitVec.ofInt 64 (A.toInt - B.toInt * A.toInt.tdiv B.toInt))) ∧
    exec (.remn g d a b) s = .next (w (if B = 0 then A else BitVec.ofNat 64 (A.toNat - B.toNat * (A.toNat / B.toNat))))

/-- R140 to R143: the immediate forms, the bit fields, the compares and the logic of guards. A field that passes bit 63 is no form (R141). -/
def Obligations.ImmediateAndGuardResults : Prop :=
  ∀ (s : State) (g : Guard) (d a b : Reg) (imm : BitVec 16) (n w1 p : BitVec 6) (t : BitVec 32) (v : BitVec 64) (j : Fin 4) (x : Bool)
    (op : GopOp) (gd ga gb : Fin 8) (na nb : Bool), s.guardTrue g = true →
    let A := s.getS a
    let W := w1.toNat + 1
    let P := p.toNat
    let F := A.toNat / 2 ^ P % 2 ^ W
    let w := fun (v : Word) => ended s (s.setS d v) .seq
    (exec (.addi g d a imm) s = .next (w (BitVec.ofInt 64 (A.toInt + imm.toInt))) ∧
      exec (.shli g d a n) s = .next (w (BitVec.ofNat 64 (A.toNat * 2 ^ n.toNat))) ∧
      exec (.shri g d a n) s = .next (w (BitVec.ofNat 64 (A.toNat / 2 ^ n.toNat))) ∧
      exec (.sari g d a n) s = .next (w (BitVec.ofInt 64 (A.toInt / 2 ^ n.toNat))) ∧
      exec (.lui g d imm) s = .next (w (BitVec.ofInt 64 (imm.toInt * 2 ^ 16))) ∧ exec (.lim g d v) s = .next (w v) ∧
      exec (.addpc g d t) s =
        .next (w (((s.sl.pc.extractLsb' 6 58 + (t.extractLsb' 5 27).signExtend 58) ++ t.extractLsb' 0 5) ++ (0#1)))) ∧
    (P + W ≤ 64 →
      exec (.extn g d a w1 p) s = .next (w (BitVec.ofNat 64 F)) ∧
      exec (.ext g d a w1 p) s = .next (w (BitVec.ofInt 64 (if F < 2 ^ (W - 1) then (F : Int) else (F : Int) - 2 ^ W))) ∧
      ∃ r : Word, exec (.ins g d a w1 p) s = .next (w r) ∧
        ∀ i < 64, r.getLsbD i = if P ≤ i ∧ i < P + W then A.getLsbD (i - P) else (s.getS d).getLsbD i) ∧
    (exec (.zext g d a w1) s = .next (w (BitVec.ofNat 64 (A.toNat % 2 ^ W))) ∧
      exec (.sext g d a w1) s = .next (w (BitVec.ofInt 64
        (if A.toNat % 2 ^ W < 2 ^ (W - 1) then ((A.toNat % 2 ^ W : Nat) : Int) else ((A.toNat % 2 ^ W : Nat) : Int) - 2 ^ W)))) ∧
    (∃ y, exec (.cmp g j a b x) s = .next (ended s y .seq) ∧
      y = (s.setG (Fin.ofNat 8 (2 * j.val)) (if x then decide (A.toNat < (s.getS b).toNat) else decide (A.toInt < (s.getS b).toInt))).setG
        (Fin.ofNat 8 (2 * j.val + 1)) (decide (A = s.getS b))) ∧
    (let B : Word := if x then imm.setWidth 64 else imm.signExtend 64;
      exec (.cmpi g j a x imm) s = .next (ended s ((s.setG (Fin.ofNat 8 (2 * j.val))
        (if x then decide (A.toNat < B.toNat) else decide (A.toInt < B.toInt))).setG (Fin.ofNat 8 (2 * j.val + 1)) (decide (A = B))) .seq)) ∧
    (let p := s.getG ga != na
      let q := s.getG gb != nb;
      exec (.gop g op gd na ga nb gb) s =
        .next (ended s (s.setG gd (match op with | .and => p && q | .or => p || q | .xor => p != q)) .seq))

/-- R144 to R146, R470: a branch transfers without an end check; a call writes the next PC as its link, after its target has been read; `trap` and `brk`
retire and then trap with their code; `eret` restores the mode and goes to EPC. R147, R148: a loop is set up in the outer registers where no loop is active and in the inner ones where the outer loop is; with both active, or an end
before the loop body, the set-up is illegal; a count of zero skips the body; `lpbrk` deactivates the innermost loop. -/
def Obligations.TransferAndLoopResults : Prop :=
  (∀ (s : State) (g : Guard) (d a : Reg) (t : BitVec 32) (code : BitVec 16), s.guardTrue g = true →
    let T : Word := ((s.sl.pc.extractLsb' 6 58 + (t.extractLsb' 5 27).signExtend 58) ++ t.extractLsb' 0 5) ++ (0#1)
    let link := (successor s.sl.line s.sl.pc).1
    exec (.br g t) s = .next (ended s s (.jump T)) ∧
    exec (.jl g t) s = .next (ended s (s.setS 31 link) (.jump T)) ∧
    exec (.jlr g d a) s = .next (ended s (s.setS d link) (.jump (s.getS a))) ∧
    exec (.trap g code) s = .next (endedTrap s s ⟨12, 0, code.setWidth 32, 0, 0, []⟩) ∧
    exec (.brk g code) s = .next (endedTrap s s ⟨13, 0, code.setWidth 32, 0, 0, []⟩) ∧
    (s.sl.priv = true → exec (.eret g) s = .next (ended s (s.setSl { s.sl with priv := s.sl.ppriv, intrap := false }) (.jump s.sl.epc)))) ∧
  (∀ (s : State) (g : Guard) (a : Reg) (count u : BitVec 16), s.guardTrue g = true →
    let l := s.sl
    let lb := (successor l.line l.pc).1
    let le : Word := ((l.pc.extractLsb' 6 58 + (u.extractLsb' 5 11).signExtend 58) ++ u.extractLsb' 0 5) ++ (0#1);
    (∀ (i : Instr) (n : BitVec 32), (i = .lpset g count u ∧ n = count.setWidth 32 ∨ i = .lpsetr g a u ∧ n = (s.getS a).setWidth 32) →
      (le.toNat < lb.toNat ∨ (l.lao = true ∧ l.lai = true) → exec i s = .next (headTrap (barrelMoved s) s.cur (trapI 1 0 (headParcel s).toNat))) ∧
      (lb.toNat ≤ le.toNat → ¬(l.lao = true ∧ l.lai = true) →
        (n = 0 → exec i s = .next (ended s s (.skip le))) ∧
        (n ≠ 0 → l.lao = false → exec i s = .next (ended s (s.setSl { l with lco := n, lbo := lb, leo := le, lao := true }) .seq)) ∧
        (n ≠ 0 → l.lao = true → exec i s = .next (ended s (s.setSl { l with lci := n, lbi := lb, lei := le, lai := true }) .seq)))) ∧
    (l.lai = true → exec (.lpbrk g) s = .next (ended s (s.setSl { l with lci := 0, lai := false }) .seq)) ∧
    (l.lai = false → l.lao = true → exec (.lpbrk g) s = .next (ended s (s.setSl { l with lco := 0, lao := false }) .seq)) ∧
    (l.lai = false → l.lao = false → exec (.lpbrk g) s = .next (ended s s .seq)))

/-- R149, R128: `csrr`, `csrw`, `csrs` and `csrc` write the old value to s[D], and the register takes s[A], the value with the bits of s[A] set, or with
those bits cleared; a register that only a privileged slot may access needs the privileged mode. The forms on FPSTAT are those on register 0x001. R128, Tables 5.2 to 5.4: what a register reads as after a write. RW fields take the value, RO and reserved fields stay, GUARDS reads g0 as one, the
W1C fields of SEMST and CCONF are cleared by ones, and a write of any other register changes nothing. -/
def Obligations.CsrInstructionsAndFields : Prop :=
  (∀ (s : State) (g : Guard) (d a : Reg) (n : BitVec 12), s.guardTrue g = true →
    let r := csrValue s n.toNat
    let f := csrValue s 0x001;
    ((csrHidden n.toNat = true → s.sl.priv = true) → exec (.csrr g d n) s = .next (ended s (r.1.setS d r.2) .seq)) ∧
    ((csrHidden n.toNat = true ∨ n.toNat = 0x002 ∨ n.toNat = 0x1E3 → s.sl.priv = true) →
      exec (.csrw g d a n) s = .next (ended s ((csrWrite r.1 n.toNat (s.getS a)).setS d r.2) .seq) ∧
      exec (.csrs g d a n) s = .next (ended s ((csrWrite r.1 n.toNat (r.2 ||| s.getS a)).setS d r.2) .seq) ∧
      exec (.csrc g d a n) s = .next (ended s ((csrWrite r.1 n.toNat (r.2 &&& ~~~ s.getS a)).setS d r.2) .seq)) ∧
    (exec (.fpstatAccess g .csrr d a) s = .next (ended s (s.setS d (s.sl.fpstat.setWidth 64)) .seq) ∧
      exec (.fpstatAccess g .csrw d a) s = .next (ended s ((csrWrite s 0x001 (s.getS a)).setS d f.2) .seq) ∧
      exec (.fpstatAccess g .csrs d a) s = .next (ended s ((csrWrite s 0x001 (f.2 ||| s.getS a)).setS d f.2) .seq) ∧
      exec (.fpstatAccess g .csrc d a) s = .next (ended s ((csrWrite s 0x001 (f.2 &&& ~~~ s.getS a)).setS d f.2) .seq))) ∧
  (∀ (s : State) (v : Word),
    let back := fun n => (csrValue (csrWrite s n v) n).2
    let now := fun n => (csrValue s n).2;
    (back 0x001 = v &&& 0x3F ∧ back 0x002 = (v &&& 0xC00) ||| (now 0x002 &&& ~~~0xC00) ∧ back 0x003 = (v &&& 0xFF) ||| 1 ∧
      back 0x008 = v &&& 0xFFFFFFFF ∧ back 0x00B = v &&& 0xFFFFFFFF ∧ back 0x010 = v ∧ back 0x011 = v &&& 0x1FFFFFFFFFFFF ∧ back 0x012 = v ∧
      back 0x013 = v ∧ back 0x040 = v &&& 0xFFFF ∧ back 0x081 = v ∧ back 0x082 = v) ∧
    (back 0x100 = v &&& 0x1F1F1F1F ∧ back 0x102 = v ∧ back 0x103 = v ∧ back 0x1C1 = v &&& 0xFFFFFF ∧ back 0x1E0 = v &&& 0x3F3F ∧
      back 0x1E3 = v &&& 0x83FF83FF ∧ back 0x204 = v &&& 1) ∧
    (back 0x0C0 = (v &&& 0xFC0000) ||| (now 0x0C0 &&& ~~~0xFC0000) ∧ back 0x0C1 = now 0x0C1 &&& ~~~(v &&& 0x80) ∧
      back 0x101 = now 0x101 &&& ~~~(v &&& 1) ∧ back 0x1C0 = (v &&& 0x3F) ||| (now 0x1C0 &&& ~~~(v &&& 0x700) &&& ~~~0x3F)) ∧
    ∀ n, n ∉ [0x001, 0x002, 0x003, 0x008, 0x00B, 0x010, 0x011, 0x012, 0x013, 0x040, 0x081, 0x082, 0x0C0, 0x0C1, 0x100, 0x101, 0x102, 0x103, 0x1C0,
      0x1C1, 0x1E0, 0x1E3, 0x204] → csrWrite s n v = s)

/-- R257: a write of one to LHST.RET in a light handler ends the handler and goes to LHPC, without an end check; elsewhere it has no effect. R450: a write of
ENCTAB takes bits [51:6], and every encoder rereads its table. R471, R467, Table 16.12: `dbgctl` in privileged mode. stat, halt and run give DBGSTAT before they set or clear ENGHALT, halt brings the matrix engines of the context to their stop points; settle waits while an engine has
not reached its stop point; kill reads the descriptor at its home, waiting while the control plane has a write that is not performed (log entry 11), and gives 1 for an invalid context, starts
the teardown of another context and gives 0, and stops the own context at once. -/
def Obligations.DebugControlAndCsrSideEffects : Prop :=
  (∀ (s : State) (g : Guard) (op : CsrOp) (d a : Reg), s.guardTrue g = true →
    let old : Word := if s.sl.lhact then 1 else 0
    let new := fun (old : Word) => match op with | .csrr => old | .csrw => s.getS a | .csrs => old ||| s.getS a | .csrc => old &&& ~~~ s.getS a;
    (op ≠ .csrr → (new old).getLsbD 1 = true → s.sl.lhact = true →
      exec (.lhstRet g op d a) s = .next (ended s ((s.setSl { s.sl with lhact := false }).setS d old) (.jump s.sl.lhpc))) ∧
    (op = .csrr ∨ (new old).getLsbD 1 = false ∨ s.sl.lhact = false → exec (.lhstRet g op d a) s = .next (ended s (s.setS d old) .seq)) ∧
    (s.sl.priv = true →
      let tab := encTabWord s;
      (op = .csrr → exec (.enctabWrite g op d a) s = .next (ended s (s.setS d tab) .seq)) ∧
      (op ≠ .csrr → exec (.enctabWrite g op d a) s =
        .next (ended s (((List.range 16).foldl rereadTable { s with encTab := (new tab).extractLsb' 6 46 }).setS d tab) .seq)))) ∧
  (∀ (s : State) (g : Guard) (d a : Reg), s.guardTrue g = true → s.sl.priv = true →
    let r := dbgStat s s.ctx
    let t := r.1
    let c := (s.getS a).toNat
    let q := if c < 4096 then ctxTouch s c else s;
    (exec (.dbgctlStat g d) s = .next (ended s (t.setS d r.2) .seq) ∧
      exec (.dbgctlHalt g d) s = .next (ended s ((((t.tmes.filter fun p => (t.launchAt (p.1 / 8)).any fun l => l.ctx == s.ctx).map (·.1)).foldl tmeStop
        { t with enghalt := tset t.enghalt s.ctx true }).setS d r.2) .seq) ∧
      exec (.dbgctlRun g d) s = .next (ended s
        (({ t with enghalt := tset t.enghalt s.ctx false, engStop := tset t.engStop s.ctx false } : State).setS d r.2) .seq)) ∧
    (r.2 ≠ 1 → exec (.dbgctlSettle g d) s = .next (ended s (t.setS d r.2) .seq)) ∧
    (r.2 = 1 → exec (.dbgctlSettle g d) s = .next (blocked t .poll)) ∧
    (planeBusy q = true → exec (.dbgctlKill g d a) s = .next (blocked q .poll)) ∧
    (planeBusy q = false → ctxValid q c = false → exec (.dbgctlKill g d a) s = .next (ended s (q.setS d 1) .seq)) ∧
    (planeBusy q = false → ctxValid q c = true → c ≠ q.ctx → exec (.dbgctlKill g d a) s = .next (ended s ((startTear q c).setS d 0) .seq)) ∧
    (planeBusy q = false → ctxValid q c = true → c = q.ctx → exec (.dbgctlKill g d a) s = .next (barrelMoved (stopContext (startTear q c) c))) ∧
    (tget false s.enghalt s.ctx = false → r.2 = 0) ∧ (tget false s.enghalt s.ctx = true → r.2 = 1 ∨ r.2 = 3) ∧
    (tget false s.enghalt s.ctx = true → encodersBusy s s.ctx = true → r.2 = 1) ∧
    (tget false s.enghalt s.ctx = true → encodersBusy s s.ctx = false → enginesBusy s s.ctx = false → r.2 = 3))

/-- R115 to R119: the handler-table instructions. `hpost` releases at core scope, so that the slot's stores are performed, and makes the arrival (its word 0 is zext(imm), or has the place of
the receiving core before it: R115 and R387 differ, and which holds is free, log entry 48); `harm` gives the old COUNT to s[D] and then writes COUNT and RELOAD from s[A] and s[B]; the mask instructions act on the channels of s[A], with CH added where the form names it, and give the old vector; `hprio` gives the old priority;
`tsread` gives the time base. R99: an arrival takes DEC from COUNT. While COUNT stays above zero nothing else changes; otherwise COUNT is reloaded, and the arrival sets PEND and the latch,
or MERGE where PEND is set already. -/
def Obligations.HandlerTableAndArrivals : Prop :=
  (∀ (s : State) (g : Guard) (d a b : Reg) (ch : BitVec 6) (dec : BitVec 10) (keep usech : Bool) (p : BitVec 3), s.guardTrue g = true →
    let e := fun (t : State) (c : Nat) => channel t s.myCore c
    let c := ch.toNat
    let mask : Word := s.getS a ||| (if usech then 1#64 <<< c else 0)
    (let q := storesEnter s s.cur
      let w0 := if Config.hpostPlace then coreWord q.myCore c dec.toNat else wordN (c * 2 ^ 10 + dec.toNat);
      exec (.hpost g a b ch dec) s = .next (ended s (arrive q q.myCore c dec.toNat ⟨w0, q.getS a, q.getS b, 0, 0⟩ .post).1 .seq) ∧
      (s.sl.sq = [] → q = s)) ∧
    (∃ x : Channel,
      let t := s.setS d ((e s c).count.signExtend 64)
      let A : BitVec 32 := (t.getS a).setWidth 32
      exec (.harm g d a b keep ch) s = .next (ended s (setChannel t s.myCore c x) .seq) ∧
      x.en = (e s c).en ∧ x.busy = (e s c).busy ∧ x.prio = (e s c).prio ∧ x.haddr = (e s c).haddr ∧
      x.reload = (if keep then (e s c).reload else BitVec.ofNat 32 (max 1 ((t.getS b).toNat % 2 ^ 31))) ∧
      (0 < A.toInt → x.count = A ∧ x.pend = (e s c).pend ∧ x.latch = (e s c).latch) ∧
      (A.toInt ≤ 0 → x.count = x.reload ∧ x.pend = true ∧ x.merge = ((e s c).merge || (e s c).pend) ∧
        ((e s c).pend = false → x.latch = ⟨0, 0, 0, 0, 0⟩))) ∧
    (∃ t u v : State, ∃ oe op : Word,
      exec (.hen g d a usech ch) s = .next (ended s (t.setS d oe) .seq) ∧ exec (.hdis g d a usech ch) s = .next (ended s (u.setS d oe) .seq) ∧
      exec (.hpclr g d a usech ch) s = .next (ended s (v.setS d op) .seq) ∧ t.slots = s.slots ∧ u.slots = s.slots ∧ v.slots = s.slots ∧
      (∀ i < 64, oe.getLsbD i = (e s i).en ∧ op.getLsbD i = (e s i).pend ∧
        e t i = (if mask.getLsbD i then { e s i with en := true } else e s i) ∧
        e u i = (if mask.getLsbD i then { e s i with en := false } else e s i) ∧
        e v i = (if mask.getLsbD i then { e s i with pend := false, merge := false, latch := ⟨0, 0, 0, 0, 0⟩, src := .armed } else e s i))) ∧
    exec (.hprio g d p ch) s = .next (ended s ((setChannel s s.myCore c { e s c with prio := p }).setS d ((e s c).prio.setWidth 64)) .seq) ∧
    (∃ t : State, exec (.tsread g d) s = .next (ended s (t.setS d (wordN s.tb)) .seq) ∧ t = s.setSl { s.sl with lastTs := wordN s.tb })) ∧
  (∀ (s : State) (core c dec : Nat) (a : Args) (src : LatchSource),
    let e := channel s core c
    let q := e.count - BitVec.ofNat 32 dec
    let r := arrive s core c dec a src
    let x := channel r.1 core c;
    (0 < q.toInt → x = { e with count := q } ∧ r.2 = false) ∧
    (q.toInt ≤ 0 → e.pend = false → x = { e with count := e.reload, pend := true, latch := a, src := src } ∧ r.2 = true) ∧
    (q.toInt ≤ 0 → e.pend = true → x = { e with count := e.reload, merge := true } ∧ r.2 = false) ∧
    (∀ k, k ≠ core → r.1.core k = s.core k) ∧ (∀ i, i ≠ c → channel r.1 core i = channel s core i) ∧ { r.1 with cores := s.cores } = s)

/-- R101, R102, Table 4.6: a core whose cluster runs a launch starts its eligible channel of the highest priority, the lowest among equals, in its lowest free
slot, with the registers of the table, in the launch's mode, at the channel's handler; PEND and MERGE go, BUSY is set. s7 to s10 hold the base addresses of the instances of the
channel's regions that belong to the core, its tile or its cluster: those of kind tcm lie from the top of the TCM downward, those of kind ws from the base of the placement's WS upward, those
of kind csp at their blocks, in entry order. The stream registers are closed, no lane is claimed, the monitor, CBAR, the loops and the flags are clear. Without one of these, or where the
launch's context is being torn down (R465), nothing happens. -/
def Obligations.ActivationStarts : Prop :=
  ∀ (s : State) (core : Nat),
    (∀ u l c m, (s.cluster (core / 16)).launch = some u → s.launch? u = some l → tearing s l.ctx = false → selectedChannel s core = some c →
      freeSlot s core = some m → ∃ t : State, exec (.activationStart core) s = .next t ∧
        let e := channel s core c
        let k := t.slot m
        (k.chan = some c ∧ k.pc = e.haddr ∧ k.line = [] ∧ k.priv = l.priv ∧ k.startCc = s.cc ∧ k.fpstat = 0 ∧ k.intrap = false ∧ k.lai = false ∧
          k.lao = false ∧ k.wait = .none ∧ k.g = Vector.replicate 8 false) ∧
        (k.s[0] = 0 ∧ k.s[1] = e.latch.w0 ∧ k.s[2] = e.latch.w1 ∧ k.s[3] = e.latch.w2 ∧ k.s[4] = e.latch.w3 ∧ k.s[5] = e.latch.pay ∧
          k.s[6] = wordN (c + (match e.src with
            | .post => 2 ^ 6 + 2 ^ 7 * b2n e.merge
            | .message => 2 ^ 7 * b2n e.merge
            | .start => 2 ^ 8 + 2 ^ 7 * b2n e.merge
            | .armed => 0)) ∧
          k.s[11] = placeWord l core ∧ ∀ i : Fin 32, 12 ≤ i.val → k.s[i] = 0) ∧
        (∀ j : Fin 4,
          let r := k.s[7 + j.val]'(by omega);
          (e.regs[j.val]? = none → r = 0) ∧
          ∀ i a, e.regs[j.val]? = some i → l.record.allocs[i]? = some a →
            let size := fun kind n => (((l.record.allocs.take n).filter fun x => x.kind == kind).map (·.size)).sum;
            (a.kind = 0 → r = wordN (65536 - size 0 (i + 1))) ∧
            (a.kind = 1 → r = wordN (0x200000 + (s.cluster (core / 16)).wsBase + size 1 i)) ∧
            (1 < a.kind → ∀ x, ((s.cluster (core / 16)).allocs.filter fun x => x.owner == u && !x.spal)[
                (l.record.allocs.take i).countP (·.kind == 2)]? = some x → r = wordN (0x800000 + 4096 * x.base))) ∧
        ((∀ f : Fin 8, k.f[f] = StreamReg.init) ∧ k.claim = Claim.none ∧ k.mon = Monitor.init ∧ k.cbar = 0 ∧ k.lhact = false ∧ k.lco = 0 ∧ k.lci = 0) ∧
        channel t core c = { e with pend := false, merge := false, busy := true } ∧ (∀ i, i ≠ c → channel t core i = channel s core i) ∧
        (∀ n, n ≠ m → t.slot n = s.slot n) ∧ t.mem = s.mem) ∧
    ((s.cluster (core / 16)).launch = none ∨ selectedChannel s core = none ∨ freeSlot s core = none ∨ (s.launchAt (core / 16)).any (fun l => tearing s l.ctx) →
      exec (.activationStart core) s = .next s) ∧
    (∀ c, selectedChannel s core = some c → c < 64 ∧ eligible (channel s core c) = true ∧
      ∀ i < 64, eligible (channel s core i) = true → (channel s core i).prio.toNat < (channel s core c).prio.toNat ∨
        ((channel s core i).prio = (channel s core c).prio ∧ c ≤ i)) ∧
    (∀ m, freeSlot s core = some m → 4 * core ≤ m ∧ m < 4 * core + 4 ∧ (s.slot m).chan = none)

/-- R114, R121: `hret` ends the activation: the slot is free, its lanes, streams and monitor are given up and its channel is not busy. `falign` waits until every other
core of the cluster that runs an activation of the same channel waits at the same PC, or 64 cc. R108, R120: `dsync` takes a credit of every named direction that
has a neighbour, sends one to each and counts P, or waits; a credit that arrives is added, and saturates. R109, R122: `rtake` sends a request to the range unit of the launch's home die and waits; an object that the launch has not traps. The unit serves the oldest
request of a launch that is not switched out: START and LEN go to s[D] and s[B], and N moves on by LEN. -/
def Obligations.ActivationEndAlignmentAndDrift : Prop :=
  (∀ (s : State) (g : Guard) (d : Reg) (mask : BitVec 4), s.guardTrue g = true →
    let k := s.core s.myCore
    let near := fun e : Fin 4 => driftNeighbour s s.myCore e.val
    let taken := fun e : Fin 4 => mask.getLsbD e.val && (near e).isSome;
    (exec (.hret g) s = .next (alignSettle (barrelMoved (endActivation s s.cur)) s.myCl) ∧
      (∀ m, let t := endActivation s m
        (t.slot m).chan = none ∧ (t.slot m).line = [] ∧ (t.slot m).wait = .none ∧ (t.slot m).mon = Monitor.init ∧ (t.slot m).claim.g = 0 ∧
        (∀ f : Fin 8, (t.slot m).f[f] = StreamReg.init) ∧ (∀ c, (s.slot m).chan = some c → (channel t (coreOf m) c).busy = false) ∧
        ((∀ e < 32, (jentry s (coreOf m) e).held = false) → (s.slot m).sq = [] → ∀ n, n ≠ m → t.slot n = s.slot n))) ∧
    (∀ h : Guard, s.guardTrue h = false →
      exec (.hret h) s = .next (alignSettle (ended s s .seq) s.myCl) ∧ exec (.falign h) s = .next (alignSettle (ended s s .seq) s.myCl)) ∧
    (exec (.falign g) s = .next (alignSettle (blocked s (.align s.cc)) s.myCl) ∧
      (∀ m, alignMet s m = true ↔ ∀ n ∈ runningSlots s (clusterOf m), coreOf n ≠ coreOf m → (s.slot n).chan = (s.slot m).chan →
        ∃ x ∈ runningSlots s (clusterOf m), coreOf x = coreOf n ∧ atAlign s x = true ∧ (s.slot x).pc = (s.slot m).pc) ∧
      (∀ cl, (∀ m ∈ runningSlots s cl, atAlign s m = true → alignMet s m = false) → alignSettle s cl = s) ∧
      (∀ cc, s.sl.wait = .align cc → exec .falignTimeout s = .next (if cc + 64 ≤ s.cc then finish s s.cur .seq (stepping s s.cur) none else s))) ∧
    ((∀ e : Fin 4, taken e = true → 1 ≤ k.dcred[e].toNat) →
      ∃ t : State, exec (.dsync g d mask) s = .next (ended s (t.setS d ((k.p + 1).setWidth 64)) .seq) ∧
        (t.core s.myCore).p = k.p + 1 ∧ (∀ e : Fin 4, (t.core s.myCore).dcred[e] = if taken e then k.dcred[e] - 1 else k.dcred[e]) ∧
        (∀ (e : Fin 4) (n : Nat), mask.getLsbD e.val = true → near e = some n → ∃ i, (i, Flight.credit n s.myLaunch (opposite e)) ∈ t.net) ∧
        (∀ n, n ≠ s.myCore → t.core n = s.core n) ∧ t.slots = s.slots ∧ t.mem = s.mem) ∧
    ((∃ e : Fin 4, taken e = true ∧ k.dcred[e] = 0) → exec (.dsync g d mask) s = .next (blocked s .drift)) ∧
    (∀ (dst launch : Nat) (e : Fin 4), arriving s = some (.credit dst launch e) →
      let t := unsend s s.sel
      let q := t.core dst
      let more := if q.dcred[e] = BitVec.allOnes 16 then q.dcred[e] else q.dcred[e] + 1;
      (runsLaunch t dst launch = true → exec .driftCreditArrival s = .next (t.setCore dst { q with dcred := q.dcred.set e more })) ∧
      (runsLaunch t dst launch = false → exec .driftCreditArrival s = .next t))) ∧
  (∀ (s : State),
    (∀ (g : Guard) (d b : Reg) (obj : BitVec 4), s.guardTrue g = true →
      (∀ l, s.launchAt s.myCl = some l →
        let h := homeDie l.x l.y;
        (obj.toNat < l.ranges.length → exec (.rtake g d b obj) s =
          .next (blocked (s.setDie h { s.die h with ranges := (s.die h).ranges ++ [⟨s.cur, s.myLaunch, d, b, obj.toNat⟩] }) (.range false))) ∧
        (l.ranges.length ≤ obj.toNat → exec (.rtake g d b obj) s = .next (headTrap (barrelMoved s) s.cur (trapI 27 0 obj.toNat)))) ∧
      (s.launchAt s.myCl = none → exec (.rtake g d b obj) s = .next (headTrap (barrelMoved s) s.cur (trapI 27 0 obj.toNat)))) ∧
    (∀ (die i : Nat) (r : RangeReq) (l : Launch) (o : RangeObj) (f : Bool),
      (s.die die).ranges.findIdx? (fun r => !launchOut s r.launch) = some i → (s.die die).ranges[i]? = some r →
      s.launch? r.launch = some l → l.ranges[r.obj]? = some o → (s.slot r.slot).wait = .range f →
      ∃ (len start : Nat) (t : State),
        exec (.rangeUnitService die) s = .next (finish ((t.setSAt r.slot r.b (wordN len)).setSAt r.slot r.d (wordN start)) r.slot
          (if f then .afresh else .seq) (stepping s r.slot) none) ∧
        (o.n < o.e → start = o.n ∧ len = min (o.e - o.n) (max o.minc ((o.e - o.n + o.dv - 1) / o.dv)) ∧
          t.launch? r.launch = some { l with ranges := lset l.ranges r.obj { o with n := o.n + len } }) ∧
        (o.e ≤ o.n → start = o.e ∧ len = 0 ∧ t.launch? r.launch = some l) ∧
        (t.die die).ranges = ldel (s.die die).ranges i ∧ t.slots = s.slots ∧ t.mem = s.mem))

/-- R169, R151 to R153: the checks of a scalar access, in their order. A misaligned address raises an alignment fault; a hole, or an address beyond 57 bits, an address
fault; a neighbour place outside the grid a place fault; WS that a switched-out launch holds and CSP that the launch has not allocated an access fault; a store to a held copy source
a guard fault. TCM, WS and CSP bytes are those of the executing core, tile and cluster. -/
def Obligations.AccessChecks : Prop :=
  ∀ (s : State) (m : Nat) (k : Access) (plain store : Bool) (va : Word) (z : Size),
    let n := Size.bytes z
    let r := locate s m k plain store va n
    let a := va.toNat
    let land := fun key => r = if store && heldSource s (clusterOf m) key n then .trap s (trapI 21 0 0) else .ok s (.mem key)
    (a % n ≠ 0 → r = .trap s (memTrap 8 k va)) ∧
    (a % n = 0 →
      (a < 0x10000 → land (2 ^ 52 + m / 4 * 2 ^ 16 + a)) ∧
      (0x200000 ≤ a → a < 0x400000 → wsHeldAt s (clusterOf m) (a - 0x200000) n = false → land (2 ^ 53 + m / 8 * 2 ^ 21 + (a - 0x200000))) ∧
      (0x200000 ≤ a → a < 0x400000 → wsHeldAt s (clusterOf m) (a - 0x200000) n = true → r = .trap s (memTrap 6 k va)) ∧
      (0x800000 ≤ a → a < 0x1000000 → (cspAllocAt s (clusterOf m) (a - 0x800000)).isSome = true →
        land (2 ^ 54 + m / 64 * 2 ^ 23 + (a - 0x800000))) ∧
      (0x800000 ≤ a → a < 0x1000000 → cspAllocAt s (clusterOf m) (a - 0x800000) = none → r = .trap s (memTrap 6 k va)) ∧
      (0x10000 ≤ a ∧ a < 0x200000 ∨ 0x400000 ≤ a ∧ a < 0x800000 ∨ 0x1000000 ≤ a ∧ a < 0x10000000000 ∨ 2 ^ 57 ≤ a → r = .trap s (memTrap 7 k va)) ∧
      (0x10000000000 ≤ a → a < 0x20000000000 → localWhere (a % 2 ^ 24) ≠ .hole → placeCore (m / 4) (BitVec.ofNat 16 (a / 2 ^ 24)) = none →
        r = .trap s (trapI 9 0 (a / 2 ^ 24 % 2 ^ 16))) ∧
      (0x10000000000 ≤ a → a < 0x20000000000 → localWhere (a % 2 ^ 24) ≠ .hole → (placeCore (m / 4) (BitVec.ofNat 16 (a / 2 ^ 24))).isSome = true →
        r = if plain then .ok s (.remote (BitVec.ofNat 16 (a / 2 ^ 24)) (a % 2 ^ 24)) else .trap s (memTrap 6 k va)))

/-- R4, R154, R155, R165, R359, R464: a read of TCM, WS or CSP gives its bytes, unless it parks (on a guard, or, once it has parked, behind a read of the cluster that parked before it) or meets a
lost word; a store writes its bytes, each at its own key, and no other byte; memory keeps its canonical form. R171: a scalar load writes the bytes that it finds at its address, sign-extended (`ld`, `ldx`) or
zero-extended (`ldn`), to s[D], and then performs its signal; a load of the neighbour aperture sends a request to the core that the place names and waits for its reply (R397). The address is s[A] + sext(imm), or
s[A] + s[B] × size, wrapped. R171, R154: a scalar store takes the low bytes of s[D]; one to local or to global memory retires into the slot's store queue of 8 entries, whose stores are performed in order at the memory or
in the data cache, all of them before the slot's next access (R425) and before the signal of the head (R169, R251); a window store retires, with its signal, when it is performed at the home slices
(R337); a store to the neighbour aperture is posted through the lowest free journal entry, and blocks while there is none (R395). -/
def Obligations.LoadsAndStores : Prop :=
  (∀ (s : State) (m : Nat) (k : Access) (va : Word) (key n : Nat) (bs : List Byte),
    let e := storesEnter s m;
    ((e.slot m).sq = [] ∧ ((s.slot m).sq = [] → e = s) ∧
      ∀ x r, (s.slot m).sq = x :: r →
        let q := s.setSlot m { s.slot m with sq := r };
        e = storesEnter (if x.1 < 2 ^ 52 then cdcStore q (clusterOf m) x.1 x.2.1 x.2.2 else q.write x.1 x.2.2) m) ∧
    (parks e m key n = true ↔ guarded e (clusterOf m) key n = true ∨
      ∃ a n' t, (e.slot m).wait = .parked a key n' t ∧ parkedOlder e (clusterOf m) a = true) ∧
    (parks e m key n = true → ∃ t age, readLoc s m k va n (.mem key) = .wait t (.parked age key n 0) ∧ t.mem = e.mem ∧
      ∀ a n' x, (e.slot m).wait = .parked a key n' x → age = a) ∧
    (parks e m key n = false → e.lostIn key n = true → ∃ t u, readLoc s m k va n (.mem key) = .trap t u ∧ u.cause = 26 ∧ u.addr = va) ∧
    (parks e m key n = false → e.lostIn key n = false →
      readLoc s m k va n (.mem key) = .ok e ((List.range n).map fun i => e.mem.get (key + i))) ∧
    ∃ t, writeLoc s m va bs (.mem key) = .ok t () ∧
      (∀ j, (j < key ∨ key + bs.length ≤ j) → t.mem.get j = e.mem.get j) ∧
      (e.memOk = true → t.memOk = true ∧ ∀ i < bs.length, t.mem.get (key + i) = bs.getD i 0) ∧
      (∀ q, (t.slot q).s = (e.slot q).s ∧ (t.slot q).g = (e.slot q).g ∧ (t.slot q).pc = (e.slot q).pc ∧ (t.slot q).wait = (e.slot q).wait) ∧
      { t with mem := e.mem, lost := e.lost, slots := e.slots } = e) ∧
  (∀ (s : State) (g : Guard) (z : Size) (d a b : Reg) (imm : BitVec 16) (sync : Option Eng) (i : Instr) (va : Word) (zx : Bool),
    (i = .ld g z d a imm sync ∧ va = s.getS a + imm.signExtend 64 ∧ zx = false ∨ i = .ldn g z d a imm sync ∧ va = s.getS a + imm.signExtend 64 ∧ zx = true ∨
      sync = none ∧ i = .ldx g z d a b ∧ va = s.getS a + s.getS b * wordN (Size.bytes z) ∧ zx = false ∨
      (∃ e, sync = some e ∧ i = .ldxSync g z d a b e) ∧ va = s.getS a + s.getS b * wordN (Size.bytes z) ∧ zx = false) →
    s.guardTrue g = true → waitMet s sync →
    let u := bodyState s sync
    let value : List Byte → Word := fun bs =>
      let N := ofBytes bs;
      if zx = false ∧ 2 ^ (8 * bs.length) ≤ 2 * N then BitVec.ofInt 64 ((N : Int) - 2 ^ (8 * bs.length)) else BitVec.ofNat 64 N;
    (va.toNat % Size.bytes z = 0 → va.toNat < 0x10000 →
      let key := 2 ^ 52 + u.cur / 4 * 2 ^ 16 + va.toNat
      let e := storesEnter u u.cur;
      parks e u.cur key (Size.bytes z) = false → e.lostIn key (Size.bytes z) = false →
        exec i s = .next (ended s (signalParcel (e.setS d (value ((List.range (Size.bytes z)).map fun i => e.mem.get (key + i)))) sync) .seq)) ∧
    (∀ v loc, locate u u.cur .read true false va (Size.bytes z) = .ok v loc → (∀ p off, loc ≠ .remote p off) →
      (∀ w bs, readLoc v v.cur .read va (Size.bytes z) loc = .ok w bs → exec i s = .next (ended s (signalParcel (w.setS d (value bs)) sync) .seq)) ∧
      (∀ w t, readLoc v v.cur .read va (Size.bytes z) loc = .trap w t → exec i s = .next (headTrap (barrelMoved w) w.cur t)) ∧
      (∀ w x, readLoc v v.cur .read va (Size.bytes z) loc = .wait w x → exec i s = .next (blocked w x))) ∧
    (∀ v p off, locate u u.cur .read true false va (Size.bytes z) = .ok v (.remote p off) →
      let dst := (placeCore v.myCore p).getD 0;
      ((∀ e < 32, (jentry v v.myCore e).st = .posted → (jentry v v.myCore e).slot = v.cur →
          placeCore v.myCore (jentry v v.myCore e).place ≠ some dst) →
        exec i s = .next (blocked (send (storesEnter v v.cur) (.load v.cur dst v.myLaunch off (Size.bytes z) 0)) (.reply d (Size.bytes z) zx sync va)))) ∧
    (∀ v t, locate u u.cur .read true false va (Size.bytes z) = .trap v t → exec i s = .next (headTrap (barrelMoved v) v.cur t)) ∧
    (∀ v w, locate u u.cur .read true false va (Size.bytes z) = .wait v w → exec i s = .next (blocked v w))) ∧
  (∀ (s : State) (g : Guard) (z : Size) (d a b : Reg) (imm : BitVec 16) (sync : Option Eng) (i : Instr) (va : Word),
    (i = .st g z d a imm sync ∧ va = s.getS a + imm.signExtend 64 ∨ sync = none ∧ i = .stx g z d a b ∧ va = s.getS a + s.getS b * wordN (Size.bytes z) ∨
      (∃ e, sync = some e ∧ i = .stxSync g z d a b e) ∧ va = s.getS a + s.getS b * wordN (Size.bytes z)) →
    s.guardTrue g = true → waitMet s sync →
    let u := bodyState s sync
    let bytes := bytesOf (Size.bytes z) (s.getS d).toNat
    let queued : State → Nat → Nat → State := fun v k key =>
      let x := if (v.slot v.cur).sq.length < 8 then v else storeEnters v v.cur;
      x.setSlot v.cur { x.slot v.cur with sq := (x.slot v.cur).sq ++ [(k, key, bytes)] };
    (va.toNat % Size.bytes z = 0 → va.toNat < 0x10000 →
      let key := 2 ^ 52 + u.cur / 4 * 2 ^ 16 + va.toNat;
      heldSource u (clusterOf u.cur) key (Size.bytes z) = false → exec i s = .next (ended s (signalParcel (queued u key 0) sync) .seq)) ∧
    (∀ v key, locate u u.cur .write true true va (Size.bytes z) = .ok v (.mem key) → exec i s = .next (ended s (signalParcel (queued v key 0) sync) .seq)) ∧
    (∀ v pa key, locate u u.cur .write true true va (Size.bytes z) = .ok v (.glob pa key) →
      exec i s = .next (ended s (signalParcel (queued v pa key) sync) .seq)) ∧
    (∀ v w off, locate u u.cur .write true true va (Size.bytes z) = .ok v (.win w off) →
      (∀ x, writeLoc v v.cur va bytes (.win w off) = .ok x () →
        (unperformed x u.cur = false → exec i s = .next (ended s (signalParcel x sync) .seq)) ∧
        (unperformed x u.cur = true → exec i s = .next (blocked x (.performs sync)))) ∧
      (∀ x t, writeLoc v v.cur va bytes (.win w off) = .trap x t → exec i s = .next (headTrap (barrelMoved x) x.cur t)) ∧
      (∀ x y, writeLoc v v.cur va bytes (.win w off) = .wait x y → exec i s = .next (blocked x y))) ∧
    (∀ v p off, locate u u.cur .write true true va (Size.bytes z) = .ok v (.remote p off) →
      (freeJentry v v.myCore = none → exec i s = .next (blocked v .poll)) ∧
      (∀ e, freeJentry v v.myCore = some e → ∃ t : State, exec i s = .next (ended s (signalParcel t sync) .seq) ∧
        let x := wordN ((s.getS d).toNat % 2 ^ (8 * Size.bytes z));
        jentry t v.myCore e = ⟨.posted, 0, v.cur, v.sl.act, p, off, z, x, false, false⟩ ∧
        tget (.ack 0 0) t.net t.age = .store v.myCore ((placeCore v.myCore p).getD 0) v.myLaunch e false off (bytesOf (Size.bytes z) x.toNat) ∧
        t.mem = v.mem ∧ (∀ k, k ≠ e → jentry t v.myCore k = jentry v v.myCore k))) ∧
    (∀ v t, locate u u.cur .write true true va (Size.bytes z) = .trap v t → exec i s = .next (headTrap (barrelMoved v) v.cur t)) ∧
    (∀ v w, locate u u.cur .write true true va (Size.bytes z) = .wait v w → exec i s = .next (blocked v w))) ∧
  (∀ (s : State) (e : Eng),
    (e.sn ≠ 0 → ((storesEnter s s.cur).slot s.cur).sq = [] ∧
      signalParcel s (some e) = semUpdate (storesEnter s s.cur) s.myTile 3 [s.myCore] fun v => semAdd v s.myTile e.sj.toNat e.sn.toNat) ∧
    (e.sn = 0 → signalParcel s (some e) = s) ∧ signalParcel s none = s ∧
    ∀ x, s.sl.wait = .performs x → unperformed s s.cur = false →
      proceed s ⟨s.cur, 0, .performed, false⟩ = .next (finish (signalParcel s x) s.cur .seq (stepping s s.cur) none))

/-- R313, R423: a store to global memory goes into the CDC of the slot's cluster: its bytes become dirty there, home memory stays, and so does every other line, unless the set is full and its
least recently used line must go. R313, R318, R426: a sector that is written back sends its dirty bytes, and no others, to the home slice of its line and is clean; the write is performed there in an
event of its own, or, before an atomic (R172), at once: a line that is resident there, with nothing waiting at its slice and sectors enough, then has these bytes, and every other byte of memory stays; a sector that is discarded loses its valid bit and its dirty bytes, and home memory stays. R430: an acquire at
die scope or wider leaves no valid sector, keeps the dirty bytes, and drops the prefetches into the cache that are under way (R320); a narrower one does nothing. -/
def Obligations.DataCache : Prop :=
  (∀ (s : State) (cl pa key : Nat) (bs : List Byte), pa % 64 + bs.length ≤ 64 →
    let c := s.cluster cl
    let la := pa / 512
    let old : CdcLine := (cdcFind c la).getD ⟨la, key, 0, 0, []⟩
    let t := cdcStore s cl pa key bs;
    ((cdcFind c la).isSome = true ∨ (c.cdc.filter fun l => l.la % 32 == la % 32).length < 16) →
      t.mem = s.mem ∧ { t with clusters := s.clusters } = s ∧ (∀ k, k ≠ cl → t.cluster k = s.cluster k) ∧
      (∀ x, x ≠ la → cdcFind (t.cluster cl) x = cdcFind c x) ∧
      ∃ l, cdcFind (t.cluster cl) la = some l ∧ l.la = old.la ∧ l.key = old.key ∧ l.valid = old.valid ∧ l.data = Memory.puts old.data (pa % 512) bs ∧
        ∀ o < 512, l.dirty.getLsbD o = (old.dirty.getLsbD o || (decide (pa % 512 ≤ o) && decide (o < pa % 512 + bs.length)))) ∧
  (∀ (s : State) (cl pa sec : Nat) (l : CdcLine),
    (let t := cdcDiscard s cl pa;
      t.mem = s.mem ∧ (∀ k, k ≠ cl → t.cluster k = s.cluster k) ∧ { t with clusters := s.clusters } = s ∧
      (∀ la, la ≠ pa / 512 → cdcFind (t.cluster cl) la = cdcFind (s.cluster cl) la) ∧
      ∀ x, cdcFind (s.cluster cl) (pa / 512) = some x → ∃ y, cdcFind (t.cluster cl) (pa / 512) = some y ∧ y.data = x.data ∧
        (∀ k < 8, y.valid.getLsbD k = (x.valid.getLsbD k && k != pa % 512 / 64)) ∧
        ∀ o < 512, y.dirty.getLsbD o = (x.dirty.getLsbD o && o / 64 != pa % 512 / 64)) ∧
    (cdcFind (s.cluster cl) l.la = some l → sec < 8 →
      let mine := fun o => decide (o / 64 = sec) && l.dirty.getLsbD o
      let bytes := ((List.range 512).filter mine).map fun o => (o, Memory.get l.data o)
      let u := (homePut s (whoCdc cl) (s.ctxAt cl) l.la l.key 0 bytes).1
      let t := writeBack s cl l sec
      let v := sendBack s cl l sec
      (bytes = [] → t = s ∧ v = s) ∧
      (bytes ≠ [] → ownMemory s (512 * l.la) = true → v.mem = s.mem ∧
        (slice v (homeSlice s (l.la % 2 ^ 33))).reqs =
          (slice s (homeSlice s (l.la % 2 ^ 33))).reqs ++ [{ putReq (whoCdc cl) l.la l.key 0 bytes with no := s.older.age }] ∧
        ∃ y, cdcFind (v.cluster cl) l.la = some y ∧ y.valid = l.valid ∧ y.data = l.data ∧ ∀ o < 512, y.dirty.getLsbD o = (l.dirty.getLsbD o && o / 64 != sec)) ∧
      (bytes ≠ [] → { t with clusters := u.clusters } = u ∧ (∀ k, k ≠ cl → t.cluster k = s.cluster k) ∧
        ∃ y, cdcFind (t.cluster cl) l.la = some y ∧ y.valid = l.valid ∧ y.data = l.data ∧ ∀ o < 512, y.dirty.getLsbD o = (l.dirty.getLsbD o && o / 64 != sec)) ∧
      (let la := l.la % 2 ^ 33
        let c := slice s (homeSlice s la)
        let img := (List.range 512).map fun o => if mine o then Memory.get l.data o else s.mem.get (512 * la + o);
        ∀ x, bytes ≠ [] → ownMemory s (512 * l.la) = true → s.memOk = true → c.find la = some x → (s.live.find? fun p => p.1 == la).isSome = true →
          s.lostIn (512 * la) 512 = false → la ∉ s.mgmt.held → la ∉ s.mgmt.snoops → c.reqs = [] → c.fills = [] → c.refused = [] → c.wbuf = [] →
          nsecOf (lineHeader img) ≤ nsecOf x.hdr + c.freeSec →
          ∀ j, u.mem.get j = if 512 * la ≤ j ∧ j < 512 * la + 512 then img.getD (j - 512 * la) 0 else s.mem.get j)) ∧
    (∀ sc < 4, acquire s cl sc = s) ∧
    (∀ sc, 4 ≤ sc → let t := acquire s cl sc;
      t.mem = s.mem ∧ (t.cluster cl).cdc.length = (s.cluster cl).cdc.length ∧ (∀ x ∈ (t.cluster cl).cdc, x.valid = 0) ∧
      (∀ f ∈ (t.cluster cl).fetches, f.2.2.2 = false) ∧
      ∀ la x, cdcFind (s.cluster cl) la = some x → ∃ y, cdcFind (t.cluster cl) la = some y ∧ y.dirty = x.dirty ∧ y.data = x.data))

/-- R172, R173: an atomic, in one step: the old value to s[D], sign-extended from 32 bits in the word forms, and the new value to memory; `amocas` compares with s[D] and
stores s[B] on equality, and writes nothing otherwise. On a local word it is made at the memory. On global memory the sector of the CDC is written back and invalidated, and the old value is read and the new one
written by one request at the home slice; one that is refused there is made again (R305), and one that meets an error is a data loss (R310). A release, for whose write-backs the slot waits, precedes and an acquire follows at the
named scope, or at the natural scope of the location. -/
def Obligations.AtomicResults : Prop :=
  (∀ (s : State) (g : Guard) (dbl : Bool) (d a b : Reg) (op : AmoOp) (ord : MemOrd) (scope : Scope) (ar : Bool) (v : State) (loc : Loc)
    (i : Instr) (f : Nat → Option Nat) (rel acq : Bool) (sc : Nat), s.guardTrue g = true →
    let n := if dbl then 8 else 4
    let W := 8 * n
    let B := (s.getS b).toNat % 2 ^ W
    let signed := fun x : Nat => if x < 2 ^ (W - 1) then (x : Int) else (x : Int) - 2 ^ W
    let natural := match loc with
      | .mem key => if key < 2 ^ 53 then 1 else if key < 2 ^ 54 then 2 else 3
      | _ => 5;
    (i = .amo g dbl d a b op ord scope ∧ sc = scope.code ∧ (rel = true ↔ ord = .rel ∨ ord = .ar) ∧ (acq = true ↔ ord = .acq ∨ ord = .ar) ∧
        (∀ old, f old = some (match op with
          | .swap => B
          | .add => (old + B) % 2 ^ W
          | .and => old &&& B
          | .or => old ||| B
          | .xor => old ^^^ B
          | .min => if signed old < signed B then old else B
          | .max => if signed old < signed B then B else old
          | .minn => min old B
          | .maxn => max old B)) ∨
      i = .amocas g dbl d a b ar ∧ sc = natural ∧ rel = ar ∧ acq = ar ∧ ∀ old, f old = if old = (s.getS d).toNat % 2 ^ W then some B else none) →
    locate s s.cur .atomic false true (s.getS a) n = .ok v loc →
    let r := if rel then slotRelease v sc else storesEnter v v.cur
    let acquired := fun t : State => if acq then acquire t t.myCl sc else t
    let done := fun (t : State) (old : Nat) => exec i s = .next (ended s ((acquired t).setS d (BitVec.ofInt 64 (signed old))) .seq);
    (∀ key, loc = .mem key → parks v v.cur key n = false → v.lostIn key n = false →
      (rel = true → slotReleased r sc = false → exec i s = .next (blocked r .poll)) ∧
      (rel = false ∨ slotReleased r sc = true → done (match f (r.num key n) with
        | some x => r.write key (bytesOf n x)
        | none => r) (r.num key n))) ∧
    (∀ pa key, loc = .glob pa key → ownMemory v pa = true →
      (rel = true → slotReleased r sc = false → exec i s = .next (blocked r .poll)) ∧
      (rel = false ∨ slotReleased r sc = true →
        let c := cdcFlush r r.myCl pa
        let x := homeUpdate c c.cur c.myCl pa key n f;
        (x.2.1 = .served → done x.1 (ofBytes x.2.2)) ∧ (x.2.1 = .refused → exec i s = .next (blocked x.1 .poll)) ∧
        (x.2.1 = .lost → ∃ t u, exec i s = .next (headTrap (barrelMoved t) t.cur u) ∧ u.cause = 26 ∧ u.addr = s.getS a)))) ∧
  (∀ (s : State) (m cl pa key n : Nat) (f : Nat → Option Nat) (x : L2Line), 0 < n → pa % 512 + n ≤ 512 →
    let off := pa % 2 ^ 42
    let la := off / 512
    let c := slice s (homeSlice s la)
    let old := (List.range n).map fun i => s.mem.get (off + i)
    let after := fun j => match f (ofBytes old) with
      | some v => if off ≤ j ∧ j < off + n then (bytesOf n v).getD (j - off) 0 else s.mem.get j
      | none => s.mem.get j;
    s.memOk = true → c.find la = some x → (s.live.find? fun p => p.1 == la).isSome = true → s.lostIn (512 * la) 512 = false →
    la ∉ s.mgmt.held → la ∉ s.mgmt.snoops → c.reqs = [] → c.fills = [] → c.refused = [] → c.wbuf = [] →
    nsecOf (lineHeader ((List.range 512).map fun i => after (512 * la + i))) ≤ nsecOf x.hdr + c.freeSec →
    let u := homeUpdate s m cl pa key n f;
    u.2 = (.served, old) ∧ ∀ j, u.1.mem.get j = after j)

/-- Table 6.3, R160 to R162, R174: the full/empty instructions on a word that is found. Ready, one does its access, sets F and gives DONE and the old F; where W was set and F changed, W goes and
the fe_wake trap follows the retirement. Not ready under monitor, it gives the old F and changes nothing else; under retry it waits 8 cc, or, past RETRYLIM, sets W and raises fe_wait. The slot's stores enter the
cache first; a load parks on a guarded word, and a ready one of a lost word is a data loss. A change of F is a write that the monitors see (R165). R161: eight cycles after a failed attempt, or once its read is parked no longer, the blocked full/empty instruction makes the next attempt, which is no issue: the barrel of its core does not move for
it (R103); before that nothing happens. R175: at its deadline a waiting `mwait` is no longer blocked. -/
def Obligations.FullEmptyResults : Prop :=
  (∀ (s u : State) (g : Guard) (d a b : Reg) (imm : BitVec 16) (i : Instr) (load : Bool) (need : Option Bool) (after mon : Bool) (key : Nat),
    (i = .ldfe g d a b imm ∧ load = true ∧ need = some true ∧ after = false ∨ i = .ldff g d a b imm ∧ load = true ∧ need = some true ∧ after = true ∨
      i = .ldre g d a b imm ∧ load = true ∧ need = none ∧ after = false ∨ i = .stfe g d a b imm ∧ load = false ∧ need = some false ∧ after = true ∨
      i = .stsf g d a b imm ∧ load = false ∧ need = none ∧ after = true) →
    s.guardTrue g = true →
    let va := s.getS a + imm.signExtend 64
    let info := va.toNat % 2 ^ 32
    let n := feTries s
    feLocate s (if load then .read else .write) (!load) va = .ok u (key, mon) →
    let v := storesEnter u u.cur
    let f := (v.feAt key).f
    let w := (v.feAt key).w
    let ready := need = none ∨ need = some f
    let access : State := if load then v.setS d (wordN (v.num key 8)) else v.write key (bytesOf 8 (v.getS d).toNat)
    let done : State := if f = after then access else access.noteWrite key 8
    let st : Word := wordN (2 * (if f then 1 else 0) + 1);
    (load = true → parks v v.cur key 8 = true → ∃ t age, exec i s = .next (blocked t (.parked age key 8 n)) ∧ t.mem = v.mem) ∧
    (load = true → parks v v.cur key 8 = false → ready → v.lostIn key 8 = true →
      ∃ t x, exec i s = .next (headTrap (barrelMoved t) t.cur x) ∧ x.cause = 26 ∧ x.addr = va ∧ t.fe = v.fe) ∧
    ((load = true → parks v v.cur key 8 = false ∧ (ready → v.lostIn key 8 = false)) →
    (ready → (w = false ∨ f = after) → exec i s = .next (ended s ((done.setFe key ⟨after, w⟩).setS b st) .seq)) ∧
    (ready → w = true → f ≠ after →
      exec i s = .next (endedTrap s ((done.setFe key ⟨after, false⟩).setS b st) ⟨11, 0, BitVec.ofNat 32 info, 0, 0, []⟩)) ∧
    (¬ready → mon = true → exec i s = .next (ended s (v.setS b (wordN (2 * (if f then 1 else 0)))) .seq)) ∧
    (¬ready → mon = false → v.sl.retrylim.toNat < n + 1 →
      exec i s = .next (headTrap (barrelMoved (v.setFe key ⟨f, true⟩)) v.cur ⟨10, 0, BitVec.ofNat 32 info, 0, 0, []⟩)) ∧
    (¬ready → mon = false → n + 1 ≤ v.sl.retrylim.toNat → exec i s = .next (blocked v (.fe (n + 1) (v.cc + 8)))))) ∧
  (∀ (s : State),
    (∀ i, instrAt s.sl = some i →
      (∃ g d a b imm, i = .ldfe g d a b imm ∨ i = .stfe g d a b imm ∨ i = .ldff g d a b imm ∨ i = .ldre g d a b imm ∨ i = .stsf g d a b imm) →
      let due := (∃ n t, s.sl.wait = .fe n t ∧ t ≤ s.cc) ∨ (∃ a k len n, s.sl.wait = .parked a k len n ∧ n ≠ 0 ∧ parks s s.cur k len = false);
      (due → ∃ t, exec i s = .next t ∧
        exec .feRetryAttempt s = .next (t.setCore s.myCore { t.core s.myCore with ptr := (s.core s.myCore).ptr })) ∧
      (¬due → exec .feRetryAttempt s = .next s)) ∧
    (∀ dl, s.sl.wait = .monitor dl →
      (dl ≠ 0 → dl ≤ s.tb → exec .mwaitDeadline s = .next (s.setSl { s.sl with wait := .none })) ∧
      (dl = 0 ∨ s.tb < dl → exec .mwaitDeadline s = .next s)))

/-- R164, R175: `mon` arms the monitor on the sector of s[A] with HIT and REARM clear; `mwait` gives 2 where it is not armed, 0 and disarms it where it has been hit, 1 and clears REARM, 3 at the
deadline, and waits otherwise. R176: `fence` releases, acquires, or does both in this order, at its scope: a release performs the slot's stores, at die scope or wider sends every dirty sector of the cache to its home, and waits until what it has sent, and what went before, is performed there and, at domain scope, acknowledged by other modules. R165: a write of any byte of the watched sector sets HIT of an armed monitor, of whatever slot, and no other. -/
def Obligations.MonitorsAndFences : Prop :=
  (∀ (s : State) (g : Guard) (d a : Reg) (scope : Scope) (kind : MemOrd), s.guardTrue g = true →
    (∀ v key, locate s s.cur .read false false (s.getS a) 1 = .ok v (.mem key) →
      exec (.mon g a) s = .next (ended s (v.setSl { v.sl with mon := ⟨(s.getS a).extractLsb' 6 58, key / 64 * 64, true, false, false⟩ }) .seq)) ∧
    (∀ v pa key, locate s s.cur .read false false (s.getS a) 1 = .ok v (.glob pa key) → pa / 2 ^ 42 = v.module.toNat →
      exec (.mon g a) s =
        .next (ended s (v.setSl { v.sl with mon := ⟨(s.getS a).extractLsb' 6 58, pa % 2 ^ 42 / 64 * 64, true, false, false⟩ }) .seq)) ∧
    (let m := s.sl.mon;
      m.key < 2 ^ 55 →
      (m.armed = false → exec (.mwait g d a) s = .next (ended s (s.setS d 2) .seq)) ∧
      (m.armed = true → m.hit = true →
        exec (.mwait g d a) s = .next (ended s ((s.setSl { s.sl with mon := { m with armed := false, rearm := false } }).setS d 0) .seq)) ∧
      (m.armed = true → m.hit = false → m.rearm = true →
        exec (.mwait g d a) s = .next (ended s ((s.setSl { s.sl with mon := { m with rearm := false } }).setS d 1) .seq)) ∧
      (m.armed = true → m.hit = false → m.rearm = false → s.getS a ≠ 0 → (s.getS a).toNat ≤ s.tb →
        exec (.mwait g d a) s = .next (ended s (s.setS d 3) .seq)) ∧
      (m.armed = true → m.hit = false → m.rearm = false → (s.getS a = 0 ∨ s.tb < (s.getS a).toNat) →
        exec (.mwait g d a) s = .next (blocked s (.monitor (s.getS a).toNat)))) ∧
    (let r := slotRelease s scope.code
      let rel := kind = .rel ∨ kind = .ar;
      (¬rel ∨ slotReleased r scope.code = true → exec (.fence g scope kind) s = .next (ended s
        (match kind with | .relaxed => s | .rel => r | .acq => acquire s s.myCl scope.code | .ar => acquire r r.myCl scope.code) .seq)) ∧
      (rel → slotReleased r scope.code = false → exec (.fence g scope kind) s = .next (blocked r .poll)) ∧
      (scope.code < 4 → r = storesEnter s s.cur) ∧ (4 ≤ scope.code → s.sl.rel.isSome = true → r = s) ∧
      (4 ≤ scope.code → s.sl.rel = none →
        let q := sendAll (storesEnter s s.cur) s.myCl;
        r = q.setSl { q.sl with rel := some q.age }) ∧
      (slotReleased r scope.code = true ↔ scope.code < 4 ∨
        (writesUpTo r (whoCdc r.myCl) (r.sl.rel.getD r.age) = false ∧ (scope.code < 6 ∨ awayUpTo r (whoCdc r.myCl) (r.sl.rel.getD r.age) = false)))) ∧
    (scope.code < 4 → release s s.myCl scope.code = s ∧ acquire s s.myCl scope.code = s)) ∧
  (∀ (s : State) (k : Nat) (bs : List Byte) (q : Nat), bs ≠ [] → (s.slot q).mon.armed = true →
    let m := (s.slot q).mon;
    ((s.write k bs).slot q).mon = (if m.key < k + bs.length ∧ k < m.key + 64 then { m with hit := true } else m))

/-- R157, R177, R178: `spal` gives the address of the lowest run of free blocks that is long enough and records the allocation, or 0; `spfr` of an allocation that `spal` made in this launch gives 0, once the stores in the queues of the cluster's slots are performed, and its
blocks are zeroed before they are free; of one that the launch started with 2; of an address that names none 1. A freed block is zeroed by an event of its own. R174: `fecl` over words of one full/empty allocation sets F to X and clears W of every one, and no other; where a marked word's F changes, the fe_wake trap for the lowest such word follows the retirement. A
misaligned address or length is an alignment fault, a range with a byte in a hole of the address map an address fault, and another that is empty or above 32,768 bytes an access fault. -/
def Obligations.ScratchpadAllocation : Prop :=
  (∀ (s : State) (g : Guard) (d a : Reg) (bank : BitVec 3) (fe side : BitVec 2), s.guardTrue g = true →
    let A := s.getS a
    let len := A.toNat
    let c := s.cluster s.myCl
    let n := (len + 4095) / 4096;
    (len = 0 ∨ 0x800000 < len ∨ 64 ≤ c.allocs.length ∨ cspFit c n = none → exec (.spal g d a bank fe side) s = .next (ended s (s.setS d 0) .seq)) ∧
    (0 < len → len ≤ 0x800000 → c.allocs.length < 64 → ∀ b, cspFit c n = some b →
      (b + n ≤ 2048 ∧ ∀ x ∈ c.allocs, x.base + x.blocks ≤ b ∨ b + n ≤ x.base) ∧ (∀ b' < b, cspRunFree c b' n = false) ∧
      ∃ t : State, exec (.spal g d a bank fe side) s = .next (ended s (t.setS d (wordN (0x800000 + 4096 * b))) .seq) ∧
        (t.cluster s.myCl).allocs = c.allocs ++ [⟨b, n, bank.toNat, side.toNat, fe.toNat, true, s.myLaunch⟩] ∧ t.mem = s.mem ∧ t.slots = s.slots ∧
        ∀ i < 4096 * n, (t.feAt (2 ^ 54 + s.myCl * 2 ^ 23 + 4096 * b + i)) = ⟨false, false⟩) ∧
    (let q := clusterStores s s.myCl
      let c := q.cluster q.myCl
      let found := c.allocs.find? fun x => q.getS a == wordN (0x800000 + 4096 * x.base) && some x.owner == c.launch;
      (found = none → exec (.spfr g d a) s = .next (ended s (q.setS d 1) .seq)) ∧
      (∀ x, found = some x → x.spal = false → exec (.spfr g d a) s = .next (ended s (q.setS d 2) .seq)) ∧
      (∀ x, found = some x → x.spal = true → ∃ t : State, exec (.spfr g d a) s = .next (ended s (t.setS d 0) .seq) ∧ t.mem = q.mem ∧ t.slots = q.slots ∧
        (t.cluster q.myCl).zeroing = c.zeroing ++ [(x.base, x.blocks)] ∧ (t.cluster q.myCl).allocs = c.allocs.filter (· != x)) ∧
      ((∀ k < 64, (s.slot (64 * s.myCl + k)).sq = []) → q = s)) ∧
    (∀ cl b k r, (s.cluster cl).zeroing = (b, k) :: r → ∃ t : State, exec (.cspBlockZeroed cl) s = .next t ∧
      (t.cluster cl).zeroing = (if k ≤ 1 then r else (b + 1, k - 1) :: r) ∧
      (∀ j, t.mem.get j = if 2 ^ 54 + cl * 2 ^ 23 + 4096 * b ≤ j ∧ j < 2 ^ 54 + cl * 2 ^ 23 + 4096 * b + 4096 then 0 else s.mem.get j)) ∧
    (∀ cl, (s.cluster cl).zeroing = [] → exec (.cspBlockZeroed cl) s = .next s)) ∧
  (∀ (s : State) (g : Guard) (a b : Reg) (full : Bool) (lo hi : Nat), s.guardTrue g = true →
    let va := s.getS a
    let w := whereIs va
    let len := (s.getS b).toNat
    let key := localKey s.myCore w;
    (va.toNat % 8 ≠ 0 ∨ len % 8 ≠ 0 → exec (.fecl g a b full) s = .next (headTrap (barrelMoved s) s.cur (memTrap 8 .write va))) ∧
    (va.toNat % 8 = 0 → len = 0 ∨ (len % 8 = 0 ∧ 32768 < len ∧ rangeAddress s s.cur .write va len = none) →
      exec (.fecl g a b full) s = .next (headTrap (barrelMoved s) s.cur (memTrap 6 .write va))) ∧
    (va.toNat % 8 = 0 → len % 8 = 0 → 0 < len → ∀ x, rangeAddress s s.cur .write va len = some x →
      exec (.fecl g a b full) s = .next (headTrap (barrelMoved s) s.cur x)) ∧
    (touchesHole va len = true → rangeAddress s s.cur .write va len = some (memTrap 7 .write va)) ∧
    (va.toNat % 8 = 0 → len % 8 = 0 → 0 < len → len ≤ 32768 → checkWhere s s.cur .write false va 1 = none →
      feRegion s s.myCore w = some (lo, hi) → key + len ≤ hi → (∀ n, w.bound = some n → len ≤ n) →
      let e := storesEnter s s.cur
      ∃ t : State, t.mem = e.mem ∧
        (∀ k, t.feAt k = if key / 8 ≤ k / 8 ∧ k / 8 < key / 8 + len / 8 then ⟨full, false⟩ else e.feAt k) ∧
        ((∀ j < len / 8, ¬((e.feAt (key + 8 * j)).w = true ∧ (e.feAt (key + 8 * j)).f ≠ full)) →
          exec (.fecl g a b full) s = .next (ended s t .seq)) ∧
        (∀ j < len / 8, (e.feAt (key + 8 * j)).w = true → (e.feAt (key + 8 * j)).f ≠ full →
          (∀ i < j, ¬((e.feAt (key + 8 * i)).w = true ∧ (e.feAt (key + 8 * i)).f ≠ full)) →
          exec (.fecl g a b full) s = .next (endedTrap s t ⟨11, 0, BitVec.ofNat 32 (va.toNat + 8 * j), 0, 0, []⟩))))

/-- R185, R186, R188, R189, R194: every vector head of chapter 7 that needs a claim raises a lane trap without one. Where no lane is active a head only performs its signal and retires, once no
drain into a register that it reads is pending; `vext` and `vins` of a lane that the claim has not raise a lane trap even then. Lane writes replace the destination in the active lanes only,
leave every other lane, register and mask, and m0 takes none. -/
def Obligations.LanesAndMasks : Prop :=
  ∀ (s : State) (g : Guard) (d : Reg) (f : Nat → BitVec 32) (p : Nat → Bool) (fl : Flags),
    (∀ (i : Instr) (rs : List Reg) (e : Option Eng) (n : Option Reg), laneForm i = some (g, rs, e, n) →
      (grant s = 0 → exec i s = .next (headTrap (barrelMoved s) s.cur ⟨15, 1, 0, 0, 0, []⟩)) ∧
      (0 < grant s → ∀ b, n = some b → grant s ≤ (s.getS b).toNat →
        exec i s = .next (headTrap (barrelMoved s) s.cur ⟨15, 3, BitVec.ofNat 32 (s.getS b).toNat, 0, 0, []⟩)) ∧
      (0 < grant s → anyActive s g = false → (∀ b, n = some b → (s.getS b).toNat < grant s) →
        (drainPending s rs = false → exec i s = .next (ended s (signalParcel s e) .seq)) ∧
        (drainPending s rs = true → exec i s = .next (blocked s .poll)))) ∧
    (grant s = 0 → ∀ (ty : EltTy) (rm : Rm) (a : Reg) (red : RedOp),
      exec (.vred g ty rm d a red) s = .next (headTrap (barrelMoved s) s.cur ⟨15, 1, 0, 0, 0, []⟩)) ∧
    (∀ l, active s g l = true ↔ l < grant s ∧ ((g.gi = 0 ∨ (s.sl.claim.m[g.gi]).getD l false = true) ↔ g.gn = false)) ∧
    (let t := writeLanes s g d f;
      (∀ l < grant s, lane t d l = if active s g l then f l else lane s d l) ∧ (∀ r l, r ≠ d → lane t r l = lane s r l) ∧
      t.sl = { s.sl with claim := { s.sl.claim with v := t.sl.claim.v } } ∧ (∀ q, q ≠ s.cur → t.slot q = s.slot q) ∧ { t with slots := s.slots } = s) ∧
    (∀ i : Fin 8,
      let t := writeMask s g i p;
      (∀ l < grant s, i ≠ 0 → maskBit t i l = if active s g l then p l else maskBit s i l) ∧ (∀ q l, q ≠ i ∨ i = 0 → maskBit t q l = maskBit s q l) ∧
      t.sl = { s.sl with claim := { s.sl.claim with m := t.sl.claim.m } } ∧ { t with slots := s.slots } = s) ∧
    (s.addFlags fl).sl = { s.sl with fpstat := s.sl.fpstat ||| fl }

/-- R200, Table 7.7, on the integer types: the exact sum, difference, product, fused product, minimum, maximum, absolute value and negation, wrapped to the type, or clamped to it with SAT, which
sets the SAT flag where it changes a value. The destination register holds the sign extension of a signed element and the zero extension of an unsigned one (R184). R200, R203, R34 to R41, on the float types: the value is the one that chapter 2 rounds once, with its flags; minimum and maximum follow Table 2.4; a sign operation changes the sign bit
only, but a NaN becomes canonical. R34 to R39, Tables 2.3 and 2.4: what these values are. The exact sum, product or fused product of finite operands is rounded once: to the multiple of the last place of the format
that the mode names, with NX where it is not exact, UF where it is tiny too, and the overflow value with OF where it passes the greatest exponent. An exact zero sum is +0, and −0 where both are −0 or the mode is rdn; a NaN operand gives the
canonical NaN, with NV where one is signalling; zero times infinity, and infinities of different sign added, are invalid. -/
def Obligations.VectorArithmetic : Prop :=
  (∀ (s : State) (g : Guard) (ty : EltTy) (rm : Rm) (d a b c : Reg) (sat : Bool),
    EltTy.float ty = none → anyActive s g = true → drainPending s [a, b, c] = false →
    let W := EltTy.width ty
    let sg := ty.isSigned
    let lo : Int := if sg then -(2 ^ (W - 1)) else 0
    let hi : Int := if sg then 2 ^ (W - 1) - 1 else 2 ^ W - 1
    let E := fun (r : Reg) (l : Nat) =>
      let n := (lane s r l).toNat % 2 ^ W;
      if sg ∧ 2 ^ (W - 1) ≤ n then (n : Int) - 2 ^ W else (n : Int)
    let fit := fun x : Int => if sat then max lo (min hi x) else if sg then Int.bmod x (2 ^ W) else x % (2 ^ W : Int)
    let out := fun (x : Nat → Int) => (writeLanes s g d fun l => BitVec.ofInt 32 (fit (x l))).addFlags
      (laneFlags s g fun l => if sat = true ∧ fit (x l) ≠ x l then fSAT else 0)
    exec (.vadd g ty rm d a b sat) s = .next (ended s (out fun l => E a l + E b l) .seq) ∧
    exec (.vsub g ty rm d a b sat) s = .next (ended s (out fun l => E a l - E b l) .seq) ∧
    exec (.vmul g ty rm d a b sat) s = .next (ended s (out fun l => E a l * E b l) .seq) ∧
    exec (.vfma g ty rm d a b c sat) s = .next (ended s (out fun l => E a l * E b l + E c l) .seq) ∧
    exec (.vfms g ty rm d a b c sat) s = .next (ended s (out fun l => E a l * E b l - E c l) .seq) ∧
    exec (.vabs g ty d a sat) s = .next (ended s (out fun l => if E a l < 0 then -E a l else E a l) .seq) ∧
    exec (.vchs g ty d a sat) s = .next (ended s (out fun l => -E a l) .seq) ∧
    exec (.vmin g ty d a b) s = .next (ended s (writeLanes s g d fun l => BitVec.ofInt 32 (min (E a l) (E b l))) .seq) ∧
    exec (.vmax g ty d a b) s = .next (ended s (writeLanes s g d fun l => BitVec.ofInt 32 (max (E a l) (E b l))) .seq) ∧
    exec (.vclamp g ty d a b c) s = .next (ended s (writeLanes s g d fun l => BitVec.ofInt 32 (min (max (E a l) (E b l)) (E c l))) .seq)) ∧
  (∀ (s : State) (g : Guard) (ty : EltTy) (f : FloatTy) (rm : Rm) (d a b c : Reg) (sat : Bool),
    EltTy.float ty = some f → anyActive s g = true → drainPending s [a, b, c] = false →
    let E := fun (r : Reg) (l : Nat) => eltBits ty (lane s r l)
    let X := fun (r : Reg) (l : Nat) => fdec f (E r l)
    let out := fun (x : Nat → Nat × Flags) => (writeLanes s g d fun l => BitVec.ofNat 32 ((x l).1 % 2 ^ EltTy.width ty)).addFlags (laneFlags s g fun l => (x l).2)
    let top := 2 ^ (EltTy.width ty - 1)
    let nan := fun l => (FloatTy.nanBits f, sigFlags [X a l]);
    (let x := fun l => addVal f rm (X a l) (X b l); exec (.vadd g ty rm d a b sat) s = .next (ended s (out x) .seq)) ∧
    (let x := fun l => addVal f rm (X a l) (X b l).neg; exec (.vsub g ty rm d a b sat) s = .next (ended s (out x) .seq)) ∧
    (let x := fun l => fmul f rm (X a l) (X b l); exec (.vmul g ty rm d a b sat) s = .next (ended s (out x) .seq)) ∧
    (let x := fun l => ffma f rm (X a l) (X b l) (X c l); exec (.vfma g ty rm d a b c sat) s = .next (ended s (out x) .seq)) ∧
    (let x := fun l => ffma f rm (X a l) (X b l) (X c l).neg; exec (.vfms g ty rm d a b c sat) s = .next (ended s (out x) .seq)) ∧
    (let x := fun l => fminmax f false (E a l) (E b l); exec (.vmin g ty d a b) s = .next (ended s (out x) .seq)) ∧
    (let x := fun l => fminmax f true (E a l) (E b l); exec (.vmax g ty d a b) s = .next (ended s (out x) .seq)) ∧
    (let x := fun l => let y := fminmax f true (E a l) (E b l); let z := fminmax f false y.1 (E c l); (z.1, y.2 ||| z.2);
      exec (.vclamp g ty d a b c) s = .next (ended s (out x) .seq)) ∧
    exec (.vabs g ty d a sat) s = .next (ended s (out fun l => if (X a l).isNan then nan l else (E a l % top, 0)) .seq) ∧
    exec (.vchs g ty d a sat) s = .next (ended s (out fun l => if (X a l).isNan then nan l else ((E a l + top) % (2 * top), 0)) .seq)) ∧
  (∀ (f : FloatTy) (rm : Rm) (neg : Bool) (m : Nat) (e : Int),
    let fw := (FloatTy.fw f : Int)
    let bias := (FloatTy.bias f : Int)
    let R := roundTo f rm neg m e;
    (m = 0 → R = (FloatTy.signBit f neg, 0)) ∧
    (m ≠ 0 →
      let top := e + (Nat.log2 m : Int)
      let q := max top (1 - bias) - fw
      ∃ r : Nat, Rounds rm neg m e q r ∧
        (r ≠ 0 → bias < q + (Nat.log2 r : Int) →
          R = (FloatTy.signBit f neg + (if rm = .rne ∨ roundsAway rm neg then FloatTy.infBits f else FloatTy.infBits f - 1), fOF ||| fNX)) ∧
        (r = 0 ∨ q + (Nat.log2 r : Int) ≤ bias →
          (eqVal (fdec f R.1) (.fin neg r q) = true ∧ (fdec f R.1).sign = neg ∧ R.1 < 2 ^ FloatTy.width f) ∧ (R.2 &&& ~~~(fNX ||| fUF)) = 0 ∧
          (R.2 &&& fNX ≠ 0 ↔ Inexact m e q) ∧
          (R.2 &&& fUF ≠ 0 ↔ Inexact m e q ∧ top < 1 - bias ∧
            (top + 1 = 1 - bias → ∃ r', Rounds rm neg m e (top - fw) r' ∧ r' < 2 ^ (FloatTy.fw f + 1)))))) ∧
  (∀ (f : FloatTy) (rm : Rm) (n1 n2 n3 : Bool) (m1 m2 m3 : Nat) (e1 e2 e3 : Int) (x y z : FVal),
    let nan := FloatTy.nanBits f
    let inf := fun n : Bool => FloatTy.signBit f n + FloatTy.infBits f
    let sum := fun (a : Bool) (m : Nat) (e : Int) (b : Bool) (n : Nat) (k : Int) =>
      let t : Int := (if a then -1 else 1) * m * 2 ^ (e - min e k).toNat + (if b then -1 else 1) * n * 2 ^ (k - min e k).toNat;
      if t = 0 then (FloatTy.signBit f (if m = 0 ∧ n = 0 ∧ a = b then a else rm == .rdn), 0) else roundTo f rm (decide (t < 0)) t.natAbs (min e k);
    (addVal f rm (.fin n1 m1 e1) (.fin n2 m2 e2) = sum n1 m1 e1 n2 m2 e2 ∧ addVal f rm (.inf n1) (.fin n2 m2 e2) = (inf n1, 0) ∧
      addVal f rm (.fin n1 m1 e1) (.inf n2) = (inf n2, 0) ∧ addVal f rm (.inf n1) (.inf n2) = (if n1 = n2 then (inf n1, 0) else (nan, fNV)) ∧
      (x.isNan = true ∨ y.isNan = true → addVal f rm x y = (nan, if x.isSig ∨ y.isSig then fNV else 0))) ∧
    (fmul f rm (.fin n1 m1 e1) (.fin n2 m2 e2) = roundTo f rm (n1 != n2) (m1 * m2) (e1 + e2) ∧ fmul f rm (.inf n1) (.inf n2) = (inf (n1 != n2), 0) ∧
      fmul f rm (.inf n1) (.fin n2 m2 e2) = (if m2 = 0 then (nan, fNV) else (inf (n1 != n2), 0)) ∧
      fmul f rm (.fin n1 m1 e1) (.inf n2) = (if m1 = 0 then (nan, fNV) else (inf (n1 != n2), 0)) ∧
      (x.isNan = true ∨ y.isNan = true → fmul f rm x y = (nan, if x.isSig ∨ y.isSig then fNV else 0))) ∧
    (ffma f rm (.fin n1 m1 e1) (.fin n2 m2 e2) (.fin n3 m3 e3) = sum (n1 != n2) (m1 * m2) (e1 + e2) n3 m3 e3 ∧
      ffma f rm (.fin n1 m1 e1) (.fin n2 m2 e2) (.inf n3) = (inf n3, 0) ∧
      (m2 ≠ 0 → ffma f rm (.inf n1) (.fin n2 m2 e2) z = addVal f rm (.inf (n1 != n2)) z ∧
        ffma f rm (.fin n2 m2 e2) (.inf n1) z = addVal f rm (.inf (n2 != n1)) z) ∧
      ffma f rm (.inf n1) (.inf n2) z = addVal f rm (.inf (n1 != n2)) z ∧
      ffma f rm (.inf n1) (.fin n2 0 e2) z = (nan, fNV) ∧ ffma f rm (.fin n1 0 e1) (.inf n2) z = (nan, fNV) ∧
      (x.isNan = true ∨ y.isNan = true → ffma f rm x y z = (nan, if x.isSig ∨ y.isSig ∨ z.isSig then fNV else 0)) ∧
      (z.isNan = true → ffma f rm (.fin n1 m1 e1) (.fin n2 m2 e2) z = (nan, if z.isSig then fNV else 0))) ∧
    (FloatTy.nanBits .f32 = 0x7FC00000 ∧ FloatTy.nanBits .bf16 = 0x7FC0 ∧ FloatTy.nanBits .f16 = 0x7E00 ∧
      FloatTy.infBits .f32 = 0x7F800000 ∧ FloatTy.infBits .bf16 = 0x7F80 ∧ FloatTy.infBits .f16 = 0x7C00))

/-- R201, R203, R209, R210: logic on all bits of the element, shifts by the amount modulo the width, selection by a mask, splat of s[A], the copy of an element out of and into a lane, and the moves
between registers and masks. An element number at or above G raises a lane trap (R194). R202: `vcmp` writes lt to the even mask of its pair and eq to the odd one, in the active lanes, each combined with the old bit as CMB says; a write to m0 is discarded. Integers compare by value, floats by value
with every comparison of a NaN false. -/
def Obligations.VectorLogicMovesAndCompares : Prop :=
  (∀ (s : State) (g : Guard) (ty : EltTy) (d a b : Reg) (m : Fin 8) (imm : Bool) (n : BitVec 5),
    grant s ≠ 0 → drainPending s [a, b] = false →
    let W := EltTy.width ty
    let R := fun (r : Reg) (l : Nat) => lane s r l
    let U := fun (r : Reg) (l : Nat) => (R r l).toNat % 2 ^ W
    let S := fun (r : Reg) (l : Nat) => if 2 ^ (W - 1) ≤ U r l then (U r l : Int) - 2 ^ W else (U r l : Int)
    let ext := fun u : Nat => if ty.isSigned then BitVec.signExtend 32 (BitVec.ofNat W u) else BitVec.setWidth 32 (BitVec.ofNat W u)
    let k := fun l => (if imm then n.toNat else (R b l).toNat % 32) % W
    let out := fun (x : Nat → BitVec 32) => Host.Outcome.next (ended s (writeLanes s g d x) .seq)
    let B := (s.getS b).toNat;
    (anyActive s g = true →
      (exec (.vand g ty d a b) s = out (fun l => ext (R a l &&& R b l).toNat) ∧ exec (.vor g ty d a b) s = out (fun l => ext (R a l ||| R b l).toNat) ∧
        exec (.vxor g ty d a b) s = out (fun l => ext (R a l ^^^ R b l).toNat) ∧
        exec (.vshl g ty d a b imm n) s = out (fun l => ext (U a l * 2 ^ k l)) ∧ exec (.vshr g ty d a b imm n) s = out (fun l => ext (U a l / 2 ^ k l)) ∧
        exec (.vsar g ty d a b imm n) s = out (fun l => ext ((S a l / 2 ^ k l) % 2 ^ W).toNat) ∧
        exec (.vsel g ty d a b m) s = out (fun l => if maskBit s m l then R a l else R b l) ∧
        exec (.vsplat g ty d a) s = out (fun _ => ext (s.getS a).toNat)) ∧
      (exec (.vmov g ty d a 0) s = out (fun l => R a l) ∧
        exec (.vmov g ty d a 1) s = out (fun l => if maskBit s (maskNo a) l then 1 else 0) ∧
        exec (.vmov g ty d a 2) s = .next (ended s (writeMask s g (maskNo d) fun l => U a l != 0) .seq) ∧
        exec (.vmov g ty d a 3) s = .next (ended s (writeMask s g (maskNo d) fun l => maskBit s (maskNo a) l) .seq)) ∧
      (B < grant s →
        exec (.vext g ty d a b) s = .next (ended s (if active s g B then
          s.setS d (if ty.isSigned then BitVec.ofInt 64 (S a B) else BitVec.ofNat 64 (U a B)) else s) .seq) ∧
        exec (.vins g ty d a b) s = out (fun l => if l = B then ext (s.getS a).toNat else R d l))) ∧
    (grant s ≤ B → ∀ i ∈ [Instr.vext g ty d a b, .vins g ty d a b],
      exec i s = .next (headTrap (barrelMoved s) s.cur ⟨15, 3, BitVec.ofNat 32 B, 0, 0, []⟩))) ∧
  (∀ (s : State) (g : Guard) (ty : EltTy) (j : Fin 4) (a b : Reg) (cmb : CmbOp),
    anyActive s g = true → drainPending s [a, b] = false →
    let E := fun (r : Reg) (l : Nat) => eltBits ty (lane s r l)
    let lt := fun l => match EltTy.float ty with
      | none => decide (eltInt ty (E a l) < eltInt ty (E b l))
      | some f => !(fdec f (E a l)).isNan && !(fdec f (E b l)).isNan && ltVal (fdec f (E a l)) (fdec f (E b l))
    let eq := fun l => match EltTy.float ty with
      | none => E a l == E b l
      | some f => !(fdec f (E a l)).isNan && !(fdec f (E b l)).isNan && eqVal (fdec f (E a l)) (fdec f (E b l))
    let op := fun (old new : Bool) => match cmb with | .set => new | .and => old && new | .or => old || new | .xor => old != new
    let me := Fin.ofNat 8 (2 * j.val)
    let mo := Fin.ofNat 8 (2 * j.val + 1)
    ∃ t : State, exec (.vcmp g ty j a b cmb) s = .next (ended s t .seq) ∧
      (∀ l < grant s, me ≠ 0 → maskBit t me l = if active s g l then op (maskBit s me l) (lt l) else maskBit s me l) ∧
      (∀ l < grant s, maskBit t mo l = if active s g l then op (maskBit s mo l) (eq l) else maskBit s mo l) ∧
      (∀ q l, (q ≠ me ∨ q = 0) → q ≠ mo → maskBit t q l = maskBit s q l) ∧ (∀ r l, lane t r l = lane s r l) ∧
      (EltTy.float ty = none → t.sl.fpstat = s.sl.fpstat) ∧ t.sl.s = s.sl.s ∧ { t with slots := s.slots } = s)

/-- R204 to R208: conversions, quantisation to MXINT8 by blocks of 32 lanes and back, ternarisation and reductions, with their flags. The reduction writes s[D] even where no lane is active; an
integer one is exact in 64 bits. R40, R41, R46, R47, R55: what these values are. A conversion rounds once to the destination; to an integer a value outside the range, an infinity and a NaN give the nearest bound, the bound and zero, with NV; between integers
a value outside the range is clamped, with SAT. The scale of a block is its greatest exponent, 0xFF where it holds a NaN or an infinity; an element is rounded to nearest and clamped. A float reduction is the canonical tree: a list of two halves of the same power of two is the node of
their trees, where an absent half passes the other through. -/
def Obligations.VectorConversionsAndReductions : Prop :=
  (∀ (s : State) (g : Guard) (ty src : EltTy) (f : FloatTy) (rm irm : Rm) (d a b : Reg) (det : Bool) (red : RedOp),
    grant s ≠ 0 → drainPending s [a, a + 1, b] = false →
    let E := fun (t : EltTy) (r : Reg) (l : Nat) => eltBits t (lane s r l)
    let F := FloatTy.elt f
    (anyActive s g = true →
      exec (.vcvt g ty rm d a irm src) s = .next (ended s ((writeLanes s g d fun l => eltReg ty (cvtElt src ty rm irm (E src a l)).1).addFlags
        (laneFlags s g fun l => (cvtElt src ty rm irm (E src a l)).2)) .seq) ∧
      (let x := fun l => mxScale f (mxBlock s g f a (l / 32))
        let q := fun l => mxElement f (x l) (E F a l)
        let p := writeLanes s g d fun l => BitVec.ofInt 32 (q l).1;
        exec (.vmxq g f d a) s =
          .next (ended s ((writeLanes p g (d + 1) fun l => eltReg .n8 (x l)).addFlags (laneFlags s g fun l => (q l).2)) .seq)) ∧
      (let x := fun l => mxValue f rm ((lane s a l).toNat % 256) ((lane s (a + 1) l).toNat % 256);
        exec (.vmxd g f rm d a) s = .next (ended s ((writeLanes s g d fun l => eltReg F (x l).1).addFlags (laneFlags s g fun l => (x l).2)) .seq)) ∧
      (let c := s.sl.vcoord;
        let x := fun l => let v := fdec f (E F a l); let q := fdec f (E F b l);
          (if det then ternDet v q else ternStoch v q (ternDraw s.sl.vseed (c.extractLsb' 32 32) (c.extractLsb' 0 32 + BitVec.ofNat 32 l)));
        exec (.vtern g f d a b det) s = .next (ended s ((writeLanes s g d fun l => BitVec.ofInt 32 (x l).1).addFlags
          (laneFlags s g fun l => if (x l).2 then fNV else 0)) .seq)) ∧
      ∀ v q : FVal, ∀ draw, (ternDet v q).1 ∈ [(-1 : Int), 0, 1] ∧ (ternStoch v q draw).1 ∈ [(-1 : Int), 0, 1]) ∧
    (let l := (List.range (grant s)).map fun l => if active s g l then some (E ty a l) else none;
      (exec (.vred g ty rm d a red) s = .next (ended s ((s.setS d (wordN (reduce ty rm red l).1)).addFlags (reduce ty rm red l).2) .seq)) ∧
      (EltTy.float ty = none →
        let is := (l.filterMap id).map (eltInt ty);
        exec (.vred g ty rm d a .add) s = .next (ended s (s.setS d (BitVec.ofInt 64 is.sum)) .seq)))) ∧
  (∀ (src dst : EltTy) (f h : FloatTy) (rm irm : Rm) (a : Nat),
    (src = dst → cvtElt src dst rm irm a = (a, 0)) ∧
    (src ≠ dst →
      (EltTy.float src = some f → EltTy.float dst = some h →
        (∀ g, fdec f a = .nan g → cvtElt src dst rm irm a = (FloatTy.nanBits h, if g then fNV else 0)) ∧
        (∀ n, fdec f a = .inf n → cvtElt src dst rm irm a = (FloatTy.signBit h n + FloatTy.infBits h, 0)) ∧
        (∀ n m e, fdec f a = .fin n m e → cvtElt src dst rm irm a = roundTo h rm n m e)) ∧
      (EltTy.float src = some f → EltTy.float dst = none →
        let lo := eltMin dst
        let hi := eltMax dst
        let give := fun (i : Int) (fl : Flags) => cvtElt src dst rm irm a = ((i % 2 ^ EltTy.width dst).toNat, fl);
        (∀ g, fdec f a = .nan g → give 0 fNV) ∧ (∀ n, fdec f a = .inf n → give (if n then lo else hi) fNV) ∧
        (∀ n m e, fdec f a = .fin n m e → ∃ r, Rounds irm n m e 0 r ∧
          let i : Int := if n then -(r : Int) else r;
          (i < lo → give lo fNV) ∧ (hi < i → give hi fNV) ∧ (lo ≤ i → i ≤ hi → (Inexact m e 0 → give i fNX) ∧ (¬Inexact m e 0 → give i 0)))) ∧
      (EltTy.float src = none → EltTy.float dst = some h →
        cvtElt src dst rm irm a = roundTo h rm (decide (eltInt src a < 0)) (eltInt src a).natAbs 0) ∧
      (EltTy.float src = none → EltTy.float dst = none →
        let i := eltInt src a
        let c := max (eltMin dst) (min (eltMax dst) i);
        cvtElt src dst rm irm a = ((c % 2 ^ EltTy.width dst).toNat, if c = i then 0 else fSAT)))) ∧
  (∀ (f : FloatTy) (rm : Rm) (l : List Nat) (x n p : Nat),
    let val := fun k => fdec f (if fsub f k then 0 else k)
    let X := mxScale f l;
    ((∃ k ∈ l, ∀ g m e, val k ≠ .fin g m e) → X = 255) ∧
    ((∀ k ∈ l, ∃ g m e, val k = .fin g m e) →
      (∀ k ∈ l, ∀ g m e, val k = .fin g m e → m ≠ 0 → e + (Nat.log2 m : Int) + 127 ≤ X) ∧
      (X = 0 ∨ ∃ k ∈ l, ∃ g m e, val k = .fin g m e ∧ m ≠ 0 ∧ (X : Int) = e + (Nat.log2 m : Int) + 127)) ∧
    (mxElement f 255 n = (0, fNV) ∧ (∀ g e, x ≠ 255 → val n = .fin g 0 e → mxElement f x n = (0, 0)) ∧
      ((∀ g m e, val n ≠ .fin g m e) → mxElement f x n = (0, fNV)) ∧
      (∀ g m e, x ≠ 255 → val n = .fin g m e → m ≠ 0 →
        let k := e + 6 - ((x : Int) - 127)
        ∃ r, Rounds .rne g m k 0 r ∧
          let i : Int := if g then -(r : Int) else r;
          (mxElement f x n).1 = max (-128) (min 127 i) ∧ ((mxElement f x n).2 &&& fSAT ≠ 0 ↔ 127 < i) ∧ ((mxElement f x n).2 &&& fNX ≠ 0 ↔ Inexact m k 0) ∧
          ((mxElement f x n).2 &&& ~~~(fSAT ||| fNX)) = 0)) ∧
    (let i : Int := if p % 256 < 128 then ((p % 256 : Nat) : Int) else ((p % 256 : Nat) : Int) - 256;
      mxValue f rm p 255 = (FloatTy.nanBits f, 0) ∧ (x ≠ 255 → mxValue f rm p x = roundTo f rm (decide (i < 0)) i.natAbs ((x : Int) - 133)))) ∧
  (∀ (ty : EltTy) (f : FloatTy) (rm : Rm) (red : RedOp) (l r : List (Option Nat)) (k : Nat),
    let node := fun x y => match red with
      | .add => addVal f rm (fdec f x) (fdec f y)
      | .min => fminmax f false x y
      | .max => fminmax f true x y
    let none' := match red with
      | .add => 0
      | .min => FloatTy.infBits f
      | .max => FloatTy.signBit f true + FloatTy.infBits f
    let ints := (l.filterMap id).map (eltInt ty);
    (EltTy.float ty = some f → (reduce ty rm red l).1 = match (treeGo node (Nat.log2 l.length + 1) l).1 with
      | some n => if (fdec f n).isNan then FloatTy.nanBits f else n
      | none => none') ∧
    (l.length = 2 ^ k → r.length = 2 ^ k →
      let a := treeGo node k l
      let b := treeGo node k r
      let t := treeGo node (k + 1) (l ++ r);
      t.1 = (match a.1, b.1 with
        | some x, some y => some (node x y).1
        | some x, none => some x
        | none, y => y) ∧
      (∀ x y, a.1 = some x → b.1 = some y → t.2 = a.2 ||| b.2 ||| (node x y).2) ∧ (a.1 = none ∨ b.1 = none → t.2 = a.2 ||| b.2)) ∧
    (∀ x, treeGo node 0 [x] = (x, 0)) ∧
    (EltTy.float ty = none → ints ≠ [] →
      (∃ i ∈ ints, (∀ j ∈ ints, i ≤ j) ∧ wordN (reduce ty rm .min l).1 = BitVec.ofInt 64 i) ∧
      (∃ i ∈ ints, (∀ j ∈ ints, j ≤ i) ∧ wordN (reduce ty rm .max l).1 = BitVec.ofInt 64 i)))

/-- R199: a vector load gives each active lane the element at its address, zero-extended, and leaves the other lanes; a store writes the low bytes of the active lanes in order, the higher lane last. Lane l
is at s[A] + sext(off) + l × size, or + l × s[B] in the strided forms; the checks are made for all lanes before anything is changed. A store whose bytes wait at a home slice retires, with its
signal, when they are performed (R337). -/
def Obligations.VectorMemoryResults : Prop :=
  ∀ (s : State) (g : Guard) (z : VSize) (d a b : Reg) (off : BitVec 14) (sync : Option Eng) (strided : Bool),
    anyActive s g = true → waitMet s sync → drainPending (bodyState s sync) [d] = false →
    let n := VSize.bytes z
    let u := bodyState s sync
    let at' := fun l : Nat => s.getS a + off.signExtend 64 + (if strided then wordN l * s.getS b else wordN (l * n))
    let ls := (List.range (grant s)).filter (active s g)
    let vas := ls.map at'
    let ld : Instr := if strided then .vlds g z d a b off sync else .vld g z d a off sync
    let st : Instr := if strided then .vsts g z d a b off sync else .vst g z d a off sync
    (∀ x, lanesCheck u .read n vas = some x → exec ld s = .next (headTrap (barrelMoved u) u.cur x)) ∧
    (∀ x, lanesCheck u .write n vas = some x → exec st s = .next (headTrap (barrelMoved u) u.cur x)) ∧
    (lanesCheck u .read n vas = none → ∀ v es w vs, lanesXlate u .read n vas = .ok v es → elemsRead v n (vas.zip es) = .ok w vs →
      exec ld s = .next (ended s (signalParcel
        (writeLanes w g d fun l => BitVec.ofNat 32 (((ls.zip vs).find? fun p => p.1 == l).elim 0 (·.2))) sync) .seq)) ∧
    (lanesCheck u .write n vas = none → ∀ v es w, lanesXlate u .write n vas = .ok v es →
      elemsWrite v (((vas.zip es).zip ls).map fun x => (x.1.1, x.1.2, bytesOf n (lane v d x.2).toNat)) = .ok w () →
      (unperformed w u.cur = false → exec st s = .next (ended s (signalParcel w sync) .seq)) ∧
      (unperformed w u.cur = true → exec st s = .next (blocked w (.performs sync)))) ∧
    ((vas.any fun va => va.toNat % n != 0) = true → ∃ va ∈ vas, lanesCheck u .read n vas = some (memTrap 8 .read va))

/-- R179 to R181, R196 to R198: claims. A request goes to the pool of the octet, and the slot waits; `vrel` gives its lanes back at once. The pool grants the lanes that a request wants while it has them, at least the minimum, in order
of arrival; the oldest waiting request comes before any other, and behind one that waits a claim waits too or gets no lanes, and no claim grows; lanes that are granted are zero; a claim
that is re-negotiated keeps the contents of the lanes that it keeps, and has zeros in those that it gains. R190, R211: `sfn` sends the active lanes to the SFU of the quad, and the slot is parked; the SFU answers its oldest request: the lanes that were active take the function's value, the flags are set, and the head
retires. A reciprocal and a square root are correctly rounded; a NaN gives the canonical NaN, and infinities and zeros what Table 7.9 fixes for them. -/
def Obligations.LaneClaimsAndSpecialFunctions : Prop :=
  (∀ (s : State) (g : Guard) (d a : Reg) (w : Bool) (min want : BitVec 9), s.guardTrue g = true →
    let o := s.cur / 32
    let A := (s.getS a).toNat
    let up := fun n : Nat => 16 * ((n + 15) / 16)
    let p := pool s o;
    (grant s ≠ 0 → exec (.vclaim g d a w min) s = .next (headTrap (barrelMoved s) s.cur ⟨15, 2, 0, 0, 0, []⟩)) ∧
    (grant s = 0 → exec (.vclaim g d a w min) s = .next (blocked (setPool s o { p with reqs := p.reqs ++
      [.claim s.cur d (up (Min.min A 256)) (Max.max 16 (Min.min min.toNat (up (Min.min A 256)))) w] }) .lanes)) ∧
    (grant s = 0 → exec (.vrel g) s = .next (ended s s .seq)) ∧
    (grant s ≠ 0 → exec (.vrel g) s = .next (ended s ({ s.setSl { s.sl with claim := Claim.none } with
      pools := tset s.pools o { p with reqs := p.reqs ++ [.back (grant s)] } } : State) .seq)) ∧
    (grant s = 0 → exec (.vreneg g d a want) s = .next (headTrap (barrelMoved s) s.cur ⟨15, 1, 0, 0, 0, []⟩)) ∧
    (grant s ≠ 0 → exec (.vreneg g d a want) s = .next (blocked (setPool s o { p with reqs := p.reqs ++
      [.reneg s.cur d (Min.min (up (Min.min A 256)) (grant s)) (up want.toNat)] }) .lanes)) ∧
    (∀ k,
      let q := pool s k;
      (∀ m r want least wait bs, q.blocked = .claim m r want least wait :: bs → least ≤ q.free →
        ∃ v : State, exec (.vlpRequestService k) s = .next (finish (v.setSAt m r (wordN (Min.min want q.free))) m .seq (stepping s m) none) ∧
          pool v k = { q with blocked := bs, free := q.free - Min.min want q.free } ∧
          (0 < Min.min want q.free → (v.slot m).claim.g = Min.min want q.free ∧
            ∀ (x : Reg), ∀ l < Min.min want q.free, ((v.slot m).claim.v[x]).getD l 1 = 0)) ∧
      ((∀ m r want least wait bs, q.blocked = .claim m r want least wait :: bs → q.free < least) →
        (∀ n t, q.reqs = .back n :: t → exec (.vlpRequestService k) s = .next (setPool s k { q with reqs := t, free := q.free + n })) ∧
        (∀ m r least wait t, q.reqs = .claim m r 0 least wait :: t →
          ∃ v : State, exec (.vlpRequestService k) s = .next (finish (v.setSAt m r 0) m .seq (stepping s m) none) ∧
            pool v k = { q with reqs := t } ∧ (v.slot m).claim = Claim.none) ∧
        (∀ m r want least wait t, q.blocked = [] → q.reqs = .claim m r want least wait :: t → 0 < want → least ≤ q.free →
          ∃ v : State, exec (.vlpRequestService k) s = .next (finish (v.setSAt m r (wordN (Min.min want q.free))) m .seq (stepping s m) none) ∧
            pool v k = { q with reqs := t, free := q.free - Min.min want q.free } ∧
            (0 < Min.min want q.free → (v.slot m).claim.g = Min.min want q.free ∧
              ∀ (x : Reg), ∀ l < Min.min want q.free, ((v.slot m).claim.v[x]).getD l 1 = 0)) ∧
        (∀ m r want least t, q.reqs = .claim m r want least true :: t → 0 < want → (q.blocked ≠ [] ∨ q.free < least) →
          exec (.vlpRequestService k) s = .next (setPool s k { q with reqs := t, blocked := q.blocked ++ [.claim m r want least true] })) ∧
        (∀ m r want least t, q.reqs = .claim m r want least false :: t → 0 < want → (q.blocked ≠ [] ∨ q.free < least) →
          ∃ v : State, exec (.vlpRequestService k) s = .next (finish (v.setSAt m r 0) m .seq (stepping s m) none) ∧
            pool v k = { q with reqs := t } ∧ (v.slot m).claim = Claim.none) ∧
        (∀ m r keep want t, q.reqs = .reneg m r keep want :: t →
          let old := (s.slot m).claim
          let free := q.free + (old.g - keep)
          let n := if keep < want ∧ q.blocked = [] then keep + Min.min (want - keep) free else keep;
          ∃ v : State, exec (.vlpRequestService k) s = .next (finish (v.setSAt m r (wordN n)) m .seq (stepping s m) none) ∧
            pool v k = { q with reqs := t, free := free - (n - keep) } ∧
            (n = 0 → (v.slot m).claim = Claim.none) ∧
            (n ≠ 0 → (v.slot m).claim.g = n ∧ (v.slot m).claim.id = old.id ∧ ∀ l < n,
              (∀ x : Reg, ((v.slot m).claim.v[x]).getD l 1 = if l < keep then (old.v[x]).getD l 0 else 0) ∧
              (∀ x : Fin 8, ((v.slot m).claim.m[x]).getD l true = if l < keep then (old.m[x]).getD l false else false)))))) ∧
  (∀ (s : State) (g : Guard) (d a : Reg) (fn : SfnOp) (f : FloatTy) (rm : Rm),
    (anyActive s g = true → drainPending s [a] = false →
      let q := s.cur / 16
      exec (.sfn g d a fn f rm) s = .next (blocked { s with sfus := tset s.sfus q (tget [] s.sfus q ++ [⟨s.cur, d, fn, f, rm,
        (List.range (grant s)).map fun l => if active s g l then some (lane s a l) else none⟩]) } .sfu)) ∧
    (∀ quad r t, tget [] s.sfus quad = r :: t →
      let ty := FloatTy.elt r.fmt
      let val := fun x : BitVec 32 => sfnElt r.fn r.fmt r.rm (eltBits ty x)
      let l := s.slot r.slot
      ∃ v : State, exec (.sfuReturn quad) s = .next (finish v r.slot .seq (stepping s r.slot) none) ∧ v.sfus = tset s.sfus quad t ∧ v.mem = s.mem ∧
        (∀ m, m ≠ r.slot → v.slot m = s.slot m) ∧ (v.slot r.slot).s = l.s ∧
        (v.slot r.slot).fpstat = l.fpstat ||| ((r.src.filterMap id).map fun x => (val x).2).foldl (· ||| ·) 0 ∧
        (∀ x, x ≠ r.d → (v.slot r.slot).claim.v[x] = l.claim.v[x]) ∧
        (∀ i < l.claim.g, ((v.slot r.slot).claim.v[r.d]).getD i 0 =
          (match r.src.getD i none with | some x => eltReg ty (val x).1 | none => (l.claim.v[r.d]).getD i 0))) ∧
    (∀ n ng m e, fdec f n = .fin ng m e →
      (m = 0 → sfnElt .rcp f rm n = (FloatTy.signBit f ng + FloatTy.infBits f, fDZ) ∧ sfnElt .sqrt f rm n = (FloatTy.signBit f ng, 0)) ∧
      (m ≠ 0 → sfnElt .rcp f rm n = roundQuot f rm ng 1 m (-e)) ∧
      (m ≠ 0 → ng = true → sfnElt .sqrt f rm n = (FloatTy.nanBits f, fNV)) ∧ (m ≠ 0 → ng = false → sfnElt .sqrt f rm n = roundSqrt f rm m e)) ∧
    (∀ n ng, fdec f n = .inf ng → sfnElt .rcp f rm n = (FloatTy.signBit f ng, 0) ∧
      sfnElt .sqrt f rm n = (if ng then (FloatTy.nanBits f, fNV) else (FloatTy.infBits f, 0))) ∧
    (∀ n sig, fdec f n = .nan sig → ∀ fn, sfnElt fn f rm n = (FloatTy.nanBits f, if sig then fNV else 0)) ∧
    (∀ n ng, fdec .f32 n = .inf ng →
      let nan : Nat × Flags := (0x7FC00000, fNV);
      let one := if ng then 0xBF800000 else 0x3F800000;
      sfnElt .exp2 .f32 rm n = (if ng then 0 else 0x7F800000, 0) ∧ sfnElt .log2 .f32 rm n = (if ng then nan else (0x7F800000, 0)) ∧
      sfnElt .rsqrt .f32 rm n = (if ng then nan else (0, 0)) ∧ sfnElt .sin .f32 rm n = nan ∧ sfnElt .cos .f32 rm n = nan ∧
      sfnElt .tanh .f32 rm n = (one, 0) ∧ sfnElt .sigmoid .f32 rm n = (if ng then 0 else 0x3F800000, 0) ∧ sfnElt .erf .f32 rm n = (one, 0)) ∧
    (∀ n ng e, fdec .f32 n = .fin ng 0 e →
      let same := if ng then 0x80000000 else 0;
      sfnElt .log2 .f32 rm n = (0xFF800000, fDZ) ∧ sfnElt .rsqrt .f32 rm n = (same + 0x7F800000, fDZ) ∧ sfnElt .sin .f32 rm n = (same, 0) ∧
      sfnElt .cos .f32 rm n = (0x3F800000, 0) ∧ sfnElt .tanh .f32 rm n = (same, 0) ∧ sfnElt .sigmoid .f32 rm n = (0x3F000000, 0) ∧
      sfnElt .erf .f32 rm n = (same, 0)))

/-- R214, R228, R235 to R245: on a compute core, where its wait parcel is met, its operands pass the checks and the inbox of its tile's engine has room, a matrix head retires, and its operation
is at the end of the inbox with the next SEQ, the configuration of the engine, and its signal parcel, once the stores that the slots of the core have retired are performed (R216); `mcfg`, `mswap` and `mlw` with its active bit change the configuration of the operations after it. With a full inbox the
slot blocks; a failed check traps. While an `mrest` of the state block has not executed, an `mrun` records scales that pass the checks though MODE does not ask for them (R245, log entry 55). -/
def Obligations.MatrixAcceptance : Prop :=
  ∀ (s : State) (g : Guard) (d a b : Reg) (row : RowSpec) (nrow frow : BitVec 4) (bank dst l actv mode clrf user : Bool) (banks what esz : BitVec 2)
    (plane : BitVec 3) (base : BitVec 10) (p q : Fin 4) (eng : Eng),
    s.guardTrue g = true → isCompute s.myCore = true → waitMet s (some eng) →
    let A := s.getS a
    let B := s.getS b
    let D := s.getS d
    let n := row.nrow.toNat + 1
    let K := if row.tr then 64 else 320
    let stride : Word := if D = 0 then wordN K else D
    let mx := (s.tme s.myTile).conf.mode
    let rows := (List.range n).map fun i => (⟨A + wordN i * stride, K, .read, false⟩ : Operand)
    let scales := (List.range n).map fun i => (⟨B + wordN (i * (K / 32)), K / 32, .read, false⟩ : Operand)
    let kept := mx || ((s.tme s.myTile).ops.any fun o => match o.kind with | .rest 2 _ => true | _ => false) && (operandChecks s [] [scales]).isNone
    let size := if what = 2 then 64 else 8192
    let answers := fun (i : Instr) (e : Eng) (u : State) (check : Option Trap) (maj min : Nat) (kind : TmeKind) (sets : TmeSet) =>
      let c := coreStores u u.myCore
      let x := c.tme c.myTile;
      (check = none → x.ops.length < 8 → exec i s = .next (ended s (c.setTme c.myTile { x with
        ops := x.ops ++ [⟨x.seq, maj, min, c.cur, c.sl.claim.id, kind, x.conf, sets, e, false, 0, [], none, 0, [], [], .none⟩],
        seq := x.seq + 1,
        conf := (match sets with
          | .none => x.conf
          | .cfg m b => { x.conf with mode := m, base := b }
          | .act l => { x.conf with act := l }
          | .flip => { x.conf with act := !x.conf.act }) }) .seq)) ∧
      (check = none → 8 ≤ x.ops.length → exec i s = .next (blocked c .poll)) ∧
      ((∀ k < 4, (u.slot (4 * u.myCore + k)).sq = []) → c = u) ∧
      (∀ t, check = some t → exec i s = .next (headTrap (barrelMoved u) u.cur t))
    let u := issuedAt s eng
    (answers (.mlw g a l actv eng) eng u (operandChecks s [(A, .read)] [[⟨A, 4288, .read, true⟩]]) 36 0 (.load l (myKey s A) A.toNat)
      (if actv then .act l else .none)) ∧
    (A.toNat % 64 = 0 → n = 1 ∨ D.toNat % 64 = 0 →
      answers (.mrun g d a b row eng) eng u (operandChecks s [(A, .read)] ([rows] ++ if mx then [scales] else [])) 36 1
        (.run A stride (if kept then some B else none) row) .none) ∧
    (A.toNat % 64 ≠ 0 → exec (.mrun g d a b row eng) s = .next (headTrap (barrelMoved u) u.cur (memTrap 8 .read A))) ∧
    (A.toNat % 64 = 0 → n ≠ 1 → D.toNat % 64 ≠ 0 → exec (.mrun g d a b row eng) s = .next (headTrap (barrelMoved u) u.cur (memTrap 8 .read (A + D)))) ∧
    answers (.mrunq g p q row true eng) eng u none 36 2 (.runq q (some p) row) .none ∧
    answers (.mrunq g p q row false eng) eng u none 36 2 (.runq q none row) .none ∧
    (let check := if dst then (if grant s = 0 then some (laneTrap 1 0) else if grant s < 64 then some (laneTrap 4 (grant s)) else none)
        else operandChecks s [(A, .write)] [[⟨A, 256 * (nrow.toNat + 1), .write, false⟩]]
      let kind := fun reset => TmeKind.drain reset nrow.toNat frow.toNat bank (if dst then some d else none) (if dst then 0 else myKey s A)
      answers (.mdrain g d a nrow frow bank dst eng) eng u check 36 3 (kind false) .none ∧
      answers (.mdrs g d a nrow frow bank dst eng) eng u check 37 0 (kind true) .none) ∧
    answers (.mclr g banks eng) eng u none 37 1 (.clear banks) .none ∧
    answers (.mswap g l true eng) eng u none 37 2 .swap (.act l) ∧ answers (.mswap g l false eng) eng u none 37 2 .swap .flip ∧
    answers (.mpass g d a nrow esz plane eng) eng u (operandChecks s [(A, .read), (D, .write)]
        [[⟨A, 320 * 2 ^ esz.toNat * (nrow.toNat + 1), .read, false⟩], [⟨D, 64 * 2 ^ esz.toNat * (nrow.toNat + 1), .write, false⟩]]) 37 3
      (.pass (myKey s D) (myKey s A) nrow.toNat (2 ^ esz.toNat) plane.toNat) .none ∧
    answers (.mcfg g a mode clrf user base) ⟨0, 0, 0, 0⟩ s none 38 0 (.cfg clrf) (.cfg mode (if user then A.setWidth 10 else base)) ∧
    answers (.msave g a what eng) eng u (operandChecks s [(A, .write)] [[⟨A, size, .write, false⟩]]) 38 1 (.save what.toNat (myKey s A)) .none ∧
    answers (.mrest g a what eng) eng u (operandChecks s [(A, .read)] [[⟨A, size, .read, false⟩]]) 38 2 (.rest what.toNat (myKey s A)) .none

/-- R215, R218: an engine starts the first operation that the operations before it let start. A halted engine skips it with a fault message of FCODE 6, unless it clears the fault; an operation that reads a latch
that is not loaded, an `mpass` whose columns are not one-hot, and a forwarding `mrunq` whose port is not bound, fault; every other is started. R229 to R231, R216: an operation that goes on does its units of work until it completes, faults, stalls or parks on a guard,
and its end is its signal (R217) or its fault: the first fault halts the engine and is recorded. A read that has parked keeps its place among the parked reads of the cluster (R359). R222 in INT8 mode: a whole `mrun` whose rows can be read gives each cell of its rows the sum of the products of the elements of the row and the trits of the column, added to the old cell with
ACC, wrapped to 32 bits, and changes nothing else. The units: a row of `mrun` (R238) or of entries of `mrunq` (R226) in INT8 and in MXINT8 mode (R222), which a freed or lost operand, latch or cell stops with codes 9 and 5 (Table 8.2); the entries, the forwards, the control values and the empty port of `mrunq`; the rows of `mdrain` and
`mdrs` to memory and to vector registers (R225), of `mpass` (R224); the pieces of 64 bytes of `msave` and `mrest` of a bank (R244), the state block (R245) and the reloads of its latches; `mlw` (R237, R52), `mclr`, `mswap` and `mcfg`. The model's choices here: a row of `mrun` for which
no scales were recorded reads free ones (log entry 55); a freed operand is reported before a lost one, and an empty latch before an unbound port (log entry 55); a drain writes over what the slot has written to its register meanwhile (log entry 52); a saved WS address
whose record passes the end of the WS is an invalid field, and after a failed reload of latch A the operation has ended (log entry 54). -/
def Obligations.MatrixOperations : Prop :=
  (∀ (s : State) (tile k : Nat) (o : TmeOp),
    let e := s.tme tile
    let l := e.latch o.conf.act
    let target := fun q => portTarget s (2 * tile + 1) q
    tmeNext e = some k → e.ops[k]? = some o → engHalted s (tile / 8) = false →
    (e.halt = true → o.kind ≠ .cfg true →
      exec (.tmeOperationStart tile) s = .next (tmeMessage (s.setTme tile { e with ops := e.ops.filter fun x => x.seq != o.seq }) tile o 6 0 0)) ∧
    (e.halt = false ∨ o.kind = .cfg true →
      (o.kind.reads = true → l.loaded = false → exec (.tmeOperationStart tile) s = .next (tmeFault s tile o 2 o.conf.act.toNat 0)) ∧
      (∀ x r n z p, o.kind = .pass x r n z p → l.loaded = true → l.oneh = false →
        exec (.tmeOperationStart tile) s = .next (tmeFault s tile o 3 l.badcol 0)) ∧
      (∀ q x r, o.kind = .runq q (some x) r → l.loaded = true → target x = none →
        exec (.tmeOperationStart tile) s = .next (tmeFault s tile o 8 x.val 0)) ∧
      ((o.kind.reads = true → l.loaded = true) → (∀ x r n z p, o.kind = .pass x r n z p → l.oneh = true) →
        (∀ q x r, o.kind = .runq q (some x) r → target x ≠ none) →
        ∃ t : State, exec (.tmeOperationStart tile) s = .next t ∧ (t.tme tile).acc = e.acc ∧ (t.tme tile).conf = e.conf ∧ t.mem = s.mem ∧
          (∀ n, n ≠ tile → t.tme n = s.tme n) ∧
          (∀ m z a, o.kind = .load m z a → o.rows = 0 → ((t.tme tile).latch m).loading = true ∧ (t.tme tile).latch (!m) = e.latch (!m)) ∧
          ((∀ m z a, o.kind ≠ .load m z a) → (t.tme tile).ops = e.ops.map fun x => if x.seq = o.seq then
            { o with started := true, fwd := (match o.kind with | .runq _ (some q) _ => (target q).map fun p => (p, none) | _ => none) } else x)))) ∧
  (∀ (s : State) (tile k : Nat) (o : TmeOp), (s.tme tile).ops[k]? = some o →
    let goes := o.started = true ∧ (s.tme tile).resume = [] ∧
      ((∃ b, o.kind = .clear b) ∨ o.kind = .swap ∨ (∃ c, o.kind = .cfg c) ∨ engHalted s (tile / 8) = false)
    let r := tmeWork tile 4096 s o
    let x := r.1.tme tile
    let left := x.ops.filter fun y => y.seq != r.2.1.seq;
    (¬goes → exec (.tmeOperationComplete tile k) s = .next s) ∧
    (goes → exec (.tmeOperationComplete tile k) s = .next (match r.2.2 with
      | .done => semSignal (r.1.setTme tile 
          { x with ops := left, qrows := (match r.2.1.kind with | .runq _ _ _ => r.2.1.rows | _ => x.qrows) }) tile r.2.1.eng.sj.toNat r.2.1.eng.sn.toNat
      | .fault c d n => tmeFault r.1 tile r.2.1 c d n
      | .stall => r.1
      | .more => r.1))) ∧
  (∀ (s : State) (tile fuel : Nat) (o : TmeOp),
    let r := tmeUnit s tile { o with wait := .none }
    let put := fun (v : State) (y : TmeOp) => v.setTme tile { v.tme tile with ops := (v.tme tile).ops.map fun x => if x.seq = y.seq then y else x };
    tmeWork tile 0 s o = (s, o, .more) ∧
    (∀ key n, tmeParked s tile o = some (key, n) →
      (key, n) ∈ unitReads s tile o ∧
      ∃ a v, v = (match o.wait with | .parked b k _ => if k = key then s else s.older | _ => s.older) ∧
        (∀ b k, o.wait = .parked b key k → a = b) ∧
        (guarded s (tile / 8) key n = true ∨ ∃ b k, o.wait = .parked b key k ∧ parkedOlder s (tile / 8) b = true) ∧
        tmeWork tile (fuel + 1) s o = (put v { o with wait := .parked a key n }, { o with wait := .parked a key n }, .stall)) ∧
    (tmeParked s tile o = none → r.2.2 = .more → tmeWork tile (fuel + 1) s o = tmeWork tile fuel (put r.1 r.2.1) r.2.1) ∧
    (tmeParked s tile o = none → r.2.2 ≠ .more → tmeWork tile (fuel + 1) s o = (put r.1 r.2.1, r.2))) ∧
  (∀ (s : State) (tile : Nat) (o : TmeOp) (code detail rows : Nat),
    let e := s.tme tile
    let f := (tmeFault s tile o code detail rows).tme tile;
    f.ops = e.ops.filter (fun x => x.seq != o.seq) ∧ f.halt = true ∧ f.la = e.la ∧ f.lb = e.lb ∧ f.acc = e.acc ∧ f.conf = e.conf ∧ f.movf = e.movf ∧
    (e.halt = true → f.fcode = e.fcode ∧ f.detail = e.detail ∧ f.fseq = e.fseq) ∧
    (e.halt = false → f.fcode = code ∧ f.detail = detail ∧ f.fseq = o.seq) ∧
    f.qrows = (match o.kind with | .runq _ _ _ => rows | _ => e.qrows)) ∧
  (∀ (s : State) (tile k : Nat) (o : TmeOp) (va stride : Word) (sc : Option Word) (row : RowSpec),
    let key := fun i : Nat => localKey (coreOf o.slot) (whereIs (va + wordN i * stride))
    let K := if row.tr then 64 else 320
    let L := (s.tme tile).latch o.conf.act;
    (s.tme tile).ops[k]? = some o → o.started = true → (s.tme tile).resume = [] → engHalted s (tile / 8) = false → o.rows = 0 →
    o.kind = .run va stride sc row → o.conf.mode = false → s.anyLost [latchWord tile o.conf.act] = false →
    (∀ i ≤ row.nrow.toNat, engParks s (tile / 8) o.wait (key i) K = false ∧ readFault s o i (key i) K = none ∧
      (row.acc = true → s.anyLost (rowWords tile row.bank (row.frow.toNat + i)) = false)) →
    ∃ t : State, exec (.tmeOperationComplete tile k) s = .next (semSignal t tile o.eng.sj.toNat o.eng.sn.toNat) ∧
      t.mem = s.mem ∧ t.slots = s.slots ∧ (t.tme tile).la = (s.tme tile).la ∧ (t.tme tile).lb = (s.tme tile).lb ∧
      (t.tme tile).movf = (s.tme tile).movf ∧ (t.tme tile).ops = (s.tme tile).ops.filter (fun x => x.seq != o.seq) ∧
      (∀ i ≤ row.nrow.toNat, ∀ n < 64,
        let old := ((s.tme tile).row row.bank (row.frow.toNat + i)).getD n Cell.zero
        let x := fun j : Nat => ((tmeBytes s o (key i) K).getD j 0).toInt
        let w := fun j : Nat => (rowTrits L row n).getD j 0
        let v := (if row.acc then old.a.toInt else 0) + ((List.range K).map fun j => w j * x j).sum;
        ((t.tme tile).row row.bank (row.frow.toNat + i)).getD n Cell.zero = ⟨BitVec.ofInt 48 (Int.bmod v (2 ^ 32)), row.acc && old.nf⟩) ∧
      ∀ (c : Bool) (r : Nat), (∀ i ≤ row.nrow.toNat, 16 * c.toNat + r ≠ 16 * row.bank.toNat + (row.frow.toNat + i)) →
        (t.tme tile).row c r = (s.tme tile).row c r) ∧
  (∀ (s : State) (tile : Nat) (o : TmeOp),
    let e := s.tme tile
    let i := o.rows
    let base : Int := o.conf.base.toInt
    let unit := tmeUnit s tile o
    let stop := fun (c d n : Nat) => unit = (s, o, .fault c d n)
    let noLatch := s.anyLost [latchWord tile o.conf.act] = true
    let data := fun (key n : Nat) => tmeBytes s o key n
    let goesOn := fun (t : State) => unit = (t, { o with rows := i + 1 }, .more);
    (∀ key n, (data key n).length = n ∧ ∀ j < n, (data key n).getD j 0 =
      (match o.seen.find? fun p => p.1 == (key + j) / 8 with | some p => p.2.getD ((key + j) % 8) 0 | none => s.mem.get (key + j))) ∧
    (∀ n key len, readFault s o n key len = if o.freed.any fun r => overlap r.1 r.2 key len then some (.fault 9 0 n)
      else if s.lostIn key len then some (.fault 5 (lossSub key) n) else none) ∧
    (∀ row : RowSpec,
      let K := if row.tr then 64 else 320
      let ws := rowWords tile row.bank (row.frow.toNat + i)
      let cellsLost := row.acc = true ∧ s.anyLost ws = true
      let enters := fun (xs : List Byte) (ss : Option (List Byte)) (v t : State) =>
        let old := fun n => (e.row row.bank (row.frow.toNat + i)).getD n Cell.zero
        let a0 := fun n : Nat => if row.acc then (old n).a.toInt else 0
        let p := fun (n from' len : Nat) => ((List.range len).map fun j =>
          (rowTrits (e.latch o.conf.act) row n).getD (from' + j) 0 * (xs.getD (from' + j) 0).toInt).sum
        let sat := fun v : Int => max (-(2 ^ 47)) (min (2 ^ 47 - 1) v)
        let near := fun (v : Int) (m : Nat) => if 2 ^ m < 2 * (v % 2 ^ m) ∨ 2 * (v % 2 ^ m) = 2 ^ m ∧ v / 2 ^ m % 2 = 1 then v / 2 ^ m + 1 else v / 2 ^ m
        let block := fun (b : List Byte) (n : Nat) (x : Int × Bool × Bool) (q : Nat) =>
          let X := (b.getD q 0).toNat
          let P := p n (32 * q) 32
          let sh : Int := (X : Int) - 133 - base
          let c := if 0 ≤ sh then P * 2 ^ sh.toNat else near P (-sh).toNat
          let c' := if 0 ≤ sh then sat c else c
          if X = 0xFF then (x.1, true, x.2.2) else if P = 0 then x
          else (sat (x.1 + c'), x.2.1, x.2.2 || c' != c || sat (x.1 + c') != x.1 + c')
        let mx := fun (b : List Byte) (n : Nat) => (List.range (K / 32)).foldl (block b n) (a0 n, row.acc && (old n).nf, false)
        ∃ (cells : List Cell) (f : Bool),
          t = (v.setTme tile { e with acc := tset e.acc (16 * row.bank.toNat + (row.frow.toNat + i)) cells, movf := e.movf || f }).mended ws ∧
          cells.length = 64 ∧
          (ss = none → f = false ∧ ∀ n < 64, cells.getD n Cell.zero = ⟨BitVec.ofInt 48 (Int.bmod (a0 n + p n 0 K) (2 ^ 32)), row.acc && (old n).nf⟩) ∧
          (∀ b, ss = some b → (f = true ↔ ∃ n < 64, (mx b n).2.2 = true) ∧
            ∀ n < 64, cells.getD n Cell.zero = ⟨BitVec.ofInt 48 (mx b n).1, (mx b n).2.1⟩);
      (∀ (va stride : Word) (sc : Option Word), o.kind = .run va stride sc row →
        let key := localKey (coreOf o.slot) (whereIs (va + wordN i * stride))
        let sk := if o.conf.mode then sc.map fun q => localKey (coreOf o.slot) (whereIs (q + wordN (i * (K / 32)))) else none;
        (row.nrow.toNat < i → unit = (s, o, .done)) ∧
        (i ≤ row.nrow.toNat →
          (∀ f, readFault s o i key K = some f → unit = (s, o, f)) ∧
          (readFault s o i key K = none →
            (∀ q f, sk = some q → readFault s o i q (K / 32) = some f → unit = (s, o, f)) ∧
            ((∀ q, sk = some q → readFault s o i q (K / 32) = none) →
              (noLatch → stop 5 3 i) ∧ (¬noLatch → cellsLost → stop 5 4 i) ∧
              (¬noLatch → ¬cellsLost →
                (o.conf.mode = false ∨ sc ≠ none → ∃ t, goesOn t ∧ enters (data key K) (sk.map fun q => data q (K / 32)) s t) ∧
                (o.conf.mode = true → sc = none → ∃ (t : State) (free : List Byte), goesOn t ∧ free.length = K / 32 ∧
                  enters (data key K) (some free) s.draw t)))))) ∧
      (∀ (a : Fin 4) (z : Option (Fin 4)), o.kind = .runq a z row →
        let q := 4 * (2 * tile + 1) + a.val
        let full := if o.conf.mode then (if row.tr then 9 else 42) else if row.tr then 8 else 40
        let bs := o.got.flatMap fun w => bytesOf 8 w.toNat;
        (∀ p w, o.fwd = some (p, some w) →
          ((portRoom (portQueue s p) = 0 ∨ olderPush s none p o.age = true) → unit = (s, o, .stall)) ∧
          (portRoom (portQueue s p) ≠ 0 → olderPush s none p o.age = false →
            unit = (reserveEntry s (2 * tile + 1) p ⟨w, false⟩, { o with fwd := some (p, none), age := 0 }, .more))) ∧
        ((∀ p w, o.fwd ≠ some (p, some w)) →
          (o.got.length = full →
            (noLatch → stop 5 3 i) ∧ (¬noLatch → cellsLost → stop 5 4 i) ∧
            (¬noLatch → ¬cellsLost → ∃ t, unit = (t, { o with got := [], rows := i + 1 }, .more) ∧
              enters (bs.take K) (if o.conf.mode then some ((bs.drop K).take (K / 32)) else none) s t)) ∧
          (o.got.length ≠ full → i = row.nrow.toNat + 1 → unit = (s, o, .done)) ∧
          (o.got.length ≠ full → i ≠ row.nrow.toNat + 1 →
            ((portQueue s q).entries = [] → unit = (s, o, .stall)) ∧
            (∀ x r, (portQueue s q).entries = x :: r →
              (x.c = true → o.got = [] → unit = (s, o, .done)) ∧ (x.c = true → o.got ≠ [] → stop 4 i i) ∧
              (x.c = false →
                let t := (setPortQueue s q { portQueue s q with entries := r }).mended [portWord q];
                (s.anyLost [portWord q] = true → unit = (t, o, .fault 5 5 i)) ∧
                (s.anyLost [portWord q] = false → o.fwd = none → unit = (t, { o with got := o.got ++ [x.data], age := 0 }, .more)) ∧
                (∀ p, s.anyLost [portWord q] = false → o.fwd = some (p, none) →
                  unit = (t.older, { o with got := o.got ++ [x.data], fwd := some (p, some x.data), age := t.older.age }, .more)))))))) ∧
    (∀ (reset : Bool) (nrow frow : Nat) (bank : Bool) (v : Option Reg) (key : Nat), o.kind = .drain reset nrow frow bank v key →
      let cell := fun n => (e.row bank (frow + i)).getD n Cell.zero
      let y := fun n => if (cell n).nf then 0x7FC00000
        else (roundTo .f32 .rne (decide ((cell n).a.toInt < 0)) (cell n).a.toInt.natAbs base).1;
      (nrow < i → unit = (s, o, .done)) ∧
      (i ≤ nrow → v = none → o.isFreed (key + 256 * i) 256 = true → stop 9 1 i) ∧
      (i ≤ nrow → (v = none → o.isFreed (key + 256 * i) 256 = false) →
        (s.anyLost (rowWords tile bank (frow + i)) = true → stop 5 4 i) ∧
        (s.anyLost (rowWords tile bank (frow + i)) = false → (e.row bank (frow + i)).length = 64 → s.memOk = true → ∃ t, goesOn t ∧
          (t.tme tile).conf = e.conf ∧ (t.tme tile).la = e.la ∧ (t.tme tile).lb = e.lb ∧
          (t.tme tile).row bank (frow + i) = (if reset then List.replicate 64 Cell.zero else e.row bank (frow + i)) ∧
          (∀ (c : Bool) (r : Nat), 16 * c.toNat + r ≠ 16 * bank.toNat + (frow + i) → (t.tme tile).row c r = e.row c r) ∧
          ((t.tme tile).movf = true ↔ e.movf = true ∨ ∃ n < 64, (cell n).nf = false ∧ y n % 2 ^ 31 = 0x7F800000) ∧
          (v = none → (∀ n < 64, t.num (key + 256 * i + 4 * n) 4 = y n % 2 ^ 32) ∧
            ∀ j, j < key + 256 * i ∨ key + 256 * i + 256 ≤ j → t.mem.get j = s.mem.get j) ∧
          (∀ r, v = some r →
            let l := s.slot o.slot
            let l' := t.slot o.slot
            let x : Reg := Fin.ofNat 32 (r.val + i);
            t.mem = s.mem ∧ (∀ m, m ≠ o.slot → t.slot m = s.slot m) ∧ (l.claim.id ≠ o.claim → l' = l) ∧
            (l.claim.id = o.claim → l'.s = l.s ∧ (∀ z, z ≠ x → l'.claim.v[z] = l.claim.v[z]) ∧
              ∀ n < l.claim.g, (l'.claim.v[x]).getD n 0 = if n < 64 then BitVec.ofNat 32 (y n) else (l.claim.v[x]).getD n 0))))) ∧
    (∀ dst src nrow esz plane : Nat, o.kind = .pass dst src nrow esz plane → plane < esz → s.memOk = true →
      let from' := fun c => src + 320 * esz * i + esz * ((oneHot (columnTrits (e.latch o.conf.act).data c)).getD 0) + plane
      let dest := fun c => dst + 64 * esz * i + esz * c + plane;
      (nrow < i → unit = (s, o, .done)) ∧ (i ≤ nrow → noLatch → stop 5 3 i) ∧
      (i ≤ nrow → ¬noLatch → (∀ c < 64, readFault s o i (from' c) 1 = none) →
        (o.isFreed (dst + 64 * esz * i) (64 * esz) = true → stop 9 1 i) ∧
        (o.isFreed (dst + 64 * esz * i) (64 * esz) = false → ∃ t, goesOn t ∧ t.tme tile = e ∧
          (∀ c < 64, t.mem.get (dest c) = (data (from' c) 1).getD 0 0) ∧ ∀ j, (∀ c < 64, j ≠ dest c) → t.mem.get j = s.mem.get j)) ∧
      (∀ c < 64, ∀ f, i ≤ nrow → ¬noLatch → (∀ c' < c, readFault s o i (from' c') 1 = none) → readFault s o i (from' c) 1 = some f → unit = (s, o, f))) ∧
    (∀ what key : Nat, what ≠ 2 →
      let bank := what == 1
      let r := i / 8
      let p := i % 8
      let at' := key + 64 * i
      let word := accWord tile bank r p;
      (o.kind = .save what key → (128 ≤ i → unit = (s, o, .done)) ∧
        (i < 128 → o.isFreed at' 64 = true → stop 9 1 r) ∧
        (i < 128 → o.isFreed at' 64 = false → s.anyLost [word] = true → stop 5 4 r) ∧
        (i < 128 → o.isFreed at' 64 = false → s.anyLost [word] = false → (e.row bank r).length = 64 → s.memOk = true → ∃ t, goesOn t ∧
          t.tme tile = e ∧ (∀ c < 8, let x := (e.row bank r).getD (8 * p + c) Cell.zero
            (t.num (at' + 8 * c) 8 : Int) = x.a.toInt % 2 ^ 63 + (if x.nf then 2 ^ 63 else 0)) ∧
          ∀ j, j < at' ∨ at' + 64 ≤ j → t.mem.get j = s.mem.get j)) ∧
      (o.kind = .rest what key → (128 ≤ i → unit = (s, o, .done)) ∧
        (∀ f, i < 128 → readFault s o r at' 64 = some f → unit = (s, o, f)) ∧
        (i < 128 → readFault s o r at' 64 = none → (e.row bank r).length = 64 → ∃ t, goesOn t ∧ t.mem = s.mem ∧ t.slots = s.slots ∧
          (t.tme tile).conf = e.conf ∧ (t.tme tile).movf = e.movf ∧
          (∀ c < 64, ((t.tme tile).row bank r).getD c Cell.zero =
            if c / 8 = p then (let w := leAt (data at' 64) (8 * (c % 8)) 8; ⟨BitVec.ofNat 48 w, w.testBit 63⟩) else (e.row bank r).getD c Cell.zero) ∧
          ∀ (c : Bool) (n : Nat), 16 * c.toNat + n ≠ 16 * bank.toNat + r → (t.tme tile).row c n = e.row c n))) ∧
    (∀ key : Nat, o.kind = .save 2 key →
      (o.isFreed key 64 = true → stop 9 1 0) ∧
      (o.isFreed key 64 = false → s.memOk = true → ∃ t, unit = (t, o, .done) ∧ t.tme tile = e ∧
        t.num key 1 = o.conf.mode.toNat ∧ t.num (key + 1) 1 = o.conf.act.toNat ∧ (t.num (key + 2) 2 : Int) = base % 2 ^ 16 ∧
        t.num (key + 4) 1 = (if e.la.loaded then 2 else 0) ∧ t.num (key + 5) 1 = (if e.lb.loaded then 2 else 0) ∧
        t.num (key + 6) 1 = e.movf.toNat ∧ t.num (key + 7) 1 = 0 ∧
        t.num (key + 8) 8 = (if e.la.loaded then e.la.addr % 2 ^ 64 else 0) ∧ t.num (key + 16) 8 = (if e.lb.loaded then e.lb.addr % 2 ^ 64 else 0) ∧
        t.num (key + 24) 4 = (if e.la.loaded then e.la.check.toNat else 0) ∧ t.num (key + 28) 4 = (if e.lb.loaded then e.lb.check.toNat else 0) ∧
        t.num (key + 32) 32 = 0 ∧ ∀ j, j < key ∨ key + 64 ≤ j → t.mem.get j = s.mem.get j)) ∧
    (∀ key : Nat, o.kind = .rest 2 key →
      let bs := data key 64
      let f := fun (a n : Nat) => leAt bs a n
      let badAddr := fun (st a : Nat) => if st = 2 then a % 64 ≠ 0 ∨ a < 0x200000 ∨ 0x400000 < a + 4288 else a ≠ 0
      let bad := fun d : Nat => d = 0 ∧ 1 < f 0 1 ∨ d = 1 ∧ 1 < f 1 1 ∨ d = 2 ∧ 511 < f 2 2 ∧ f 2 2 < 0xFE00 ∨ d = 4 ∧ f 4 1 ≠ 0 ∧ f 4 1 ≠ 2 ∨
        d = 5 ∧ f 5 1 ≠ 0 ∧ f 5 1 ≠ 2 ∨ d = 6 ∧ 1 < f 6 1 ∨ d = 7 ∧ f 7 1 ≠ 0 ∨ d = 8 ∧ badAddr (f 4 1) (f 8 8) ∨ d = 16 ∧ badAddr (f 5 1) (f 16 8) ∨
        d = 24 ∧ f 4 1 = 0 ∧ f 24 4 ≠ 0 ∨ d = 28 ∧ f 5 1 = 0 ∧ f 28 4 ≠ 0 ∨ d = 32 ∧ f 32 32 ≠ 0;
      (i = 0 → ∀ x, readFault s o 0 key 64 = some x → unit = (s, o, x)) ∧
      (i = 0 → readFault s o 0 key 64 = none → ∀ d, bad d → (∀ d' < d, ¬bad d') → stop 7 d 0) ∧
      (i = 0 → readFault s o 0 key 64 = none → (∀ d, ¬bad d) → ∃ (t : State) (ws : List Word), unit = (t, { o with rows := 1, got := ws }, .more) ∧
        (ws.flatMap fun w => bytesOf 8 w.toNat) = bs ∧ t.mem = s.mem ∧ t.slots = s.slots ∧ (t.tme tile).acc = e.acc ∧
        (t.tme tile).movf = (f 6 1 == 1) ∧
        (∀ l, e.ops = l ++ [o] → (∀ z ∈ l, z.seq ≠ o.seq) → (t.tme tile).conf = ⟨f 0 1 == 1, BitVec.ofNat 10 (f 2 2), f 1 1 == 1⟩) ∧
        (∀ l x r, e.ops = l ++ o :: x :: r → (∀ z ∈ l, z.seq ≠ o.seq) →
          (t.tme tile).ops[l.length + 1]? = some { x with conf := ⟨f 0 1 == 1, BitVec.ofNat 10 (f 2 2), f 1 1 == 1⟩ }) ∧
        (t.tme tile).la = (if f 4 1 = 0 then Latch.init else e.la) ∧ (t.tme tile).lb = (if f 5 1 = 0 then Latch.init else e.lb)) ∧
      (∀ l : Bool, let st := (o.got.flatMap fun w => bytesOf 8 w.toNat)
        let at' := leAt st (8 + 8 * l.toNat) 8
        let rk := wsKey tile (at' - 0x200000)
        let put := fun x : Latch => (s.setTme tile (if l then { e with lb := x } else { e with la := x })).mended [latchWord tile l]
        let drop := s.setTme tile (if l then { e with lb := { e.lb with loading := false } } else { e with la := { e.la with loading := false } });
        (i = 1 + 2 * l.toNat → leAt st (4 + l.toNat) 1 ≠ 2 → unit = (s, { o with rows := i + 2 }, .more)) ∧
        (i = 1 + 2 * l.toNat → leAt st (4 + l.toNat) 1 = 2 → unit = (s.setTme tile (if l then { e with lb := { e.lb with loading := true } }
          else { e with la := { e.la with loading := true } }), { o with rows := i + 1 }, .more)) ∧
        (i = 2 + 2 * l.toNat →
          (s.lostIn rk 4288 = true → unit = (drop, o, .fault 5 0 0)) ∧
          (s.lostIn rk 4288 = false → ∀ n, recordFault (data rk 4288) = some n → unit = (drop, o, .fault 1 n 0)) ∧
          (s.lostIn rk 4288 = false → recordFault (data rk 4288) = none → leAt (data rk 4288) 60 4 ≠ leAt st (24 + 4 * l.toNat) 4 →
            unit = (put Latch.init, o, .fault 1 8 0)) ∧
          (s.lostIn rk 4288 = false → recordFault (data rk 4288) = none → leAt (data rk 4288) 60 4 = leAt st (24 + 4 * l.toNat) 4 →
            unit = (put (latchOf (data rk 4288) at'), { o with rows := i + 1 }, .more)))) ∧
      (5 ≤ i → unit = (s, o, .done))) ∧
    (∀ (l : Bool) (key addr : Nat), o.kind = .load l key addr →
      let bs := data key 4288
      let set := fun x : Latch => if l then { e with lb := x } else { e with la := x }
      let drop := s.setTme tile (set { (if l then e.lb else e.la) with loading := false });
      (i = 0 → unit = (s.setTme tile (set { (if l then e.lb else e.la) with loading := true }), { o with rows := 1 }, .more)) ∧
      (i ≠ 0 → s.lostIn key 4288 = true → unit = (drop, o, .fault 5 0 0)) ∧
      (i ≠ 0 → s.lostIn key 4288 = false → ∀ n, recordFault bs = some n → unit = (drop, o, .fault 1 n 0)) ∧
      (i ≠ 0 → s.lostIn key 4288 = false → recordFault bs = none → ∃ x : Latch, unit = ((s.setTme tile (set x)).mended [latchWord tile l], o, .done) ∧
        x.loaded = true ∧ x.loading = false ∧ x.addr = addr ∧ x.check = BitVec.ofNat 32 (leAt bs 60 4) ∧ x.data = (bs.drop 64).take 4096 ∧
        (x.oneh = true ↔ ∀ n < 64, oneHot (columnTrits x.data n) ≠ none) ∧
        (x.oneh = false → x.badcol < 64 ∧ oneHot (columnTrits x.data x.badcol) = none ∧ ∀ n < x.badcol, oneHot (columnTrits x.data n) ≠ none))) ∧
    (∀ banks : BitVec 2, o.kind = .clear banks → ∃ t, unit = (t, o, .done) ∧ t.mem = s.mem ∧ (t.tme tile).conf = e.conf ∧ ∀ (c : Bool) (r : Nat), r < 16 →
      (t.tme tile).row c r = if banks.getLsbD c.toNat then List.replicate 64 Cell.zero else e.row c r) ∧
    (o.kind = .swap → unit = (s, o, .done)) ∧
    (o.kind = .cfg false → unit = (s, o, .done)) ∧
    (o.kind = .cfg true → unit = (s.setTme tile { e with halt := false, fcode := 0, detail := 0, fseq := 0, movf := false }, o, .done)))

/-- R247 to R249, R267: `swt` waits for its threshold and takes it; `ssig` adds to its semaphore, even under a false guard; `sset` gives the old value and writes; `srd` gives the value after the updates of the cycle and the tests of the waits. R247, R248: a signal adds to its semaphore, saturating at 65,535 with
SEMST set. The waits of a tile are tested once the updates of the cycle are made, and until then the cycle is not over: a wait that is met takes its threshold and its slot is ready; of two waits on one semaphore the older one is tested first, and the younger one is met by what is left, if at all. Two signals of one cycle are thus both made before any wait is tested. -/
def Obligations.Semaphores : Prop :=
  (∀ (s : State) (g : Guard) (d a : Reg) (i t j n : BitVec 8),
    let tile := s.myTile
    let w := semNow s tile
    let v := semGet w tile i.toNat
    let T := t.toNat;
    ((s.tile tile).upd = 0 → w = s) ∧
    (s.guardTrue g = true →
      (T = 0 ∨ s.sl.taken.isSome = true → exec (.swt g i t) s = .next (ended s s .seq)) ∧
      (0 < T → s.sl.taken = none →
        (w.sl.taken.isSome = true → exec (.swt g i t) s = .next (ended w w .seq)) ∧
        (w.sl.taken = none → T ≤ v → exec (.swt g i t) s = .next (ended w ((semPut w tile i.toNat (v - T)).setSl { w.sl with taken := some (i.toNat, T) }) .seq)) ∧
        (w.sl.taken = none → v < T → w.sl.wait = .none → exec (.swt g i t) s =
          .next (({ w with age := w.age + 1 } : State).setSl { w.sl with wait := .sem i.toNat T (w.age + 1) })))) ∧
    exec (.ssig g j n) s = .next (ended s (signalParcel s (some ⟨0, 0, j, n⟩)) .seq) ∧
    signalParcel s (some ⟨0, 0, j, 0⟩) = s ∧
    (0 < n → signalParcel s (some ⟨0, 0, j, n⟩) = semUpdate (storesEnter s s.cur) tile 3 [s.myCore] fun u => semAdd u u.myTile j.toNat n.toNat) ∧
    (s.guardTrue g = true →
      let A := (s.getS a).toNat
      let kind := if s.myCore % 2 = 1 then 2 else 1
      exec (.srd g d i) s = .next (ended s (w.setS d (wordN v)) .seq) ∧
      (A ≤ 65535 → exec (.sset g d a i) s = .next (ended s (semUpdate s tile kind [s.myCore] fun u => semPut (u.setS d (wordN (semGet u u.myTile i.toNat))) u.myTile i.toNat A) .seq)) ∧
      (65535 < A → exec (.sset g d a i) s = .next (ended s (semUpdate s tile kind [s.myCore] fun u =>
        semPut (semSaturated (u.setS d (wordN (semGet u u.myTile i.toNat))) u.myTile i.toNat) u.myTile i.toNat 65535) .seq)))) ∧
  (∀ (s : State) (tile j n : Nat), (s.tile tile).upd ≤ 3 →
    let v := semGet s tile j
    let v' := min 65535 (v + n)
    let t := semSignal s tile j n
    let u := semTested t tile;
    semSignal s tile j 0 = s ∧ semGet t tile j = v' ∧ (∀ i, i ≠ j → semGet t tile i = semGet s tile i) ∧ t.slots = s.slots ∧ t.mem = s.mem ∧
    (0 < n → (t.tile tile).semSat = ((s.tile tile).semSat || decide (65535 < v + n)) ∧
      (65535 < v + n → (s.tile tile).semSat = false → (t.tile tile).semFirst = BitVec.ofNat 8 j) ∧
      (semWaiters s tile ≠ [] → (t.tile tile).upd = 3 ∧ (tick t).cc = t.cc)) ∧
    (semWaiters s tile = [] → semGet u tile j = v' ∧ u.slots = s.slots) ∧
    (∀ age m thr, semWaiters s tile = [(age, m, j, thr)] →
      (thr ≤ v' → semGet u tile j = v' - thr ∧ u.slot m = { s.slot m with wait := .none, taken := some (j, thr) }) ∧
      (v' < thr → semGet u tile j = v' ∧ u.slots = s.slots)) ∧
    (∀ k a1 m1 t1 a2 m2 t2, a1 < a2 → m1 ≠ m2 →
      (semWaiters s tile = [(a1, m1, j, t1), (a2, m2, j, t2)] ∨ semWaiters s tile = [(a2, m2, j, t2), (a1, m1, j, t1)]) →
      let V := min 65535 (v' + k)
      let x := semTested (semSignal t tile j k) tile;
      t1 ≤ V → V - t1 < t2 →
      semGet x tile j = V - t1 ∧ x.slot m1 = { s.slot m1 with wait := .none, taken := some (j, t1) } ∧ x.slot m2 = s.slot m2))

/-- R253 to R257, R268: the queue ports. A read takes the oldest entry, blocks on an empty queue, and enters the light handler on a control entry; a push reserves an entry at the target port, blocks while none is
free or an older push waits, and traps where the port has no target; a reserved entry lands behind those that have landed. R464: an oldest entry that holds an uncorrectable error stays, and its read is a data-loss fault, whose SUB is free and whose EADDR is 0 (log entry 8). R268: `qstat` gives the number of landed entries, whether the oldest is a control entry, the free entries of the target and whether the port has one; `qdir` gives the old DIR and TPORT of a port and writes them; `qflush`
empties the landed entries of the ports of its mask and no other. -/
def Obligations.QueuePorts : Prop :=
  (∀ (s : State) (g : Guard) (d a : Reg) (q : Fin 4), s.guardTrue g = true →
    let p := 4 * s.myCore + q.val
    let x := portQueue s p
    let l := s.sl
    let trap := fun sub : Nat => Host.Outcome.next (headTrap (barrelMoved s) s.cur ⟨16, sub, BitVec.ofNat 32 q.val, 0, 0, []⟩)
    let lost := errorEntry s (s.ctxAt s.myCl) 1 26 0 (placeId s s.cur) 0;
    (x.entries = [] → exec (.qportRead g d q) s = .next (blocked s (.port q.val))) ∧
    (∀ e r, x.entries = e :: r →
      let t := (setPortQueue s p { x with entries := r }).mended [portWord p];
      (s.anyLost [portWord p] = true → exec (.qportRead g d q) s = .next (headTrap (barrelMoved lost) lost.cur ⟨26, Config.portLossSub.toNat, 0, 0, 0, []⟩)) ∧
      (s.anyLost [portWord p] = false →
      (e.c = false → exec (.qportRead g d q) s = .next (ended s (t.setS d e.data) .seq)) ∧
      (e.c = true → l.lhact = true → exec (.qportRead g d q) s = trap 2) ∧
      (e.c = true → l.lhact = false → l.lhvec = 0 → exec (.qportRead g d q) s = trap 3) ∧
      (e.c = true → l.lhact = false → l.lhvec ≠ 0 →
        exec (.qportRead g d q) s = .next (ended s (t.setSl { l with lhpc := l.pc, lhval := e.data, lhact := true }) (.jump l.lhvec))))) ∧
    (portTarget s s.myCore q = none → exec (.qportWrite g d a q) s = trap 1 ∧ exec (.qctl g q a) s = trap 1) ∧
    (∀ k, portTarget s s.myCore q = some k → pushAge s s.cur k = none →
      let y := portQueue s k;
      (y.entries.length + y.landing.length < 16 → olderPush s (some s.cur) k (s.age + 1) = false →
        (∃ t : State, exec (.qportWrite g d a q) s = .next (ended s (t.setS d 0) .seq) ∧ t = setPortQueue { s with age := s.age + 1 } k
          { y with landing := y.landing ++ [(s.myCore, ⟨s.getS a, false⟩)] }) ∧
        ∃ t : State, exec (.qctl g q a) s = .next (ended s t .seq) ∧ t = setPortQueue { s with age := s.age + 1 } k
          { y with landing := y.landing ++ [(s.myCore, ⟨s.getS a, true⟩)] }) ∧
      (16 ≤ y.entries.length + y.landing.length ∨ olderPush s (some s.cur) k (s.age + 1) = true →
        exec (.qportWrite g d a q) s = .next (blocked { s with age := s.age + 1 } (.push k (s.age + 1))) ∧
        exec (.qctl g q a) s = .next (blocked { s with age := s.age + 1 } (.push k (s.age + 1))))) ∧
    (∀ core, let k := 4 * core + s.sel % 4
      (∀ c e r, (portQueue s k).landing = (c, e) :: r →
        exec (.queueEntryLanding core) s = .next (setPortQueue s k ⟨(portQueue s k).entries ++ [e], r⟩)) ∧
      ((portQueue s k).landing = [] → exec (.queueEntryLanding core) s = .next s))) ∧
  (∀ (s : State) (g : Guard) (d : Reg) (q : Fin 4) (dir : BitVec 3) (tport : BitVec 2) (mask : BitVec 4), s.guardTrue g = true →
    let x := portQueue s (4 * s.myCore + q.val)
    let c := match x.entries with | e :: _ => e.c | [] => false
    let target := portTarget s s.myCore q
    let room := match target with | some k => 16 - (portQueue s k).entries.length - (portQueue s k).landing.length | none => 0
    exec (.qstat g d q) s = .next (ended s
      (s.setS d (wordN (x.entries.length + (if c then 32 else 0) + 64 * room + (if target.isSome then 2048 else 0)))) .seq) ∧
    (∃ t : State, exec (.qdir g d q dir tport) s = .next (ended s (t.setS d (wordN (linkByte s s.myCore q))) .seq) ∧
      linkByte t t.myCore q = dir.toNat + 8 * tport.toNat ∧ (∀ r, r ≠ q → linkByte t t.myCore r = linkByte s s.myCore r) ∧
      t.core s.myCore = { s.core s.myCore with linkdir := (t.core s.myCore).linkdir } ∧ { t with cores := s.cores } = s) ∧
    (∃ t : State, exec (.qflush g mask) s = .next (ended s t .seq) ∧ { t with cores := s.cores, lost := s.lost } = s ∧
      ∀ r : Fin 4, portQueue t (4 * s.myCore + r.val) =
        (if mask.getLsbD r.val then { portQueue s (4 * s.myCore + r.val) with entries := [] } else portQueue s (4 * s.myCore + r.val))))

/-- R258 to R261, R266, R269: the ring instructions on a header that passes the checks, and that is valid as R259 says. `rbacq` and `rbtake` give the address of the first of n slots and move ACQ or TAKE, taking n from FREE or FILLED, with WHOLE set where the run becomes the whole ring; or, where the slots are not there or an older
request waits, give 0 with TRY and wait without. `rbpub` and `rbrel` mark the n slots from s[B] on in PBIT or RBIT, and hand on every slot in order from PUB or REL whose bit is set: the pointer and FILLED or FREE go on by their number, their bits are cleared, and WHOLE is 0 once a slot of the whole run is handed on. A header that is not valid, too many slots, and slots that are not acquired or taken are ring faults. R269: `rbinit` with bases that are aligned and ranges that lie in allocations of the launch writes the header of an empty ring of NSLOT slots of SLOTSZ bytes; every other byte of memory stays. R262, R263, R269: the stage rings. `stacq` gives the current stage of a role where it owns it and moves the role's cursor on, around the ring; otherwise it gives all ones with TRY, or waits. `strel` hands the stage of s[B] to the next role, with
the lap counted when it comes back to role 0. A header that is not valid, a role or a stage that is not there, or a stage of another role is a ring fault. -/
def Obligations.RingInstructions : Prop :=
  (∀ (s v : State) (g : Guard) (d a b : Reg) (n : BitVec 9) (tr take : Bool) (k : Nat), s.guardTrue g = true →
    headerKey s (s.getS a) 128 = .ok v k →
    let r := ringAt v k
    let N := n.toNat
    let get : Instr := if take then .rbtake g d a n tr else .rbacq g d a n tr
    let put : Instr := if take then .rbrel g a b n else .rbpub g a b n
    let kind := if take then 1 else 0
    let q := myRingAge v k kind
    let na := if r.whole = 1 then r.nslot else (r.acq + r.nslot - r.pub) % r.nslot
    let nt := if r.whole = 2 then r.nslot else (r.take + r.nslot - r.rel) % r.nslot
    let older := olderRing v (some v.cur) k kind q.2
    let B := (s.getS b).toNat
    let i := (B - r.base) / r.sz
    let inRing := r.base ≤ B ∧ (B - r.base) % r.sz = 0 ∧ i < r.nslot
    let first := if take then r.rel else r.pub
    let bits := if take then r.rbit else r.pbit
    let mine := ∀ j < N, ((i + j) % r.nslot + r.nslot - first) % r.nslot < (if take then nt else na) ∧ bits.testBit ((i + j) % r.nslot) = false
    let fault := Host.Outcome.next (headTrap (barrelMoved v) v.cur ⟨17, 0, 0, 0, 0, []⟩);
    (r.ok = true ↔ 1 ≤ r.nslot ∧ r.nslot ≤ 256 ∧ 64 ≤ r.sz ∧ r.sz ≤ 16384 ∧ r.sz % 64 = 0 ∧ r.acq < r.nslot ∧ r.pub < r.nslot ∧ r.take < r.nslot ∧
      r.rel < r.nslot ∧ r.whole ≤ 2 ∧ (r.whole ≠ 0 → r.free = 0 ∧ r.filled = 0 ∧ r.acq = r.pub ∧ r.pub = r.take ∧ r.take = r.rel) ∧
      v.num (k + 25) 39 = 0 ∧ r.free + r.filled + na + nt = r.nslot ∧ (r.free = r.nslot → na = 0 ∧ nt = 0)) ∧
    (r.ok = false ∨ r.nslot < N → exec get s = fault ∧ exec put s = fault) ∧
    (r.ok = true → N ≤ r.nslot → older = false →
      (take = false → N ≤ r.free →
        let whole := if r.free = N ∧ r.filled = 0 ∧ nt = 0 then 1 else r.whole
        let x : Ring := { r with acq := (r.acq + N) % r.nslot, free := r.free - N, whole := whole }
        exec get s = .next (ended s ((v.write k x.bytes).setS d (wordN (r.base + r.acq * r.sz))) .seq)) ∧
      (take = true → N ≤ r.filled →
        let whole := if r.filled = N ∧ r.free = 0 ∧ na = 0 then 2 else r.whole
        let x : Ring := { r with take := (r.take + N) % r.nslot, filled := r.filled - N, whole := whole }
        exec get s = .next (ended s ((v.write k x.bytes).setS d (wordN (r.base + r.take * r.sz))) .seq))) ∧
    (r.ok = true → N ≤ r.nslot → (older = true ∨ take = false ∧ r.free < N ∨ take = true ∧ r.filled < N) →
      (tr = true → exec get s = .next (ended s (v.setS d 0) .seq)) ∧ (tr = false → exec get s = .next (blocked q.1 (.ring k kind q.2)))) ∧
    (r.ok = true → N ≤ r.nslot → (¬inRing ∨ ¬mine) → exec put s = fault) ∧
    (r.ok = true → N ≤ r.nslot → inRing → mine → ∃ (x : Ring) (m left : Nat), exec put s = .next (ended s (v.write k x.bytes) .seq) ∧
      x = (if take then { r with rel := (r.rel + m) % r.nslot, free := r.free + m, rbit := left, whole := if r.whole = 2 ∧ 0 < m then 0 else r.whole }
        else { r with pub := (r.pub + m) % r.nslot, filled := r.filled + m, pbit := left, whole := if r.whole = 1 ∧ 0 < m then 0 else r.whole }) ∧
      (let set := fun y => bits.testBit y = true ∨ ∃ j < N, y = (i + j) % r.nslot
       let passed := fun y => ∃ j < m, y = (first + j) % r.nslot;
       m ≤ r.nslot ∧ (∀ j < m, set ((first + j) % r.nslot)) ∧ left.testBit ((first + m) % r.nslot) = false ∧
        ∀ y, left.testBit y = true ↔ set y ∧ ¬passed y))) ∧
  (∀ (s : State) (g : Guard) (a b : Reg) (n1 z1 : BitVec 8), s.guardTrue g = true → s.memOk = true →
    let A := s.getS a
    let B := s.getS b
    let n := n1.toNat + 1
    let z := 64 * (z1.toNat + 1)
    let k := localKey s.myCore (whereIs A)
    let v := storesEnter s s.cur
    A.toNat % 128 = 0 → B.toNat % 64 = 0 → rangeAddress s s.cur .write A 128 = none → rangeAddress s s.cur .write B (n * z) = none → spanAccess s A 128 = none →
    spanAccess s B (n * z) = none →
    ∃ t : State, exec (.rbinit g a b n1 z1) s = .next (ended s t .seq) ∧ ringAt t k = ⟨B.toNat, n, z, n, 0, 0, 0, 0, 0, 0, true, 0, 0⟩ ∧ t.memOk = true ∧
      (∀ j, j < k ∨ k + 128 ≤ j → t.mem.get j = v.mem.get j) ∧ (n ≤ 256 → (ringAt t k).consistent = true)) ∧
  (∀ (s v : State) (g : Guard) (d a b : Reg) (role : BitVec 3) (tr : Bool) (k : Nat), s.guardTrue g = true →
    headerKey s (s.getS a) 64 = .ok v k →
    let r := role.toNat
    let ns := v.num k 1
    let nr := v.num (k + 1) 1
    let c := v.num (k + 2 + r) 1
    let i := (s.getS b).toNat
    let owner := fun j : Nat => v.num (k + 16 + 2 * j) 2 % 8
    let lap := v.num (k + 16 + 2 * i) 2 / 16 % 256
    let q := myRingAge v k (2 + r)
    let older := olderRing v (some v.cur) k (2 + r) q.2
    let fault := Host.Outcome.next (headTrap (barrelMoved v) v.cur ⟨17, 0, 0, 0, 0, []⟩);
    (stageOk v k = true ↔ 1 ≤ ns ∧ ns ≤ 16 ∧ 2 ≤ nr ∧ nr ≤ 8 ∧ (∀ j < 8, v.num (k + 2 + j) 1 < ns) ∧
      ∀ j < 16, owner j < nr ∧ ((v.num (k + 16 + 2 * j) 2).testBit 3 = true ↔ owner j ≠ 0)) ∧
    (stageOk v k = false ∨ nr ≤ r → exec (.stacq g d a role tr) s = fault ∧ exec (.strel g a b role) s = fault) ∧
    (stageOk v k = true → r < nr →
      (owner c = r → older = false →
        exec (.stacq g d a role tr) s = .next (ended s ((v.write (k + 2 + r) (bytesOf 1 ((c + 1) % ns))).setS d (wordN c)) .seq)) ∧
      (owner c ≠ r ∨ older = true →
        (tr = true → exec (.stacq g d a role tr) s = .next (ended s (v.setS d (BitVec.allOnes 64)) .seq)) ∧
        (tr = false → exec (.stacq g d a role tr) s = .next (blocked q.1 (.ring k (2 + r) q.2)))) ∧
      (ns ≤ i ∨ owner i ≠ r → exec (.strel g a b role) s = fault) ∧
      (i < ns → owner i = r → exec (.strel g a b role) s = .next (ended s (v.write (k + 16 + 2 * i) (bytesOf 2
        (if r + 1 = nr then 16 * ((lap + 1) % 256) else (r + 1) + 8 + 16 * lap))) .seq))))

/-- R259, R260, R269: no ring instruction breaks a ring. From every state in which the ring header at the key of s[A] agrees with itself (its counts, its pointers and its bits), and which then is a valid one, every step of `rbacq`, `rbtake`, `rbpub` and `rbrel` on it, whatever their operands, traps, or waits with all of memory as it was once the slot's earlier stores had
entered the cache, or retires with a header that agrees with itself, of the same base and the same slots, and every byte outside the header as it was; an address that `rbacq` and `rbtake` give is the first byte of a slot of the ring. Where no trap is due at the retirement, the same holds of the header in the next state. -/
def Obligations.RingInvariant : Prop :=
  ∀ (s v : State) (g : Guard) (d a b : Reg) (n : BitVec 9) (tr : Bool) (i : Instr) (k : Nat),
    let gets := i = .rbacq g d a n tr ∨ i = .rbtake g d a n tr;
    gets ∨ i = .rbpub g a b n ∨ i = .rbrel g a b n → s.guardTrue g = true → s.memOk = true → headerKey s (s.getS a) 128 = .ok v k →
    let r := ringAt v k
    let good := fun x : State => (ringAt x k).consistent = true ∧ (ringAt x k).base = r.base ∧ (ringAt x k).nslot = r.nslot ∧ (ringAt x k).sz = r.sz;
    r.consistent = true → r.ok = true ∧ ∃ t : State, exec i s = .next t ∧
      ((∃ x : Trap, t = headTrap (barrelMoved v) v.cur x) ∨ (t.mem = v.mem ∧ (t.slot s.cur).wait ≠ .none ∧ good t) ∨
        ∃ u : State, t = ended s u .seq ∧ good u ∧ (∀ j, j < k ∨ k + 128 ≤ j → u.mem.get j = v.mem.get j) ∧
          (gets → d ≠ 0 → (u.getS d = 0 ∧ tr = true) ∨ ∃ j < r.nslot, u.getS d = wordN (r.base + j * r.sz)) ∧
          (refusalDue u u.cur = none → stepping s s.cur = false → (advance u.sl .seq).skip = false → t.mem = u.mem ∧ good t))

/-- R272, R285: `sopen` reads the 32-byte descriptor at s[A] + sext(off) and opens the stream at its level with the parent position of s[B]: the whole dimension for a dense or a bitmap fibre, one entry for a singleton, and the two
positions that it reads for a compressed one; a descriptor that is not valid under R272 is a stream trap of kind 2, and positions that go down are a malformed-fibre fault of kind 4; both leave the stream registers. R273, R274, R276: the head of a stream. A window that is not empty, or a stream at its end, is left as it is; a dense stream refills its window with its next coordinates, 32 at most, each at the position
PARENT × DIM + c; a compressed one reads its next coordinates, 32 at most, which must increase and stay below DIM, and a fault keeps those before the failing one; a singleton reads one; a bitmap reads words, eight at most, until 32 set bits or the end are found, and refills again where eight words held none. R293, R294, Table 10.4: `ssave` writes the 640-byte image of a stream register and `srest` takes one back; what is saved of an open register is restored, and of a closed one the closed register; an image with a field that R294
does not permit leaves the register and is a stream trap of kind 7 with the offset of the first such field. -/
def Obligations.StreamOpenAndState : Prop :=
  (∀ (s v : State) (g : Guard) (f : Fin 8) (a b : Reg) (off : BitVec 16) (n : Nat), s.guardTrue g = true →
    streamLoad s (s.getS a + off.signExtend 64) 32 = .ok v n →
    let d := bytesOf 32 n
    let p := s.getS b
    let dim := leAt d 4 4
    let at' := wordN (leAt d 8 8) + 4 * p
    let opens := fun (t : State) (k : FibreKind) (fc fend : Nat) => exec (.sopen g f a b off) s = .next (ended s (setStrm t f
      ⟨true, k, BitVec.ofNat 8 (leAt d 1 1), BitVec.ofNat 32 dim, wordN (leAt d 8 8), wordN (leAt d 16 8), wordN (leAt d 24 8), p, wordN fc, wordN fend,
        [], 0, false, 0, 0, false⟩) .seq)
    (descriptorOk d = true →
      (leAt d 0 1 = 0 → opens v .dense 0 dim) ∧ (leAt d 0 1 = 2 → opens v .bitmap 0 dim) ∧ (leAt d 0 1 = 3 → opens v .singleton 0 1) ∧
      (leAt d 0 1 = 1 → ∀ w lo x hi, streamLoad v at' 4 = .ok w lo → streamLoad w (at' + 4) 4 = .ok x hi →
        (lo ≤ hi → opens x .compressed lo hi) ∧
        (hi < lo → ∃ t u, exec (.sopen g f a b off) s = .next (headTrap (barrelMoved t) t.cur u) ∧ u.cause = 19 ∧ u.sub = 4 ∧ t.sl.f = x.sl.f ∧
          t.sl.sfdet = wordN (4 * 2 ^ 16 + f.val)))) ∧
    (descriptorOk d = false → ∃ t u, exec (.sopen g f a b off) s = .next (headTrap (barrelMoved t) t.cur u) ∧ u.cause = 18 ∧ u.sub = 2 ∧ t.sl.f = v.sl.f ∧
      t.sl.sfdet = wordN (2 * 2 ^ 16 + f.val)) ∧
    (descriptorOk d = true ↔
      let k := leAt d 0 1
      let posa := leAt d 8 8
      let crda := leAt d 16 8
      k ≤ 3 ∧ leAt d 1 1 ≤ 3 ∧ leAt d 2 2 = 0 ∧ dim ≠ 0 ∧ (k = 1 → posa % 4 = 0) ∧ (k = 2 → posa % 8 = 0) ∧ (k = 0 ∨ k = 3 → posa = 0) ∧
      (k = 1 ∨ k = 3 → crda % 4 = 0) ∧ (k = 0 ∨ k = 2 → crda = 0) ∧ leAt d 24 8 % 2 ^ leAt d 1 1 = 0)) ∧
  (∀ (s : State) (f : StreamReg),
    (f.win ≠ [] ∨ f.fend.toNat ≤ f.fc.toNat → headOf s f = .ok s f) ∧
    (f.win = [] → f.fc.toNat < f.fend.toNat → f.kind = .dense → f.fend.toNat ≤ 2 ^ 32 →
      let n := min 32 (f.fend.toNat - f.fc.toNat)
      headOf s f = .ok s { f with
        win := (List.range n).map fun i => (BitVec.ofNat 32 (f.fc.toNat + i), f.parent * wordN f.dim.toNat + f.fc + wordN i),
        fc := f.fc + wordN n, lastc := BitVec.ofNat 32 (f.fc.toNat + n - 1), lv := true }) ∧
    (f.win = [] → f.fc.toNat < f.fend.toNat → f.kind = .singleton → ∀ v c, f.fend = 1 → streamLoad s (f.crda + 4 * f.parent) 4 = .ok v c →
      (c < f.dim.toNat → headOf s f = .ok v { f with win := [(BitVec.ofNat 32 c, f.parent)], fc := 1, lastc := BitVec.ofNat 32 c, lv := true }) ∧
      (f.dim.toNat ≤ c → headOf s f = .fault v f 5 (kindTrap 5))) ∧
    (f.win = [] → f.fc.toNat < f.fend.toNat → f.kind = .compressed → ∀ (st : Nat → State) (cs : Nat → Nat) (m : Nat), st 0 = s →
      let n := min 32 (f.fend.toNat - f.fc.toNat)
      let at' := fun j : Nat => f.crda + 4 * (f.fc + wordN j)
      let before := fun j : Nat => j = 0 ∧ f.lv = false ∨ (if j = 0 then f.lastc.toNat else cs (j - 1)) < cs j
      let last := fun j : Nat => if j = 0 then f.lastc else BitVec.ofNat 32 (cs (j - 1))
      let entries := fun j : Nat => (List.range j).map fun i => (BitVec.ofNat 32 (cs i), f.fc + wordN i)
      let after := fun j : Nat => ({ f with win := entries j, fc := f.fc + wordN j, lastc := last j, lv := f.lv || decide (0 < j) } : StreamReg);
      (∀ j < m, streamLoad (st j) (at' j) 4 = .ok (st (j + 1)) (cs j) ∧ before j ∧ cs j < f.dim.toNat) →
      (m = n → headOf s f = .ok (st n) (after n)) ∧
      (m < n →
        (∀ v c, streamLoad (st m) (at' m) 4 = .ok v c → c = cs m → ¬before m → headOf s f = .fault v (after m) 3 (kindTrap 3)) ∧
        (∀ v c, streamLoad (st m) (at' m) 4 = .ok v c → c = cs m → before m → f.dim.toNat ≤ c → headOf s f = .fault v (after m) 5 (kindTrap 5)) ∧
        (∀ v t, streamLoad (st m) (at' m) 4 = .trap v t → headOf s f = .fault v (after m) 0 t))) ∧
    (f.win = [] → f.fc.toNat < f.fend.toNat → f.kind = .bitmap → f.fend.toNat ≤ 2 ^ 32 → ∀ (st : Nat → State) (ws : Nat → Nat) (m : Nat), st 0 = s →
      let j0 := f.fc.toNat / 64
      let coords := fun i : Nat => ((List.range (64 * i)).map (64 * j0 + ·)).filter fun c =>
        decide (f.fc.toNat ≤ c) && (ws (c / 64 - j0)).testBit (c % 64)
      let found := (coords m).take 32
      let wins := fun l : List Nat => l.map fun c => (BitVec.ofNat 32 c, f.parent * wordN f.dim.toNat + wordN c)
      let next := min (64 * (j0 + m)) f.fend.toNat
      0 < m → m ≤ 8 → (∀ i < m, streamLoad (st i) (f.posa + 8 * (f.parent * wordN ((f.dim.toNat + 63) / 64) + wordN (j0 + i))) 8 = .ok (st (i + 1)) (ws i)) →
      (∀ i < m, (coords i).length < 32 ∧ (i ≠ 0 → 64 * (j0 + i) < f.fend.toNat)) →
      ((∀ c ∈ found, c < f.dim.toNat) → (32 ≤ (coords m).length ∨ f.fend.toNat ≤ 64 * (j0 + m) ∨ m = 8) →
        (∀ c, found.getLast? = some c → let to' := if 32 ≤ (coords m).length then c + 1 else next
          headOf s f = .ok (st m) { f with win := wins found, lastc := BitVec.ofNat 32 c, lv := true, fc := wordN to' }) ∧
        (found = [] → f.fend.toNat ≤ 64 * (j0 + m) → headOf s f = .ok (st m) { f with fc := f.fend }) ∧
        (found = [] → m = 8 → 64 * (j0 + m) < f.fend.toNat → headOf s f = headGo (st m) { f with fc := wordN next } (2 ^ 32 - 1))) ∧
      ((∃ c ∈ found, f.dim.toNat ≤ c) → (∀ c ∈ coords (m - 1), c < f.dim.toNat) → ∃ x : StreamReg, headOf s f = .fault (st m) x 5 (kindTrap 5) ∧
        x.win = wins (found.takeWhile fun c => decide (c < f.dim.toNat)) ∧ x.dv = f.dv ∧ x.dc = f.dc ∧ x.dp = f.dp))) ∧
  (∀ (s v w : State) (g : Guard) (f : Fin 8) (a : Reg) (bs : List Byte) (l : List Piece), s.guardTrue g = true →
    (piecesLoc s .write true (s.getS a) 10 0 = .ok v l → piecesWrite v (strm v f).image 0 l = .ok w () → exec (.ssave g f a) s = .next (ended s w .seq)) ∧
    (piecesLoc s .read false (s.getS a) 10 0 = .ok v l → piecesRead v l = .ok w bs →
      (leAt bs 0 1 = 0 → exec (.srest g f a) s = .next (ended s (setStrm w f StreamReg.init) .seq)) ∧
      (leAt bs 0 1 = 1 → imageFault bs = none → exec (.srest g f a) s = .next (ended s (setStrm w f (streamOf bs)) .seq)) ∧
      (1 < leAt bs 0 1 ∨ leAt bs 0 1 = 1 ∧ imageFault bs ≠ none →
        ∃ t u, exec (.srest g f a) s = .next (headTrap (barrelMoved t) t.cur u) ∧ u.cause = 18 ∧ u.sub = 7 ∧ t.sl.f = w.sl.f ∧
          t.sl.sfdet = wordN ((if leAt bs 0 1 = 1 then (imageFault bs).getD 0 else 0) * 2 ^ 32 + 7 * 2 ^ 16 + f.val))) ∧
    (∀ key, l = (List.range 10).map (fun i => Piece.loc (s.getS a + wordN (64 * i)) (.mem (key + 64 * i))) →
      let e := storesEnter v v.cur;
      (v.memOk = true → bs.length = 640 → ∃ x, piecesWrite v bs 0 l = .ok x () ∧ (∀ j < 640, x.mem.get (key + j) = bs.getD j 0) ∧
        ∀ j, j < key ∨ key + 640 ≤ j → x.mem.get j = e.mem.get j) ∧
      ((∀ i < 10, guarded e (clusterOf v.cur) (key + 64 * i) 64 = false) → e.lostIn key 640 = false →
        ∃ x, piecesRead v l = .ok x ((List.range 640).map fun j => e.mem.get (key + j)))) ∧
    (let wn := leAt bs 3 1
      let k := leAt bs 1 1
      let coord := fun i : Nat => leAt bs (128 + 16 * i) 4
      let bad := fun i : Nat => i = 1 ∧ 3 < k ∨ i = 2 ∧ 3 < leAt bs 2 1 ∨ i = 3 ∧ 32 < wn ∨
        i = 4 ∧ (leAt bs 4 1 / 4 ≠ 0 ∨ 0 < wn ∧ leAt bs 4 1 / 2 % 2 = 0) ∨ i = 5 ∧ leAt bs 5 3 ≠ 0 ∨ i = 8 ∧ leAt bs 8 4 = 0 ∨
        i = 12 ∧ 0 < wn ∧ leAt bs 12 4 ≠ coord (wn - 1) ∨
        i = 16 ∧ (k = 1 ∧ leAt bs 16 8 % 4 ≠ 0 ∨ k = 2 ∧ leAt bs 16 8 % 8 ≠ 0 ∨ (k = 0 ∨ 3 ≤ k) ∧ leAt bs 16 8 ≠ 0) ∨
        i = 24 ∧ ((k = 1 ∨ 3 ≤ k) ∧ leAt bs 24 8 % 4 ≠ 0 ∨ (k = 0 ∨ k = 2) ∧ leAt bs 24 8 ≠ 0) ∨ i = 32 ∧ leAt bs 32 8 % 2 ^ leAt bs 2 1 ≠ 0 ∨
        i = 48 ∧ leAt bs 56 8 < leAt bs 48 8 ∨ i = 56 ∧ ((k = 0 ∨ k = 2) ∧ leAt bs 56 8 ≠ leAt bs 8 4 ∨ 3 ≤ k ∧ leAt bs 56 8 ≠ 1) ∨
        i = 76 ∧ leAt bs 76 52 ≠ 0 ∨
        ∃ j < 32, i = 128 + 16 * j ∧ (j < wn ∧ (leAt bs 8 4 ≤ coord j ∨ 0 < j ∧ coord j ≤ coord (j - 1)) ∨ wn ≤ j ∧ leAt bs (128 + 16 * j) 16 ≠ 0);
      (imageFault bs = none ↔ ∀ i, ¬bad i) ∧ ∀ i, imageFault bs = some i ↔ bad i ∧ ∀ j < i, ¬bad j) ∧
    ∀ x : StreamReg, x.image.length = 640 ∧ (x.opened = false → leAt x.image 0 1 = 0) ∧
      (x.opened = true → x.win.length ≤ 32 → leAt x.image 0 1 = 1 ∧
        streamOf x.image = { x with lastc := if x.lv then x.lastc else 0, dp := if x.dv then x.dp else 0, dc := if x.dv then x.dc else 0 }))

/-- R286 to R288, R290: the instructions that move along open streams. `snext` delivers the head and gives its coordinate, or all ones at the end; `sdone` tells whether the end is reached; `sisect` drops the smaller head until the
heads agree or a stream ends; `sskip` gives the first coordinate that is not below s[B]: it drops the window's entries below, moves the cursor of a dense or bitmap stream on without reading, and refills until it finds one or the end. A closed register is a fault, of two closed ones at the first (log entry 55), and a fault of a refill, of either operand, leaves the streams as the refills left them (R276). R289, R291, R292, R295: `sunion` delivers the smaller head, or both where they agree, and says in bits 32 and 33 which streams hold it; `scrd` gives coordinate and position of the delivered entry, or all ones; `sval` gives 0
where nothing is delivered, and otherwise the value at VALA + position × size, extended as its form says; `sclose` closes the register. -/
def Obligations.StreamStepsAndValues : Prop :=
  (∀ (s v : State) (g : Guard) (d b : Reg) (gd f f2 : Fin 8) (x : StreamReg), s.guardTrue g = true →
    let closed := fun i => ∃ t u, exec i s = .next (headTrap (barrelMoved t) t.cur u) ∧ u.cause = 18 ∧ u.sub = 1 ∧ t.sl.f = s.sl.f;
    ((strm s f).opened = false → ∀ i ∈ [Instr.snext g d f, .sdone g gd f, .sisect g d f f2, .sunion g d f f2, .sskip g d f b, .scrd g d f b, .sval g d f true],
      closed i) ∧
    (∀ i ∈ [Instr.sisect g d f f2, .sunion g d f f2], ∀ r : Fin 8, ((strm s f).opened = false ∧ r = f ∨ (strm s f).opened = true ∧ (strm s f2).opened = false ∧ r = f2) →
      ∃ t u, exec i s = .next (headTrap (barrelMoved t) t.cur u) ∧ u.cause = 18 ∧ u.sub = 1 ∧ t.sl.f = s.sl.f ∧
        t.sl.sfdet = wordN ((strm s r).fc.toNat % 2 ^ 32 * 2 ^ 32 + 2 ^ 16 + r.val)) ∧
    ((strm s f).opened = true → (strm s f2).opened = true →
      (∀ t nx, sisectGo s d f f2 (strm s f) (strm s f2) (2 ^ 34) = .retire t nx → exec (.sisect g d f f2) s = .next (ended s t nx)) ∧
      (∀ t q, sisectGo s d f f2 (strm s f) (strm s f2) (2 ^ 34) = .trap t q → exec (.sisect g d f f2) s = .next (headTrap (barrelMoved t) t.cur q)) ∧
      (∀ t w, sisectGo s d f f2 (strm s f) (strm s f2) (2 ^ 34) = .wait t w → exec (.sisect g d f f2) s = .next (blocked t w))) ∧
    ((strm s f).opened = true → headOf s (strm s f) = .ok v x →
      (x.win = [] → exec (.snext g d f) s = .next (ended s ((setStrm v f { x with dv := false }).setS d (BitVec.allOnes 64)) .seq) ∧
        exec (.sdone g gd f) s = .next (ended s ((setStrm v f x).setG gd true) .seq)) ∧
      (∀ c p t, x.win = (c, p) :: t →
        exec (.snext g d f) s = .next (ended s ((setStrm v f { x with dc := c, dp := p, dv := true, win := t }).setS d (wordN c.toNat)) .seq) ∧
        exec (.sdone g gd f) s = .next (ended s ((setStrm v f x).setG gd false) .seq)) ∧
      ((strm s f2).opened = true → ∀ w y, headOf v (strm s f2) = .ok w y → f ≠ f2 →
        (∀ c p t c' p' t', x.win = (c, p) :: t → y.win = (c', p') :: t' → c = c' → exec (.sisect g d f f2) s = .next (ended s
          ((setStrm (setStrm w f { x with dc := c, dp := p, dv := true, win := t }) f2 { y with dc := c', dp := p', dv := true, win := t' }).setS d
            (wordN c.toNat)) .seq)) ∧
        (x.win = [] → exec (.sisect g d f f2) s = .next (ended s
          ((setStrm (setStrm v f { x with dv := false }) f2 { strm s f2 with dv := false }).setS d (BitVec.allOnes 64)) .seq)) ∧
        (x.win ≠ [] → y.win = [] → exec (.sisect g d f f2) s = .next (ended s
          ((setStrm (setStrm w f { x with dv := false }) f2 { y with dv := false }).setS d (BitVec.allOnes 64)) .seq)))) ∧
    (∀ (a y z : StreamReg) (t u : State) (n : Nat) (c c' : BitVec 32) (p p' : Word) (l l' : List (BitVec 32 × Word)),
      headOf t a = .ok v x → headOf v y = .ok u z → x.win = (c, p) :: l → z.win = (c', p') :: l' →
      (c.toNat < c'.toNat → sisectGo t d f f2 a y (n + 1) = sisectGo u d f f2 { x with win := l } z n) ∧
      (c'.toNat < c.toNat → sisectGo t d f f2 a y (n + 1) = sisectGo u d f f2 x { z with win := l' } n) ∧
      (c = c' → sisectGo t d f f2 a y (n + 1) = .retire
        ((setStrm (setStrm u f { x with dc := c, dp := p, dv := true, win := l }) f2 { z with dc := c, dp := p', dv := true, win := l' }).setS d (wordN c.toNat)) .seq)) ∧
    (∀ (a y : StreamReg) (t : State) (n : Nat), headOf t a = .ok v x →
      let atEnd := fun (u : State) (z : StreamReg) => sisectGo t d f f2 a y (n + 1) =
        .retire ((setStrm (setStrm u f { x with dv := false }) f2 { z with dv := false }).setS d (BitVec.allOnes 64)) .seq
      (x.win = [] → atEnd v y) ∧ (x.win ≠ [] → ∀ u z, headOf v y = .ok u z → z.win = [] → atEnd u z)) ∧
    (f ≠ f2 → (strm s f).opened = true → (strm s f2).opened = true → headOf s (strm s f) = .ok v x → ∀ w y k q, headOf v (strm s f2) = .fault w y k q →
      let faults := fun i => ∃ t u, exec i s = .next (headTrap (barrelMoved t) t.cur u) ∧ u.cause = q.cause ∧ t.sl.f[f] = x ∧ t.sl.f[f2] = y ∧ t.sl.s = w.sl.s ∧
        t.sl.g = w.sl.g ∧ t.sl.sfdet = wordN (y.fc.toNat % 2 ^ 32 * 2 ^ 32 + k * 2 ^ 16 + f2.val)
      faults (.sunion g d f f2) ∧ (x.win ≠ [] → faults (.sisect g d f f2))) ∧
    ((strm s f).opened = true → (∃ e ∈ (strm s f).win, (s.getS b).toNat ≤ e.1.toNat) →
      ∃ (l r : List (BitVec 32 × Word)) (c : BitVec 32) (p : Word), (strm s f).win = l ++ (c, p) :: r ∧ (∀ e ∈ l, e.1.toNat < (s.getS b).toNat) ∧
        (s.getS b).toNat ≤ c.toNat ∧
        exec (.sskip g d f b) s = .next (ended s ((setStrm s f { strm s f with win := (c, p) :: r }).setS d (wordN c.toNat)) .seq)) ∧
    ((strm s f).opened = true → (∀ e ∈ (strm s f).win, e.1.toNat < (s.getS b).toNat) →
      let r := strm s f
      let V := (s.getS b).toNat
      let cursor := fun y : StreamReg => if y.kind = .dense ∨ y.kind = .bitmap then wordN (max y.fc.toNat (min V y.fend.toNat)) else y.fc
      let moved := fun y : StreamReg => ({ y with win := [], fc := cursor y } : StreamReg)
      (headOf s (moved r) = .ok v x →
        (x.win = [] → exec (.sskip g d f b) s = .next (ended s ((setStrm v f x).setS d (BitVec.allOnes 64)) .seq)) ∧
        (∀ c p t, x.win = (c, p) :: t → V ≤ c.toNat → exec (.sskip g d f b) s = .next (ended s ((setStrm v f x).setS d (wordN c.toNat)) .seq)) ∧
        (∀ c p t, x.win = (c, p) :: t → c.toNat < V →
          (∀ w y, sskipGo v x V (2 ^ 32 - 1) = .ok w y → exec (.sskip g d f b) s = .next (ended s ((setStrm w f y).setS d
            (match y.win with | [] => BitVec.allOnes 64 | (c', _) :: _ => wordN c'.toNat)) .seq)) ∧
          (∀ w y n, (∀ e ∈ x.win, e.1.toNat < V) → headOf v (moved x) = .ok w y → (y.win = [] ∨ ∃ c' p' t', y.win = (c', p') :: t' ∧ V ≤ c'.toNat) →
            sskipGo v x V (n + 1) = .ok w y) ∧
          (∀ w y n, (∀ e ∈ x.win, e.1.toNat < V) → headOf v (moved x) = .ok w y → (∃ c' p' t', y.win = (c', p') :: t' ∧ c'.toNat < V) →
            sskipGo v x V (n + 1) = sskipGo w y V n) ∧
          (∀ l c' p' t' n, x.win = l ++ (c', p') :: t' → (∀ e ∈ l, e.1.toNat < V) → V ≤ c'.toNat →
            sskipGo v x V (n + 1) = .ok v { x with win := (c', p') :: t' }))) ∧
      (∀ k q, headOf s (moved r) = .fault v x k q → ∃ t u, exec (.sskip g d f b) s = .next (headTrap (barrelMoved t) t.cur u) ∧ u.cause = q.cause ∧
        t.sl.f = (setStrm v f x).sl.f ∧ t.sl.s = v.sl.s ∧ t.sl.sfdet = wordN (x.fc.toNat % 2 ^ 32 * 2 ^ 32 + k * 2 ^ 16 + f.val))) ∧
    ((strm s f).opened = true → ∀ k q, headOf s (strm s f) = .fault v x k q → ∀ i ∈ [Instr.snext g d f, .sdone g gd f, .sisect g d f f2, .sunion g d f f2],
      f ≠ f2 → (strm s f2).opened = true → ∃ t u, exec i s = .next (headTrap (barrelMoved t) t.cur u) ∧ u.cause = q.cause ∧
        t.sl.f[f] = x ∧ t.sl.s = v.sl.s ∧ t.sl.g = v.sl.g ∧ t.sl.sfdet = wordN (x.fc.toNat % 2 ^ 32 * 2 ^ 32 + k * 2 ^ 16 + f.val))) ∧
  (∀ (s v w : State) (g : Guard) (d b : Reg) (f f2 : Fin 8) (sgn : Bool) (x y : StreamReg), s.guardTrue g = true →
    let r := strm s f;
    (r.opened = true → (strm s f2).opened = true → f ≠ f2 → headOf s r = .ok v x → headOf v (strm s f2) = .ok w y →
      let u := fun (x' y' : StreamReg) (k : Word) => exec (.sunion g d f f2) s = .next (ended s ((setStrm (setStrm w f x') f2 y').setS d k) .seq);
      (x.win = [] → y.win = [] → u { x with dv := false } { y with dv := false } (BitVec.allOnes 64)) ∧
      (∀ c p t, x.win = (c, p) :: t → (∀ c' p' t', y.win = (c', p') :: t' → c.toNat < c'.toNat) →
        u { x with dc := c, dp := p, dv := true, win := t } { y with dv := false } (wordN (c.toNat + 2 ^ 32))) ∧
      (∀ c p t, y.win = (c, p) :: t → (∀ c' p' t', x.win = (c', p') :: t' → c.toNat < c'.toNat) →
        u { x with dv := false } { y with dc := c, dp := p, dv := true, win := t } (wordN (c.toNat + 2 ^ 33))) ∧
      (∀ c p t p' t', x.win = (c, p) :: t → y.win = (c, p') :: t' →
        u { x with dc := c, dp := p, dv := true, win := t } { y with dc := c, dp := p', dv := true, win := t' } (wordN (c.toNat + 3 * 2 ^ 32)))) ∧
    (r.opened = true →
      exec (.scrd g d f b) s = .next (ended s ((s.setS b (if r.dv then r.dp else BitVec.allOnes 64)).setS d
        (if r.dv then wordN r.dc.toNat else BitVec.allOnes 64)) .seq) ∧
      (r.vala = 0 → ∃ t q, exec (.sval g d f sgn) s = .next (headTrap (barrelMoved t) t.cur q) ∧ q.cause = 18 ∧ q.sub = 6) ∧
      (r.vala ≠ 0 → r.dv = false → exec (.sval g d f sgn) s = .next (ended s (s.setS d 0) .seq)) ∧
      (r.vala ≠ 0 → r.dv = true → ∀ k, let n := 2 ^ (r.esz.toNat % 4); streamLoad s (r.vala + r.dp * wordN n) n = .ok v k → k < 2 ^ (8 * n) →
        exec (.sval g d f sgn) s = .next (ended s (v.setS d
          (if sgn = true ∧ 2 ^ (8 * n) ≤ 2 * k then BitVec.ofInt 64 ((k : Int) - 2 ^ (8 * n)) else BitVec.ofNat 64 k)) .seq))) ∧
    exec (.sclose g f) s = .next (ended s (setStrm s f StreamReg.init) .seq))

/-- R318, R319: `cwb`, `cinv`, `cwbi` and `iinv` on a range of blocks, after the slot's own stores. An empty range, and blocks below 2^41, are passed over; a range past 2^64 is an address fault; the others are taken page by page, and each page is translated and written back, discarded, or both, in the CDC of the
cluster, or recorded for `iinv`; a page that faults ends the head with the effects of the pages before it. `cwb` and `cwbi` of some bytes send their write-backs once, and retire when these, and those of the cluster sent before them, are performed (log entry 10); of none they retire. In the CDC the sectors of the range lose their valid bits (`cinv`, `cwbi`) and their dirty bytes (all three), which `cwb` and `cwbi` send to their home slices, and nothing else changes there. `iinv`'s lines are absent when it completes; `ibar` waits for the `iinv`s of its slot and fetches the next head afresh. R320, R321: a prefetch retires and leaves its lines, those that are global, for its cluster to prefetch: each is dropped, or asked of its home slice and, with `cdc`, filled into the cache. `l2zero` of an aligned line of module memory drops its bytes from the cluster's CDC and has its home slice zero it, behind the writes that wait there, and retires once that is performed, for a line of another module when it is acknowledged; of a resident line, with nothing waiting at its slice, the 512 bytes are then zero at home, it holds no sector, and no other byte has changed. A misaligned one is an
alignment fault; an address of the local aperture, of the neighbour aperture, of a hole or of a gather window an access fault; an address from 2^57 on an address fault. -/
def Obligations.CacheRangesAndPrefetch : Prop :=
  (∀ (s : State) (g : Guard) (a b : Reg), s.guardTrue g = true →
    let A := (s.getS a).toNat
    let n := (s.getS b).toNat
    let e := storesEnter s s.cur
    let first := max (max (A / 64) (2 ^ 35)) s.sl.block
    let last := (A + n - 1) / 64
    let ends := fun (i : Instr) (v : State) => exec i s = .next (ended s v .seq)
    let pending := fun (x : State) (sent : Nat) => writesUpTo x (whoCdc x.myCl) sent = true ∨ awayUpTo x (whoCdc x.myCl) sent = true
    let sent := fun v : State => v.setSl { v.sl with rel := some v.age }
    let waits := fun (i : Instr) (v : State) => (n = 0 → ends i v) ∧
      (0 < n → (pending (sent v) v.age → exec i s = .next (blocked (sent v) .poll)) ∧ (¬pending (sent v) v.age → ends i (sent v)))
    let flush := fun (s : State) (cl pa : Nat) => cdcDiscard (cdcClean s cl pa) cl pa
    let forms : List (Instr × Access × (State → Nat → Nat → State) × (State → Prop)) :=
      [(.cwb g a b, .read, (fun s pa n => cdcRange cdcClean s s.myCl pa n), waits (.cwb g a b)),
       (.cwbi g a b, .read, (fun s pa n => cdcRange flush s s.myCl pa n), waits (.cwbi g a b)),
       (.cinv g a b, .write, (fun s pa n => cdcRange cdcDiscard s s.myCl pa n), ends (.cinv g a b)),
       (.iinv g a b, .read, noteIinv, ends (.iinv g a b))]
    (∀ i ∈ [Instr.cwb g a b, .cwbi g a b], ∀ r, s.sl.rel = some r → (pending s r → exec i s = .next (blocked s .poll)) ∧ (¬pending s r → ends i s)) ∧
    (let page := wordN (64 * first)
     let N := 64 * (last + 1 - first)
     let ready := fun (k : Access) (v : State) (pa key : Nat) => xlate e e.cur k page = .ok v (pa, key) ∧ ∃ l, globLoc v v.cur k page false pa key = .ok l;
     0 < n → A + n ≤ 2 ^ 64 → first ≤ last → last / 1024 = first / 1024 → whereIs page = .global →
      (∀ v pa key, ready .read v pa key → ends (.iinv g a b) (noteIinv v pa N) ∧
        (s.sl.rel = none →
          (¬pending (sent (cdcRange cdcClean v v.myCl pa N)) (cdcRange cdcClean v v.myCl pa N).age → ends (.cwb g a b) (sent (cdcRange cdcClean v v.myCl pa N))) ∧
          (¬pending (sent (cdcRange flush v v.myCl pa N)) (cdcRange flush v v.myCl pa N).age → ends (.cwbi g a b) (sent (cdcRange flush v v.myCl pa N))))) ∧
      (∀ v pa key, ready .write v pa key → ends (.cinv g a b) (cdcRange cdcDiscard v v.myCl pa N))) ∧
    ∀ f ∈ forms, (f.1 = .cwb g a b ∨ f.1 = .cwbi g a b → s.sl.rel = none) →
      (n = 0 ∨ A + n ≤ 2 ^ 41 → f.2.2.2 e) ∧
      (2 ^ 64 < A + n → exec f.1 s = .next (headTrap (barrelMoved e) e.cur (memTrap 7 f.2.1 (s.getS a)))) ∧
      (0 < n → A + n ≤ 2 ^ 64 →
        (∀ v, rangeGo f.2.1 f.2.2.1 last (last / 1024 + 2) e first = .ok v () → f.2.2.2 v) ∧
        (∀ v t, rangeGo f.2.1 f.2.2.1 last (last / 1024 + 2) e first = .trap v t → exec f.1 s = .next (headTrap (barrelMoved v) v.cur t)) ∧
        (∀ v w, rangeGo f.2.1 f.2.2.1 last (last / 1024 + 2) e first = .wait v w → exec f.1 s = .next (blocked v w))) ∧
      ∀ (u : State) (x y fuel : Nat),
        let va := wordN (64 * x)
        let go := rangeGo f.2.1 f.2.2.1 y (fuel + 1) u x
        let upto := min y (x / 1024 * 1024 + 1023);
        (y < x → go = .ok u ()) ∧
        (x ≤ y → whereIs va = .global →
          (∀ v t, xlate u u.cur f.2.1 va = .trap v t → go = .trap v t) ∧
          (∀ v w, xlate u u.cur f.2.1 va = .wait v w → go = .wait (v.setSl { v.sl with block := x }) w) ∧
          (∀ v pa key t, xlate u u.cur f.2.1 va = .ok v (pa, key) → globLoc v v.cur f.2.1 va false pa key = .error t → go = .trap v t) ∧
          (∀ v pa key l, xlate u u.cur f.2.1 va = .ok v (pa, key) → globLoc v v.cur f.2.1 va false pa key = .ok l →
            go = rangeGo f.2.1 f.2.2.1 y fuel (f.2.2.1 v pa (64 * (upto + 1 - x))) (upto + 1))) ∧
        (x ≤ y → (∃ w o, whereIs va = .window w o) → go = .trap u (memTrap 6 f.2.1 va)) ∧
        (x ≤ y → whereIs va = .beyond → go = .trap u (memTrap 7 f.2.1 va))) ∧
  (∀ (s : State) (cl pa n : Nat), ((s.cluster cl).cdc.map (·.la)).Nodup →
    ∀ p ∈ [(cdcClean, false), (cdcDiscard, true), ((fun s cl pa => cdcDiscard (cdcClean s cl pa) cl pa), true)],
      let t := cdcRange p.1 s cl pa n
      let inR := fun (l : CdcLine) (k : Nat) => decide (pa ≤ 512 * l.la + 64 * k) && decide (512 * l.la + 64 * k < pa + n);
      (∀ k, k ≠ cl → t.cluster k = s.cluster k) ∧ (t.cluster cl).icache = (s.cluster cl).icache ∧
      ∃ f : CdcLine → CdcLine, (t.cluster cl).cdc = (s.cluster cl).cdc.map f ∧ ∀ l ∈ (s.cluster cl).cdc, (f l).la = l.la ∧ (f l).key = l.key ∧ (f l).data = l.data ∧
        (∀ k < 8, (f l).valid.getLsbD k = (l.valid.getLsbD k && !(p.2 && inR l k))) ∧ ∀ o < 512, (f l).dirty.getLsbD o = (l.dirty.getLsbD o && !inR l (o / 64))) ∧
  (∀ (s : State) (cl pa n : Nat),
    let l := cdcFind (s.cluster cl) (pa / 512)
    let sec := pa % 512 / 64
    let mine := fun (x : CdcLine) (o : Nat) => decide (o / 64 = sec) && x.dirty.getLsbD o
    let bytes := fun x : CdcLine => ((List.range 512).filter (mine x)).map fun o => (o, Memory.get x.data o);
    let ops := [cdcClean, fun s cl pa => cdcDiscard (cdcClean s cl pa) cl pa];
    (cdcRange cdcDiscard s cl pa n).mem = s.mem ∧ (∀ op ∈ ops, l = none → { op s cl pa with clusters := s.clusters } = s ∧ (op s cl pa).cluster cl = s.cluster cl) ∧
    ∀ x, l = some x → ∀ op ∈ ops,
      let q := putReq (whoCdc cl) x.la x.key 0 (bytes x)
      let h := homeSlice s q.la
      (bytes x = [] → { op s cl pa with clusters := s.clusters } = s) ∧
      (bytes x ≠ [] → ∃ u : State, { op s cl pa with clusters := s.clusters } = u ∧
        (ownMemory s (512 * x.la) = true → u = setSlice { s with age := s.age + 1 } h { slice s h with reqs := (slice s h).reqs ++ [{ q with no := s.age + 1 }] }) ∧
        (ownMemory s (512 * x.la) = false → u = { s with age := s.age + 1, away := s.away ++ [⟨512 * x.la, whoCdc cl, s.ctxAt cl, s.tb + 1000000, 0, s.age + 1⟩] }))) ∧
  (∀ (s : State) (g : Guard), s.guardTrue g = true →
    let c := s.cluster s.myCl;
    ((∀ i ∈ c.iinvs, i.slot ≠ s.cur) → exec (.ibar g) s = .next (ended s s .afresh)) ∧
    ((∃ i ∈ c.iinvs, i.slot = s.cur) → exec (.ibar g) s = .next (blocked s .poll)) ∧
    (∀ pa n, ((noteIinv s pa n).cluster s.myCl).iinvs = c.iinvs ++ [⟨s.cur, [(pa / 64, n / 64)]⟩]) ∧
    (∀ cl i, let x := s.cluster cl
      x.iinvs[s.sel % x.iinvs.length]? = some i →
      ∃ t : State, exec (.iinvComplete cl) s = .next t ∧ (t.cluster cl).iinvs.length + 1 = x.iinvs.length ∧ t.mem = s.mem ∧ t.slots = s.slots ∧
        ∀ l : ILine, l ∈ (t.cluster cl).icache ↔ l ∈ x.icache ∧ ∀ r ∈ i.blocks, l.la < r.1 ∨ r.1 + r.2 ≤ l.la)) ∧
  (∀ (s : State) (g : Guard) (a : Reg) (n1 : BitVec 8) (cdc : Bool), s.guardTrue g = true →
    let va := s.getS a
    let V := va.toNat
    let i : Instr := .l2zero g a;
    let e := if cdc then storesEnter s s.cur else s
    let lines := ((List.range (n1.toNat + 1)).map fun i => wordN (V / 512 * 512 + 512 * i)).filter fun x => whereIs x == .global;
    (∃ t : State, exec (.l2pf g a n1 cdc) s = .next (ended s t .seq) ∧ { t with clusters := e.clusters } = e ∧ (∀ k, k ≠ s.myCl → t.cluster k = e.cluster k) ∧
      t.cluster s.myCl = { e.cluster s.myCl with fetches := (e.cluster s.myCl).fetches ++ lines.map fun x => (s.cur, x, s.sl.priv, cdc) }) ∧
    (∀ cl k m x p f, (s.cluster cl).fetches[k]? = some (m, x, p, f) →
      let left := ({ s with free := s.free + 1 } : State).setCluster cl { s.cluster cl with fetches := ldel (s.cluster cl).fetches k };
      (Config.choose s.free = false → prefetchLine s cl k = left) ∧
      (Config.choose s.free = true → ∀ t pa key, xlateFor left cl (s.ctxAt cl) (whoFetch m) p .read x none = (t, .ok pa key) →
        let y := enqueue t (homeSlice t (pa % 2 ^ 42 / 512)) ⟨pa % 2 ^ 42 / 512, key, .fetch, whoWalk, [], 0, 0⟩;
        (ownMemory t pa = false → prefetchLine s cl k = t) ∧ (ownMemory t pa = true → prefetchLine s cl k = if f then fetchSectors y cl pa key else y))) ∧
    (V % 512 ≠ 0 → exec i s = .next (headTrap (barrelMoved s) s.cur (memTrap 8 .write va))) ∧
    (V % 512 = 0 → (V < 2 ^ 41 ∨ 2 ^ 56 ≤ V ∧ V < 2 ^ 56 + 2 ^ 36) → exec i s = .next (headTrap (barrelMoved s) s.cur (memTrap 6 .write va))) ∧
    (V % 512 = 0 → 2 ^ 57 ≤ V → exec i s = .next (headTrap (barrelMoved s) s.cur (memTrap 7 .write va))) ∧
    (V % 512 = 0 → (2 ^ 41 ≤ V ∧ V < 2 ^ 56 ∨ 2 ^ 56 + 2 ^ 36 ≤ V ∧ V < 2 ^ 57) →
      (∀ v t, xlate s s.cur .write va = .trap v t → exec i s = .next (headTrap (barrelMoved v) v.cur t)) ∧
      (∀ v w, xlate s s.cur .write va = .wait v w → exec i s = .next (blocked v w)) ∧
      (∀ v pa key, xlate s s.cur .write va = .ok v (pa, key) →
        (∀ t, globLoc v v.cur .write va false pa key = .error t → exec i s = .next (headTrap (barrelMoved v) v.cur t)) ∧
        (∀ l, globLoc v v.cur .write va false pa key = .ok l → pa % 512 = 0 →
          let u := storesEnter v v.cur
          let la := pa % 2 ^ 42 / 512
          let h := homeSlice u la
          let c := slice u h
          let dropped := fun t : State => ∀ x, cdcFind (t.cluster v.myCl) (pa / 512) = some x → x.dirty = 0 ∧ x.valid = 0;
          (∃ t : State, zeroLine u pa key = .sent t ∧ (unperformed t v.cur = true → exec i s = .next (blocked t (.performs none))) ∧
            (unperformed t v.cur = false → exec i s = .next (ended s t .seq))) ∧
          (ownMemory u pa = false → ∃ t : State, exec i s = .next (blocked t (.performs none)) ∧ t.mem = u.mem ∧ dropped t ∧
            t.away = u.away ++ [⟨512 * (pa / 512), whoZero s.cur, u.ctx, u.tb + 1000000, 0, u.age + 1⟩]) ∧
          (ownMemory u pa = true → s.cur < 65536 → c.wbuf = [] → c.fills = [] → ((∃ r ∈ c.reqs, r.la = la ∧ r.kind.isWrite = true) ∨ la ∈ u.mgmt.snoops) →
            (∀ r ∈ c.reqs, r.kind.isWrite = true) → ∃ t : State, exec i s = .next (blocked t (.performs none)) ∧ t.mem = u.mem) ∧
          (ownMemory u pa = true → u.memOk = true → u.lost = [] → c.wbuf = [] → c.fills = [] → c.reqs = [] → c.refused = [] → la ∉ u.mgmt.held → la ∉ u.mgmt.snoops →
            (u.live.find? fun p => p.1 == la).isSome = true → unperformed u u.cur = false → ∀ z, c.find la = some z →
            ∃ t : State, exec i s = .next (ended s t .seq) ∧ t.memOk = true ∧ dropped t ∧
              (∀ j, t.mem.get j = if 512 * la ≤ j ∧ j < 512 * la + 512 then 0 else u.mem.get j) ∧
              (∃ z', (slice t h).find la = some z' ∧ nsecOf z'.hdr = 0 ∧ z'.dirty = true) ∧ (slice t h).zlines = c.zlines + 1 ∧
              (slice t h).freeSec + (slice t h).reserve = c.freeSec + c.reserve + nsecOf z.hdr))))) ∧
  (∀ x : State, x.sl.wait = .performs none → proceed x ⟨x.cur, 0, .performed, false⟩ = .next (finish x x.cur .seq (stepping x x.cur) none))

/-- R298, R304, R305, R307, R310: the events of a home slice. It serves a request that waits where none goes before it, its line is neither being filled nor in the write-back buffer, and it waits for no snoop of the host; before a device write to a line that the host may hold it sends one (R496); a write that meets an uncorrectable error is lost, its engine is told, and it is served again (R310); a read of a resident line makes it the most recently used. A refused write leaves the refusal queue when its replay is served, and
keeps its place, counted, when it is refused again; only the head of the queue may use the reserve. The
oldest entry of the write-back buffer goes to memory under the key of its tag, and one that has met an error leaves what memory holds and is recorded; while writes are refused a dirty victim takes its place. A fill makes its line resident with the bytes of memory, clean, unless it finds no tag or no sectors. -/
def Obligations.HomeSliceEvents : Prop :=
  ∀ (s : State) (n k : Nat),
    let c := slice s n
    let free := fun r : L2Req => ¬(r.kind.isWrite = true ∧ r.la ∈ s.mgmt.snoops) ∧ (∀ x ∈ c.reqs.takeWhile (· != r), ordered x r = false) ∧
      (∀ x ∈ c.fills, x.la ≠ r.la) ∧ (∀ x ∈ c.wbuf, x.la ≠ r.la) ∧ ∀ x ∈ c.refused, x.la = r.la → orderAgent x.who ≠ orderAgent r.who
    let snoop := fun r : L2Req => r.kind.isWrite = true ∧ r.who ≠ whoHost ∧ r.la ∈ s.mgmt.held
    let asked := fun t : State => t = { s with mgmt := t.mgmt } ∧ { t.mgmt with held := s.mgmt.held, snoops := s.mgmt.snoops } = s.mgmt;
    (∀ r, r ∈ servable s n ↔ r ∈ c.reqs ∧ free r) ∧
    (∀ x r, ordered x r = true ↔ x.la = r.la ∧ (x.who ≠ r.who ∨ ∃ p ∈ x.data, ∃ q ∈ r.data, p.1 / 64 = q.1 / 64)) ∧
    (servable s n = [] → exec (.l2RequestService n) s = .next s) ∧
    (∀ r, (servable s n)[s.sel % (servable s n).length]? = some r →
      let left := setSlice s n { c with reqs := c.reqs.erase r };
      (r.kind = .fetch → c.find r.la = none →
        exec (.l2RequestService n) s = .next (setSlice s n { c with reqs := c.reqs.erase r, fills := c.fills ++ [r] })) ∧
      (snoop r → ∃ t : State, exec (.l2RequestService n) s = .next t ∧ asked t ∧ r.la ∉ t.mgmt.held ∧ r.la ∈ t.mgmt.snoops) ∧
      (¬snoop r → r.kind ≠ .fetch ∨ c.find r.la ≠ none →
        let done := fun p : State × L2Ans => if p.2 = .refused then refuse p.1 n r false else p.1
        let p := serve left n r false;
        (p.2 ≠ .lost → exec (.l2RequestService n) s = .next (done p)) ∧
        (p.2 = .lost → exec (.l2RequestService n) s = .next (done (serve (opLost p.1 r.who r.va) n r false)))) ∧
      (∀ l, c.find r.la = some l → r.kind = .read → lineBad s r.la = false → (s.live.find? fun p => p.1 == r.la).isSome = true →
        ∃ t : State, exec (.l2RequestService n) s = .next t ∧ (slice t n).lines.head? = some l ∧ (slice t n).freeSec = c.freeSec ∧ t.mem = s.mem)) ∧
    (∀ r, c.refused[k]? = some r →
      let p := serve (settleLine s n r.la) n r (k == 0)
      let q := if p.2 = .lost then serve (opLost p.1 r.who r.va) n r (k == 0) else p;
      (r.kind ≠ .atomic → ((∃ x ∈ c.wbuf, x.la = r.la) ∨ r.la ∈ s.mgmt.snoops) → exec (.l2WriteReplay n k) s = .next s) ∧
      (r.kind ≠ .atomic → (∀ x ∈ c.wbuf, x.la ≠ r.la) → r.la ∉ s.mgmt.snoops → snoop r →
        ∃ t : State, exec (.l2WriteReplay n k) s = .next t ∧ asked t ∧ r.la ∉ t.mgmt.held ∧ r.la ∈ t.mgmt.snoops) ∧
      (r.kind ≠ .atomic → (∀ x ∈ c.wbuf, x.la ≠ r.la) → r.la ∉ s.mgmt.snoops → ¬snoop r →
        (q.2 = .served → ∃ t : State, exec (.l2WriteReplay n k) s = .next t ∧ (slice t n).refused = ldel c.refused k ∧ t.mem = q.1.mem) ∧
        (q.2 = .refused → ∃ t : State, exec (.l2WriteReplay n k) s = .next t ∧ (slice t n).refused = c.refused ∧
          (slice t n).refusedN = (slice q.1 n).refusedN + 1 ∧ t.mem = q.1.mem)) ∧
      (r.kind = .atomic → ((s.slot (r.who - whoSlot 0)).wait = .poll → exec (.l2WriteReplay n k) s = .next s) ∧
        ((s.slot (r.who - whoSlot 0)).wait ≠ .poll → ∃ t : State, exec (.l2WriteReplay n k) s = .next t ∧ (slice t n).refused = ldel c.refused k ∧ t.mem = s.mem))) ∧
    (∀ r, c.reserve ≤ (slice (serve s n r false).1 n).reserve) ∧
    (c.refused[k]? = none → exec (.l2WriteReplay n k) s = .next s) ∧ (c.wbuf = [] → exec (.writeBackBufferDrain n) s = .next s) ∧
    (∀ e w, c.wbuf = e :: w → c.refused = [] → ∃ t : State, exec (.writeBackBufferDrain n) s = .next t ∧ (slice t n).wbuf = w ∧ (slice t n).lines = c.lines ∧
      (lineBad s e.la = false → lineKeyOf t e.la = keyMaterial s e.key ∧ t.mem = s.mem.puts (512 * e.la) e.data ∧ t.owed = s.owed) ∧
      (lineBad s e.la = true → t.mem = s.mem.puts (512 * e.la) e.low ∧ lineBad t e.la = false ∧
        (e.key ≠ 0 → ∃ o : OwedEntry, t.owed = s.owed ++ [o] ∧ o.type = 6 ∧ o.ctx = (tget KeyEntry.init s.keys e.key).owner))) ∧
    (∀ e w v, c.wbuf = e :: w → c.refused ≠ [] → (Slice.victim { c with wbuf := w } (2 ^ 42) true) = some v → lineBad s e.la = false → lineBad s v.la = false →
      ∃ t : State, exec (.writeBackBufferDrain n) s = .next t ∧ (slice t n).wbuf = w ++ [⟨v.la, v.key, lineDecode v.hdr v.data, v.low⟩]) ∧
    (c.fills[k]? = none → exec (.l2FillReturn n k) s = .next s) ∧
    (∀ r, c.fills[k]? = some r → (r.kind = .read ∨ r.kind = .fetch) → c.find r.la = none → s.lost = [] → (s.live.find? fun p => p.1 == r.la).isSome = true →
      ∃ t : State, exec (.l2FillReturn n k) s = .next t ∧ t.mem = s.mem ∧ (slice t n).fills = ldel c.fills k ∧
        let x := lineOf r.la r.key false (lineImage s r.la) []
        let q := Slice.alloc { c with fills := ldel c.fills k } (lineBad s) x false;
        (q.2.2 = true → (slice t n).lines.head? = some x) ∧ (q.2.2 = false → (slice t n).find r.la = none))

/-- R303, R304: the sectors of a slice always add up to its 16,384: the free ones, the reserve of 16 at most and those of its resident lines; and no line is resident twice. Where this holds of every slice it does so after every step of the module, whatever happens in it; it holds of a slice at reset. -/
def Obligations.SliceSectorsAddUp : Prop :=
  Slice.init.accounts ∧ (∀ p ∈ State.reset.slices, p.2.accounts) ∧
    ∀ s t : State, (∀ p ∈ s.slices, p.2.accounts) → step s = .next t → ∀ p ∈ t.slices, p.2.accounts

/-- R328 to R330: translation for a slot. An entry of the cluster's TLB for the context translates where its permissions allow the access in the slot's mode, becomes the latest used, and is otherwise an access fault; without one a walk is requested of the die, merged with an earlier request of the cluster for the page, and the slot waits for it, or tries again 16 cc later where the 64 walkers and the queue of 512 are taken; a walk that found no translation faults the head that
asked for it with the cause that it found. The engines and the prefetches of a cluster ask the same pool. R328: the walk of the page tables from the context's root, each entry read at its home slice, behind what waits there (R298): a table that is not in module memory, an entry that is not valid or with reserved bits set, and a leaf above depth 2, not aligned, or with W and without RD, are page faults; a leaf whose KEYID the context may not use (R332: neither 0 nor valid and owned by it) is an access fault; a
leaf gives the frame, the KEYID and the permissions U, X, W and RD of Table 12.3. (An entry lost to an error, of which R310 says that the request meets a data-loss fault, is one here too.) -/
def Obligations.TranslationAndWalks : Prop :=
  (∀ (s : State) (n : Nat) (k : Access) (va : Word),
    let cl := clusterOf n
    let hit := (s.cluster cl).tlb.find? fun e => e.ctx == s.ctxAt cl && va.toNat / 2 ^ e.size == e.vpn
    let allowed := fun e : TlbEntry => (match k with | .read => e.rd | .write => e.w | .fetch => e.x | .atomic => e.rd && e.w) && ((s.slot n).priv || e.u)
    let ws := (s.die (dieOf cl)).walks
    let same := ∃ r ∈ ws, r.cl = cl ∧ r.ctx = s.ctxAt cl ∧ r.va.toNat / 2 ^ 16 = va.toNat / 2 ^ 16;
    (∀ e, hit = some e → allowed e = true → ∃ t, xlate s n k va = .ok t (e.pa + va.toNat % 2 ^ e.size, e.key) ∧ { t with clusters := s.clusters } = s ∧
      (t.cluster cl).tlb.head? = some e ∧ ∀ j, j ≠ cl → t.cluster j = s.cluster j) ∧
    (∀ e, hit = some e → allowed e = false → xlate s n k va = .trap s ⟨6, (match k with | .read => 0 | .write => 1 | .fetch => 2 | .atomic => 3), 0, va, 0, []⟩) ∧
    (hit = none → (s.slot n).walkRes = none →
      (same → ∃ t, xlate s n k va = .wait t .walk ∧ { t with dies := s.dies } = s ∧ (t.die (dieOf cl)).walks.length = ws.length ∧
        ∃ r ∈ (t.die (dieOf cl)).walks, (n, k, (s.slot n).priv) ∈ r.slots) ∧
      (¬same → ws.length < 576 → ∃ t, xlate s n k va = .wait t .walk ∧ { t with dies := s.dies } = s ∧
        (t.die (dieOf cl)).walks = ws ++ [⟨cl, s.ctxAt cl, va, [(n, k, (s.slot n).priv)], false⟩]) ∧
      (¬same → 576 ≤ ws.length → xlate s n k va = .wait s (.walkFull (s.cc + 16)))) ∧
    (∀ c, hit = none → (s.slot n).walkRes = some (va.toNat / 2 ^ 16, c) →
      (c ≠ 26 → ∃ t, xlate s n k va = .trap t (memTrap c k va) ∧ (t.slot n).walkRes = none) ∧
      (c = 26 → ∃ t u, xlate s n k va = .trap t u ∧ u.cause = 26 ∧ u.sub = 3 ∧ u.addr = va))) ∧
  (∀ (s : State) (cl c who : Nat) (priv : Bool) (k : Access) (va : Word), whereIs va = .global →
    (s.cluster cl).tlb.find? (fun e => e.ctx == c && va.toNat / 2 ^ e.size == e.vpn) = none →
    let ws := (s.die (dieOf cl)).walks
    let same := ∃ r ∈ ws, r.cl = cl ∧ r.ctx = c ∧ r.va.toNat / 2 ^ 16 = va.toNat / 2 ^ 16
    let q := xlateFor s cl c who priv k va none;
    (same → ∃ t, q = (t, .later .walk) ∧ { t with dies := s.dies } = s ∧ (t.die (dieOf cl)).walks.length = ws.length ∧ ∃ r ∈ (t.die (dieOf cl)).walks, (who, k, priv) ∈ r.slots) ∧
    (¬same → ws.length < 576 → ∃ t, q = (t, .later .walk) ∧ { t with dies := s.dies } = s ∧ (t.die (dieOf cl)).walks = ws ++ [⟨cl, c, va, [(who, k, priv)], false⟩]) ∧
    (¬same → 576 ≤ ws.length → q = (s, .later (.full (s.cc + 16))))) ∧
  (∀ (s : State) (c va n t : Nat), n < 5 →
    let d := 4 - n
    let sz := [48, 39, 30, 21, 16].getD d 16
    let pa := t + 8 * (va / 2 ^ sz % (if d = 4 then 32 else 512))
    let la := pa % 2 ^ 42 / 512
    let x := slice s (homeSlice s la);
    walkTable s c (wordN va) = walkGo s c (va % 2 ^ 64) 5 (ctxField s c 8 8 / 2 ^ 12 % 2 ^ 40 * 2 ^ 12) ∧
    (ownMemory s t = false → walkGo s c va (n + 1) t = (s, .fault 5)) ∧
    (∀ l, ownMemory s pa = true → x.reqs = [] → x.fills = [] → x.refused = [] → x.wbuf = [] → x.find la = some l → lineBad s la = false →
      (s.live.find? fun p => p.1 == la).isSome = true → la ∉ s.mgmt.snoops →
      ∃ u, homeRead s whoWalk pa 0 8 = (u, .bytes ((List.range 8).map fun i => s.mem.get (pa % 2 ^ 42 + i))) ∧ u.mem = s.mem ∧ u.slots = s.slots) ∧
    (∀ u, ownMemory s t = true → homeRead s whoWalk pa 0 8 = (u, .lost) → walkGo s c va (n + 1) t = (u, .fault 26)) ∧
    (∀ u, ownMemory s t = true → homeRead s whoWalk pa 0 8 = (u, .later) → walkGo s c va (n + 1) t = (u, .later)) ∧
    (∀ u bs, ownMemory s t = true → homeRead s whoWalk pa 0 8 = (u, .bytes bs) →
      let e := ofBytes bs
      let adr := e / 2 ^ 12 % 2 ^ 40 * 2 ^ 12
      let key := e / 2 ^ 52
      let bit := fun i => e / 2 ^ i % 2 = 1
      let usable := key = 0 ∨ (tget KeyEntry.init u.keys key).v = true ∧ (tget KeyEntry.init u.keys key).owner = c
      let r := walkGo s c va (n + 1) t;
      ((¬bit 0 ∨ e / 2 ^ 6 % 2 ^ 6 ≠ 0) → r = (u, .fault 5)) ∧
      (bit 0 → e / 2 ^ 6 % 2 ^ 6 = 0 →
        (bit 1 → d ≠ 4 → key = 0 → e / 4 % 16 = 0 → r = walkGo u c va n adr) ∧
        (bit 1 → (d = 4 ∨ key ≠ 0 ∨ e / 4 % 16 ≠ 0) → r = (u, .fault 5)) ∧
        (¬bit 1 → (d < 2 ∨ adr % 2 ^ sz ≠ 0 ∨ bit 3 ∧ ¬bit 2) → r = (u, .fault 5)) ∧
        (¬bit 1 → 2 ≤ d → adr % 2 ^ sz = 0 → (bit 3 → bit 2) →
          (¬usable → r = (u, .fault 6)) ∧
          (usable → ∃ l : TlbEntry, r = (u, .leaf l) ∧ l.ctx = c ∧ l.size = sz ∧ l.vpn = va / 2 ^ sz ∧ l.pa = adr ∧ l.key = key ∧
            (l.rd = true ↔ bit 2) ∧ (l.w = true ↔ bit 3) ∧ (l.x = true ↔ bit 4) ∧ (l.u = true ↔ bit 5))))))

/-- R336, R342 to R344: gather windows. `gbind` takes the lowest free descriptor of the context and gives its address, or 0 where none is free; a misaligned or non-global base is a fault; `gunb` gives a bound window back, and 1 for an address that names
none; `gstat` gives the fields of a bound window, or 0. R345, R330: `tlbinv` removes every entry of the context, or those whose page overlaps the range, from every TLB of the module, and no other, marks every walk in flight for the context, which then installs nothing (log entry 12), and retires when these walks have ended. A walk that ends puts its entry into the TLB, unless an
invalidation has reached it, and the slots and the copy operations that wait for it go on; a walk that reads an entry behind what waits at its home slice is made again. -/
def Obligations.GatherWindowsAndTlbs : Prop :=
  (∀ (s : State) (g : Guard) (d a b : Reg) (esz : BitVec 3) (iw : BitVec 2) (sgn bytes : Bool) (cnt : BitVec 24), s.guardTrue g = true →
    let idx := s.getS a
    let base := s.getS b
    let win := fun w => tget Window.init s.windows (256 * s.ctx + w)
    let i : Instr := .gbind g d a b esz iw sgn bytes cnt
    let addr := fun w : Nat => wordN (0x100000000000000 + w * 2 ^ 28);
    (idx.toNat % 2 ^ iw.toNat ≠ 0 → exec i s = .next (headTrap (barrelMoved s) s.cur (memTrap 8 .read idx))) ∧
    (idx.toNat % 2 ^ iw.toNat = 0 → whereIs idx ≠ .global → exec i s = .next (headTrap (barrelMoved s) s.cur (memTrap 7 .read idx))) ∧
    (idx.toNat % 2 ^ iw.toNat = 0 → whereIs idx = .global → whereIs base ≠ .global → exec i s = .next (headTrap (barrelMoved s) s.cur (memTrap 7 .read base))) ∧
    (idx.toNat % 2 ^ iw.toNat = 0 → whereIs idx = .global → whereIs base = .global →
      ((∀ w < 256, (win w).bound = true) → exec i s = .next (ended s (s.setS d 0) .seq)) ∧
      (∀ w < 256, (win w).bound = false → (∀ x < w, (win x).bound = true) → ∃ t : State, exec i s = .next (ended s (t.setS d (addr w)) .seq) ∧
        tget Window.init t.windows (256 * s.ctx + w) = ⟨true, idx, base, esz, iw, sgn, bytes, cnt⟩ ∧ { t with windows := s.windows } = s ∧
        ∀ x, x ≠ 256 * s.ctx + w → tget Window.init t.windows x = tget Window.init s.windows x)) ∧
    (∀ w < 256, idx = addr w → (win w).bound = true →
      (∃ t : State, exec (.gunb g d a) s = .next (ended s (t.setS d 0) .seq) ∧ (tget Window.init t.windows (256 * s.ctx + w)).bound = false ∧
        (∀ x, x ≠ 256 * s.ctx + w → tget Window.init t.windows x = tget Window.init s.windows x) ∧ { t with windows := s.windows } = s) ∧
      exec (.gstat g d a) s = .next (ended s (s.setS d (wordN (2 ^ 63 + w * 2 ^ 32 + (win w).cnt.toNat * 2 ^ 8 + (if (win w).bytes then 2 ^ 6 else 0) +
        (if (win w).isgn then 2 ^ 5 else 0) + (win w).iw.toNat * 2 ^ 3 + (win w).esz.toNat))) .seq)) ∧
    ((∀ w < 256, idx = addr w → (win w).bound = false) →
      exec (.gunb g d a) s = .next (ended s (s.setS d 1) .seq) ∧ exec (.gstat g d a) s = .next (ended s (s.setS d 0) .seq))) ∧
  (∀ (s : State) (g : Guard) (a b : Reg) (all : Bool), s.guardTrue g = true →
    let A := (s.getS a).toNat
    let n := (s.getS b).toNat
    let touched := fun e : TlbEntry => e.ctx = s.ctx ∧ (all = true ∨ 0 < n ∧ e.vpn * 2 ^ e.size < A + n ∧ A < (e.vpn + 1) * 2 ^ e.size);
    (s.sl.priv = true → s.sl.wait = .poll →
      (deadWalk s s.ctx = true → exec (.tlbinv g a b all) s = .next (blocked s .poll)) ∧ (deadWalk s s.ctx = false → exec (.tlbinv g a b all) s = .next (ended s s .seq))) ∧
    (∀ c, deadWalk s c = true ↔ ∃ p ∈ s.dies, ∃ w ∈ p.2.walks, w.dead = true ∧ w.ctx = c) ∧
    (s.sl.priv = true → s.sl.wait ≠ .poll → ∃ t : State,
      (∀ cl e, e ∈ (t.cluster cl).tlb ↔ e ∈ (s.cluster cl).tlb ∧ ¬touched e) ∧ { t with clusters := s.clusters, dies := s.dies } = s ∧
      (∀ die, t.die die = { s.die die with walks := (s.die die).walks.map fun w => if w.ctx = s.ctx then { w with dead := true } else w }) ∧
      ((∀ p ∈ s.dies, ∀ w ∈ p.2.walks, w.ctx ≠ s.ctx) → exec (.tlbinv g a b all) s = .next (ended s t .seq)) ∧
      ((∃ p ∈ s.dies, ∃ w ∈ p.2.walks, w.ctx = s.ctx) → exec (.tlbinv g a b all) s = .next (blocked t .poll))) ∧
    (∀ die r, (s.die die).walks[s.sel % (min 64 (s.die die).walks.length)]? = some r →
      let q := if r.dead then (s, WalkOut.fault 0) else walkTable s r.ctx r.va
      let v := q.1.setDie die { q.1.die die with walks := ldel (q.1.die die).walks (s.sel % (min 64 (s.die die).walks.length)) }
      let page := r.va.toNat / 2 ^ 16
      let faulted := fun x : Nat × Access × Bool => match q.2 with
        | .leaf e => if permOk e x.2.1 x.2.2 then none else some 6
        | .fault c => if r.dead then none else some c
        | .later => none
      let placed := fun t : State => match q.2 with
        | .leaf e => (∀ j, j ≠ r.cl → t.cluster j = v.cluster j) ∧
          ((∃ x ∈ r.slots, permOk e x.2.1 x.2.2 = true) → (t.cluster r.cl).tlb.head? = some e ∧ (t.cluster r.cl).tlb.length ≤ 2048) ∧
          ((∀ x ∈ r.slots, permOk e x.2.1 x.2.2 = false) → t.clusters = v.clusters)
        | _ => t.clusters = v.clusters;
      (q.2 = .later → exec (.tableWalk die) s = .next q.1) ∧
      (q.2 ≠ .later → (r.slots.map (·.1)).Nodup → (∀ x ∈ r.slots, x.1 < 2 ^ 16) →
        ∃ t : State, exec (.tableWalk die) s = .next t ∧ { t with slots := v.slots, clusters := v.clusters } = v ∧ placed t ∧
        (∀ m, m ∉ r.slots.map (·.1) → t.slot m = v.slot m) ∧ (∀ x ∈ r.slots, (v.slot x.1).wait ≠ .walk → t.slot x.1 = v.slot x.1) ∧
        (∀ x ∈ r.slots, (v.slot x.1).wait = .walk → t.slot x.1 = { v.slot x.1 with wait := .none, walkRes := (faulted x).map fun c => (page, c) })) ∧
      (q.2 ≠ .later → ∀ id k p, r.slots = [(whoOp id, k, p)] →
        ∃ t : State, exec (.tableWalk die) s = .next t ∧ { t with copies := v.copies, clusters := v.clusters } = v ∧ placed t ∧
        t.copies = v.copies.map fun e => (e.1, { e.2 with ops := e.2.ops.map fun o =>
          if o.id = id ∧ o.wait = .walk then { o with wait := (match faulted (whoOp id, k, p) with | none => .none | some c => .walked page c) } else o }))) ∧
    (∀ due, s.sl.wait = .walkFull due → exec .walkQueueRetry s = .next (s.setSl { s.sl with wait := .none })))

/-- R347, R371 to R376: where its wait parcel is met and its checks pass, in the order of R371, a copy head retires, and its operation is at the end of the inbox of the engine that serves the
cluster, with the next SEQ of the core; its source is held, or with SNAP read at once, every row of it, as the slot's core has stored it (R349); that read parks on a guarded region, and waits for a walk, for another module or behind what waits at a home slice; one that fails is accepted and completes with code 1 or 5 (log entry 30). A failed check traps, and a full source table, or an inbox of 32 operations that have not started (log entry 31), blocks the slot. -/
def Obligations.CopyAcceptance : Prop :=
  ∀ (s : State) (g : Guard) (d a b gr pr seed : Reg) (place : Place) (opt : CopyOpt) (glb ring unit tb arr stoch : Bool) (conv tslot : BitVec 4) (note : BitVec 2)
    (eng : Eng), s.guardTrue g = true → waitMet s (some eng) →
    let u := issuedAt s eng
    let v := coreStores u u.myCore
    let A := s.getS a
    let D := s.getS d
    let B := (s.getS b).toNat
    let P := (s.getS pr).toNat
    let V := (s.getS gr).toNat
    let inCsp := fun x : Where => !unit || (match x with | .csp _ => true | _ => false)
    let accepted := fun (t : State) (o : CopyOp) (held : Bool) =>
      let c := t.cluster t.myCl
      let k := t.core t.myCore
      let e := t.copyEng (engineOf t.myCl)
      let v := (({ t with age := t.age + 1 } : State).setCopyEng (engineOf t.myCl)
        { e with ops := e.ops ++ [{ o with id := t.age + 1, seq := k.cseq }] }).setCore t.myCore { k with cseq := k.cseq + 1 };
      if held && o.ranges != [] then v.setCluster t.myCl { c with sources := c.sources ++ [⟨o.ranges, t.age + 1⟩] } else v
    let answers := fun (i : Instr) (checks : List (Option Trap)) (o : CopyOp) (snap : Bool) =>
      (∀ t, firstTrap checks = some t → exec i s = .next (headTrap (barrelMoved u) u.cur t)) ∧
      (firstTrap checks = none → inboxFull v = true → exec i s = .next (blocked v .poll)) ∧
      (firstTrap checks = none → inboxFull v = false → snap = false → o.ranges = [] ∨ (v.cluster v.myCl).sources.length < 32 →
        exec i s = .next (ended s (accepted v o true) .seq)) ∧
      (firstTrap checks = none → inboxFull v = false → snap = false → o.ranges ≠ [] → 32 ≤ (v.cluster v.myCl).sources.length →
        exec i s = .next (blocked v .poll)) ∧
      (let read := engReadRows v (snapReader v) o.src o.stride o.len o.nrows 0 [];
        firstTrap checks = none → inboxFull v = false → snap = true →
          (∀ t bs, read = .ok t bs → inboxFull t = false → exec i s = .next (ended s (accepted t { o with data := some bs } false) .seq)) ∧
          (∀ t c va, read = .err t c va → inboxFull t = false → exec i s = .next (ended s (accepted t (o.meet c 0 va true) false) .seq)) ∧
          (∀ t age key n, read = .later t (.parked age key n) → exec i s = .next (blocked t (.parked age key n 0))) ∧
          (∀ t va due, read = .later t (.reply va due) → exec i s = .next (blocked (t.setSl { t.sl with reply := some (va, due) }) .poll)) ∧
          (∀ t, read = .later t .none → exec i s = .next (blocked t .poll)) ∧
          (∀ t, read = .later t .walk → exec i s = .next (blocked t .walk)) ∧
          (∀ t due, read = .later t (.full due) → exec i s = .next (blocked t (.walkFull due))))
    (let n := B % 2 ^ 24
      let out := convOut opt.conv.toNat n
      let dest := if glb then (match whereIs D with | .global => copyAddress .write D out | .window _ _ => copyAddress .write D out | _ => some (memTrap 7 .write D))
        else if ring then offsetAddress D 128 (fun w => match w with | .csp _ => true | _ => false) else offsetAddress D out fun _ => true
      let o := newCopy u 49 0 (.rows 0) (sourceAt u A) n
        (if glb then CopyDst.glob D else if ring then .ring ((placeCore u.myCore place).getD 0) D.toNat
          else .rect false ((placeCore u.myCore place).getD 0) 1 1 D.toNat) eng
      answers (.cpush g d a b place opt glb ring eng)
        [copyAlign .read A 8, copyAlign .write D 8, cbarAlign u (opt.tb || opt.arr), copyAddress .read A n, dest, placeCheck u A,
          if glb then none else rectPlace u false place 1 1, copyAccess u .read A n, if glb then copyAccess u .write D out else none,
          operandTrap (B / 2 ^ 24 == 0 && lengthOk opt.conv.toNat n && (!opt.snap || decide (n ≤ 65536)))]
        { o with conv := opt.conv.toNat, tb := opt.tb, arr := opt.arr, note := opt.note.toNat } opt.snap) ∧
    (let n := B % 2 ^ 24
      let w := B / 2 ^ 32 % 256
      let h := B / 2 ^ 40 % 256
      let o := newCopy u 49 2 (.rows 0) (sourceAt u A) n (.rect unit ((rectFirst u unit place).getD 0) w h D.toNat) eng
      answers (.cmcast g d a b place opt unit eng)
        [copyAlign .read A 8, copyAlign .write D 8, cbarAlign u (opt.tb || opt.arr), copyAddress .read A n,
          offsetAddress D (convOut opt.conv.toNat n) inCsp, placeCheck u A, rectPlace u unit place w h, copyAccess u .read A n,
          operandTrap (B / 2 ^ 24 % 256 == 0 && B / 2 ^ 48 == 0 && rectSize unit w h && lengthOk opt.conv.toNat n && (!opt.snap || decide (n ≤ 65536)))]
        { o with conv := opt.conv.toNat, tb := opt.tb, arr := opt.arr, note := opt.note.toNat } opt.snap) ∧
    (let w := V % 2 ^ 16
      let h := V / 2 ^ 16 % 2 ^ 16
      let blk := V / 2 ^ 32 % 2 ^ 16
      let n := P % 2 ^ 32
      let rows := P / 2 ^ 32
      let out := convOut opt.conv.toNat n
      let starts := (List.range rows).map fun r => A + wordN (r * B)
      let o := newCopy u 49 1 (.rows blk) (sourceAt u A) n (.rect unit ((rectFirst u unit place).getD 0) w h D.toNat) eng
      answers (.cslab g d a b gr pr place opt unit eng)
        [copyAlign .read A 8, copyAlign .write D 8, cbarAlign u (opt.tb || opt.arr), rowsAddress starts n,
          offsetAddress D (ceilDiv (ceilDiv rows (max blk 1)) (max (w * h) 1) * blk * out) inCsp, starts.findSome? (placeCheck u), rectPlace u unit place w h,
          starts.findSome? (fun x => copyAccess u .read x n),
          operandTrap (B % 8 == 0 && decide (n ≤ B) && decide (B < 2 ^ 32) && V / 2 ^ 48 == 0 && decide (1 ≤ blk) && rectSize unit w h && decide (8 ≤ n) &&
            decide (n ≤ 65536) && n % 8 == 0 && out % 8 == 0 && out * (convSizes opt.conv.toNat).1 == n * (convSizes opt.conv.toNat).2 &&
            decide (1 ≤ rows) && decide (rows ≤ 2 ^ 20) && (!opt.snap || decide (rows * n ≤ 65536)))]
        { o with conv := opt.conv.toNat, stride := B, nrows := rows, tb := opt.tb, arr := opt.arr, note := opt.note.toNat } opt.snap) ∧
    (let w := V % 256
      let h := V / 256 % 256
      let starts := (List.range 320).map fun r => A + wordN (r * B)
      let inWs := fun x => match x with | Where.ws _ => true | _ => false
      let far := match whereIs D with | .neigh _ _ => true | _ => false
      let kind := CopyKind.record (V / 2 ^ 32) (P % 2 ^ 16) (BitVec.ofNat 32 (P / 2 ^ 32)) (if stoch then some (s.getS seed) else none)
      let o := newCopy u 49 3 kind (sourceAt u A) 128
        (match whereIs D with
          | .neigh q off => CopyDst.rect false ((placeCore u.myCore q).getD 0) w h off
          | .global => .glob D
          | x => .own (localKey u.myCore x)) eng
      answers (.cthr g d a b gr pr seed tb arr note stoch eng)
        [copyAlign .read A 8, copyAlign .write D 64, cbarAlign u (tb || arr), rowsAddress starts 128,
          (match whereIs D with
            | .neigh _ off => if (offsetAddress (wordN off) 4288 inWs).isSome then some (memTrap 7 .write D) else none
            | .tcm _ => some (memTrap 7 .write D)
            | .csp _ => some (memTrap 7 .write D)
            | _ => copyAddress .write D 4288),
          starts.findSome? (placeCheck u), (match whereIs D with | .neigh q _ => rectPlace u false q w h | _ => none), starts.findSome? (fun x => copyAccess u .read x 128),
          if far then none else copyAccess u .write D 4288,
          operandTrap (B % 8 == 0 && decide (128 ≤ B) && decide (B < 2 ^ 32) && V / 2 ^ 16 % 2 ^ 16 == 0 &&
            (if far then decide (1 ≤ w) && decide (1 ≤ h) else w == 0 && h == 0) && P / 2 ^ 16 % 2 ^ 16 == 0 && P / 2 ^ 15 % 2 == 0 &&
            P / 2 ^ 7 % 2 ^ 8 != 255)]
        { o with stride := B, nrows := 320, tb := tb, arr := arr, note := note.toNat } false) ∧
    (let n := B % 2 ^ 32
      let out := convOut conv.toNat n
      let o := newCopy u 50 0 (.rows 0) (sourceAt u A) n (match whereIs D with | .global => CopyDst.glob D | x => .own (localKey u.myCore x)) eng
      answers (.cconv g d a b conv tslot note eng)
        [copyAlign .read A 8, copyAlign .write D 8, copyAddress .read A n, copyAddress .write D out, placeCheck u A, placeCheck u D, copyAccess u .read A n, copyAccess u .write D out,
          operandTrap (lengthOk conv.toNat n)]
        { o with conv := conv.toNat, tslot := tslot.toNat, scale := BitVec.ofNat 32 (B / 2 ^ 32), note := note.toNat } false)

/-- R377, R378: `ctab` puts the load of a table slot into its engine and waits for it: the load fills the slot with 256 entries for the context, and s[D] is 0; `cfree` sends a credit to the tile of its core, and the arrival signals the semaphore, or is recorded where
the core does not run the launch. -/
def Obligations.TablesAndCredits : Prop :=
  ∀ (s : State) (g : Guard) (d a : Reg) (place : Place) (tslot : BitVec 4) (tfmt : BitVec 2), s.guardTrue g = true →
    let va := s.getS a
    let v := va.toNat
    let c := s.cluster s.myCl
    let checks := firstTrap [copyAlign .read va 64, copyAddress .read va 512, placeCheck s va, copyAccess s .read va 512]
    let o := fun (t : State) (bl : List (Nat × Nat)) =>
      newCopy t 50 1 (.table tslot.toNat tfmt.toNat bl d) (sourceAt t va) 512 (.own 0) ⟨0, 0, 0, 0⟩
    let trap := fun x : Trap => Host.Outcome.next (headTrap (barrelMoved s) s.cur x)
    (∀ t, checks = some t → exec (.ctab g d a tslot tfmt) s = trap t) ∧
    (checks = none → whereIs va ≠ .global → let x := coreStores s s.myCore; inboxFull x = false → c.sources.length < 32 →
      ∃ t : State, exec (.ctab g d a tslot tfmt) s = .next (blocked t .table) ∧
        (t.copyEng (engineOf x.myCl)).ops = (x.copyEng (engineOf x.myCl)).ops ++ [{ o x [] with id := x.age + 1, seq := (x.core x.myCore).cseq }] ∧
        (t.cluster x.myCl).sources = (x.cluster x.myCl).sources ++ [⟨(o x []).ranges, x.age + 1⟩] ∧ t.slots = x.slots ∧ t.mem = x.mem) ∧
    (∀ e bl, checks = none → whereIs va = .global → tableBlocks s va 8 [] = .ok e bl → let x := coreStores e e.myCore; inboxFull x = false →
      ∃ t : State, exec (.ctab g d a tslot tfmt) s = .next (blocked t .table) ∧
        (t.copyEng (engineOf x.myCl)).ops = (x.copyEng (engineOf x.myCl)).ops ++ [{ o x bl with id := x.age + 1, seq := (x.core x.myCore).cseq }] ∧
        t.slots = x.slots ∧ t.mem = x.mem) ∧
    (∀ (E op t f k : Nat) (q : CopyOp) (r : Reg), (s.copyEng E).op? op = some q → q.started = true → opHalted s q.ctx q.launch = false →
      q.kind = .table t f [] r → q.src = .key k → q.wait.awaits s.cc = false → q.lostSource = false → engParks s q.cl (q.waitAt k) k 512 = false → s.lostIn k 512 = false →
      (s.slot q.slot).wait = .table →
      let entries := (List.range 256).map fun x => BitVec.ofNat 16 (s.num (k + 2 * x) 2)
      let v := dropCopy (s.setCopyEng E { s.copyEng E with tabs := tset (s.copyEng E).tabs t ⟨q.ctx, f, entries⟩ }) E q
      exec (.copyOperationComplete E op) s = .next (finish (v.setSAt q.slot r 0) q.slot .seq (stepping v q.slot) none)) ∧
    (placeCore s.myCore place = none → exec (.cfree g a place) s = trap (trapI 9 0 place.toNat)) ∧
    (∀ dst, placeCore s.myCore place = some dst →
      (2 ^ 16 ≤ v → exec (.cfree g a place) s = trap (trapI 20 0 0)) ∧
      (v < 2 ^ 16 → v % 256 = 0 → exec (.cfree g a place) s = .next (ended s s .seq)) ∧
      (v < 2 ^ 16 → v % 256 ≠ 0 → exec (.cfree g a place) s = .next (ended s (send s (.cfree dst s.myLaunch s.ctx (v / 256) (v % 256))) .seq))) ∧
    (∀ dst u ctx sem inc, arriving s = some (.cfree dst u ctx sem inc) →
      let t := unsend s s.sel
      (clusterOn s (dst / 16) = true → (s.cluster (dst / 16)).launch = some u → exec .cfreeArrival s = .next (semSignal t (dst / 2) sem inc)) ∧
      (clusterOn s (dst / 16) = false → exec .cfreeArrival s =
        .next (errorEntry t ctx 13 1 0 (placeId t (4 * dst)) (wordN (256 * sem + inc)))) ∧
      (clusterOn s (dst / 16) = true → (s.cluster (dst / 16)).launch ≠ some u → exec .cfreeArrival s =
        .next (errorEntry t ctx 13 3 0 (placeId t (4 * dst)) (wordN (256 * sem + inc)))))

/-- R348 to R351, R362: the events of a copy engine. The next operation starts, with its table slot as it stands; a chunk lands at its place in its target, and a chunk for global memory is translated whole before any byte of it is written (R353); a landing, a credit and a publication first meet the condition of their target (R178); the last landing ends the operation, once its writes are performed and its landings credited, and it signals, or reports
its condition. -/
def Obligations.CopyEngineEvents : Prop :=
  ∀ (s : State) (E : Nat),
    (∀ o, copyNext s (s.copyEng E) = some o →
      let t : State := { s with age := s.age + 1 }
      let x := { o with started := true, age := s.age + 1 }
      (o.conv < 7 → exec (.copyOperationStart E) s = .next (setCopyOp t E x)) ∧
      (∀ k tab, 7 ≤ o.conv → (s.copyEng E).tabs.find? (fun y => y.1 == o.tslot) = some (k, tab) → tab.owner = o.ctx →
        exec (.copyOperationStart E) s = .next (setCopyOp t E { x with table := some (some tab) })) ∧
      (7 ≤ o.conv → (∀ k tab, (s.copyEng E).tabs.find? (fun y => y.1 == o.tslot) = some (k, tab) → tab.owner ≠ o.ctx) →
        exec (.copyOperationStart E) s = .next (setCopyOp t E (x.meet 6 0 0 true)))) ∧
    (∀ (op : Nat) (o : CopyOp), (s.copyEng E).op? op = some o → o.started = true → opHalted s o.ctx o.launch = false → o.wait.awaits s.cc = false →
      (∀ (c : Nat) (t : State) (q : CopyOp) (bs : List Byte), c ∈ o.pending → (o.lostSource = false ∨ o.data.isSome = true) →
        (∀ core hdr, o.dst ≠ .ring core hdr) → chunkBytes s o c = (t, q, some bs) →
        exec (.copyChunkLanding E op c) s = .next (landChunk t E q c bs)) ∧
      (∀ (c b k : Nat), o.kind = .rows b → o.conv = 0 → o.data = none → o.cache = [] → o.src = .key k →
        let row := (o.split c).2.1
        let n := min 512 (o.rowOut - 512 * (o.split c).2.2)
        let at' := k + (row * o.stride + 512 * (o.split c).2.2)
        engParks s o.cl (o.waitAt at') at' n = false → s.lostIn at' n = false → (chunkBytes s o c).1 = s ∧ (chunkBytes s o c).2.2 = some (s.read at' n)) ∧
      (∀ (c w h base core : Nat) (unit : Bool) (bs : List Byte), o.dst = .rect unit core w h base → o.tb = false → o.arr = false → o.credits = [] → engPending s o.id = false →
        let u := (o.split c).1
        (targetCode s o u = 0 → landChunk s E o c bs = setCopyOp (s.write
          (localKey (o.target u) (localWhere base) + (o.rowAt (o.split c).2.1 + 512 * (o.split c).2.2)) bs) E { o with landed := c :: o.landed }) ∧
        (targetCode s o u ≠ 0 → landChunk s E o c bs = setCopyOp s E (o.meet (targetCode s o u) u 0 false))) ∧
      (∀ (c : Nat) (va : Word) (bs : List Byte), o.dst = .glob va → targetCode s o (o.split c).1 = 0 →
        let a := va + wordN (o.rowAt (o.split c).2.1 + 512 * (o.split c).2.2)
        let places := placePieces engXlate s ⟨whoOp o.id, o.cl, o.ctx, o.priv, o.wait⟩ a (piecesOf a bs.length);
        (∀ t code x, places = .err t code x → landChunk s E o c bs = setCopyOp t E (o.meet code 0 x true)) ∧
        (∀ t w, places = .later t w → landChunk s E o c bs = setCopyOp t E { o with wait := w }) ∧
        (∀ t ps, places = .ok t ps → ∀ w, engPuts t (whoOp o.id) o.ctx a bs ps = w →
          (∀ x, w.2.2 = some x → landChunk s E o c bs = setCopyOp w.1 E ({ o with wait := .none, dests := o.dests ++ w.2.1 }.meet 5 0 x true)) ∧
          (w.2.2 = none → ∃ l : Bool, landChunk s E o c bs = chunkCredited w.1 E { o with landed := c :: o.landed, wait := .none, dests := o.dests ++ w.2.1 }
            (o.split c).1 bs.length l))) ∧
      ((∀ x y z w, o.kind ≠ .table x y z w) → (o.pending ≠ [] ∨ engPending s o.id = true) → exec (.copyOperationComplete E op) s = .next s) ∧
      ((∀ x y z w, o.kind ≠ .table x y z w) → o.pending = [] → engPending s o.id = false → o.credits ≠ [] →
        exec (.copyOperationComplete E op) s = .next (setCopyOp (creditOwed s o).1 E (creditOwed s o).2)) ∧
      (∀ m, o.credits = [m] → targetCode s o 0 ≠ 0 → creditOwed s o = (s, ({ o with credits := [] } : CopyOp).meet (targetCode s o 0) 0 0 false)) ∧
      (∀ m, o.credits = [m] → targetCode s o 0 = 0 → m ≠ 0 → o.tb = true → o.arr = false → let v := (barrierUpdate s (o.barKey 0) m 0 0).1
        (creditOwed s o).1 = v ∧ (creditOwed s o).2 = (if (barrierAt v (o.barKey 0)).bf then ({ o with credits := [] } : CopyOp).meet 4 0 0 false
          else { o with credits := [] })) ∧
      (∀ core hdr k, o.dst = .ring core hdr → o.ring = some k → o.conds = [] → targetCode s o 0 ≠ 0 → publishRing s o = (s, o.meet (targetCode s o 0) 0 0 true)) ∧
      ((∀ x y z w, o.kind ≠ .table x y z w) → (∀ core hdr, o.dst ≠ .ring core hdr) → o.arr = false → o.pending = [] → o.credits = [] → engPending s o.id = false →
        let t := dropCopy s E o
        let core := coreOf o.slot
        let k := t.core core
        let t := t.setCore core { k with cflags := k.cflags ||| o.flags }
        let v := semSignal t (tileOf o.slot) o.eng.sj.toNat o.eng.sn.toNat
        let w2 := wordN (o.seq.toNat + 2 ^ 16 * o.maj + 2 ^ 23 * o.min)
        (o.conds = [] → o.note = 0 → exec (.copyOperationComplete E op) s = .next v) ∧
        (o.conds = [] → o.note ≠ 0 → exec (.copyOperationComplete E op) s =
          .next (engineMessage v core o.launch E k.cch.toNat (if o.note = 1 then 0 else 1) (wordN (512 * o.flags.toNat)) 0 w2 o.dests)) ∧
        (∀ code u va, o.conds = [(code, u, va)] → 0 < code → code < 8 → ∃ (x : State) (w0 w1 : Word),
          exec (.copyOperationComplete E op) s = .next (engineMessage x core o.launch E k.cch.toNat 1 w0 w1 w2 o.dests) ∧
            w0.toNat % 256 = code ∧ w0.getLsbD 8 = decide (o.landed ≠ []))))

/-- R356 to R358, R379 to R382: transaction barriers. An update adds to the landed and expected bytes and takes arrivals, opens the barrier when nothing is owed, and faults where a count overflows; the
instructions update, test and wait for it, and guard regions with it. -/
def Obligations.TransactionBarriers : Prop :=
  (∀ (b : Barrier) (dl de da : Nat),
    let nl := b.landed + dl
    let ne := b.expect + de
    (b.bf = true → b.update dl de da = (b, false)) ∧
    (b.bf = false → (b.arrive < da ∨ 2 ^ 32 ≤ ne ∨ ne < nl) → b.update dl de da = ({ b with bf := true }, false)) ∧
    (b.bf = false → da ≤ b.arrive → ne < 2 ^ 32 → nl ≤ ne → b.arrive = da → nl = ne →
      b.update dl de da = ({ b with phase := (b.phase + 1) % 16, arrive := b.arrinit, landed := 0, expect := 0 }, true)) ∧
    (b.bf = false → da ≤ b.arrive → ne < 2 ^ 32 → nl ≤ ne → (b.arrive ≠ da ∨ nl ≠ ne) →
      b.update dl de da = ({ b with landed := nl, expect := ne, arrive := b.arrive - da }, false))) ∧
  ∀ (s : State) (g : Guard) (d a b : Reg) (n : BitVec 16) (arr : Bool), s.guardTrue g = true →
    let A := s.getS a
    let B := s.getS b
    let status := fun (x : Barrier) (seen : Bool) => wordN (x.phase + 16 * b2n x.bf + 32 * b2n seen)
    (∀ v t, barrierKey s .write A = .trap v t →
      exec (.tbinit g a n) s = .next (headTrap (barrelMoved v) v.cur t) ∧ exec (.tbarr g d a) s = .next (headTrap (barrelMoved v) v.cur t) ∧
      exec (.tbexp g d a b arr) s = .next (headTrap (barrelMoved v) v.cur t) ∧ exec (.tbwait g d a b) s = .next (headTrap (barrelMoved v) v.cur t) ∧
      exec (.tbguard g d a b) s = .next (headTrap (barrelMoved v) v.cur t)) ∧
    (∀ v k, barrierKey s .read A = .ok v k →
      exec (.tbtest g d a b) s = .next (ended s (v.setS d (status (barrierAt v k) ((barrierAt v k).phase != B.toNat % 16))) .seq)) ∧
    (∀ v k, barrierKey s .write A = .ok v k →
      let x := barrierAt v k
      (exec (.tbinit g a n) s = .next (ended s (setBarrier v k ⟨0, 0, n.toNat, n.toNat, x.wait, x.phase, false⟩) .seq)) ∧
      (∃ (t u : State) (p q : Bool),
        exec (.tbarr g d a) s = .next (ended s (t.setS d (status (barrierAt t k) p)) .seq) ∧ barrierUpdate v k 0 0 1 = (t, p) ∧ p = (x.update 0 0 1).2 ∧
        exec (.tbexp g d a b arr) s = .next (ended s (u.setS d (status (barrierAt u k) q)) .seq) ∧
        barrierUpdate v k 0 (B.toNat % 2 ^ 32) (if arr then 1 else 0) = (u, q)) ∧
      ((∀ i e p, s.sl.wait ≠ .barrier i e p) →
        let ph := B.toNat % 16
        ((x.phase ≠ ph ∨ x.bf = true) → exec (.tbwait g d a b) s = .next (ended s (v.setS d (status x (x.phase != ph))) .seq)) ∧
        (x.phase = ph → x.bf = false → exec (.tbwait g d a b) s =
          .next (blocked (setBarrier v k { x with wait := min (x.wait + 1) 65535 }) (.barrier k d ph)))) ∧
      (let c := v.cluster v.myCl
        let off := B.toNat % 2 ^ 24
        let len := B.toNat / 2 ^ 24 % 2 ^ 24
        let keep := c.guards.filter fun e => e.barrier != k
        let check := guardRegion v off len (B.toNat / 2 ^ 48 != 0)
        (∀ t, check = some t → exec (.tbguard g d a b) s = .next (headTrap (barrelMoved v) v.cur t)) ∧
        (check = none → len = 0 → exec (.tbguard g d a b) s =
          .next (ended s ((v.setCluster v.myCl { c with guards := keep }).setS d (wordN (c.guards.length - keep.length))) .seq)) ∧
        (check = none → len ≠ 0 → 16 ≤ c.guards.length → exec (.tbguard g d a b) s = .next (ended s (v.setS d 1) .seq)) ∧
        (check = none → len ≠ 0 → c.guards.length < 16 → exec (.tbguard g d a b) s = .next (ended s ((v.setCluster v.myCl { c with
          guards := c.guards ++ [⟨localKey v.myCore (localWhere off), len, k, x.phase⟩] }).setS d 0) .seq)))) ∧
    (∀ (k dl de da : Nat), barrierWaiters s k = [] →
      let r := (barrierAt s k).update dl de da
      let t := setBarrier s k r.1
      (r.2 = false → barrierUpdate s k dl de da = (t, false)) ∧
      (r.2 = true → barrierUpdate s k dl de da =
        ({ t with clusters := t.clusters.map fun p => (p.1, { p.2 with guards := p.2.guards.filter fun e => e.barrier != k }) }, true)))

/-- R413 to R418: the message instructions. `msend` sends four header words and a payload, behind the slot's own stores, counted in OUT; its addresses are checked where there is a payload, LOFF among them (log entry 45); `mrecv` takes the oldest entry that its selector names and `mpeek` counts such entries; `rst` posts a
store through the lowest free journal entry, `rld` sends a request and waits for the reply; `jread` and `jack` read and free a journal entry; `nfence` waits for what the slot has posted or sent. Where a
limit is reached the slot blocks; a payload in a guarded region, or behind a read that has parked before, parks the slot at an age of its own, and a lost one is a data loss; a failed check traps, the first of its list. -/
def Obligations.MessageInstructions : Prop :=
  ∀ (s : State) (g : Guard) (z : Size) (d a b : Reg) (place : Place) (ch : BitVec 6) (dec : BitVec 10) (ord zx rst msg : Bool), s.guardTrue g = true →
    let A := s.getS a
    let C := s.getS b
    let D := s.getS d
    let k := s.core s.myCore
    let trap := fun x : Trap => Host.Outcome.next (headTrap (barrelMoved s) s.cur x)
    (let n := 8 * plenOf C
      let key := localKey s.myCore (whereIs D)
      let dst := (placeCore s.myCore place).getD 0
      let e := if n = 0 then s else storesEnter s s.cur
      let w0 := coreWord dst ch.toNat dec.toNat ||| wordN (2 ^ 46 * b2n (C.getLsbD 54))
      let args : Args := ⟨w0, A, s.getS (Fin.ofNat 32 (a.val + 1)), C, if n = 0 then 0 else wordN (loffOf C)⟩
      let loff := loffOf C
      let checks := firstTrap [
        if n ≠ 0 ∧ D.toNat % 8 ≠ 0 then some (memTrap 8 .read D) else if n ≠ 0 ∧ loff % 8 ≠ 0 then some (memTrap 8 .write (wordN loff)) else none,
        if n ≠ 0 then copyAddress .read D n else none,
        if n ≠ 0 ∧ localWhere loff = .hole then some (memTrap 7 .write (wordN loff)) else none,
        if n ≠ 0 then placeCheck s D else none,
        if (placeCore s.myCore place).isNone then some (trapI 9 0 place.toNat) else none,
        if n ≠ 0 then (if whereIs D = .global then some (memTrap 6 .read D) else copyAccess s .read D n) else none,
        if C.toNat / 2 ^ 55 ≠ 0 ∨ 64 < plenOf C then some (trapI 22 0 0) else none]
      (∀ t, checks = some t → exec (.msend g d a b place ch dec) s = trap t) ∧
      (checks = none →
        (8 ≤ k.out → exec (.msend g d a b place ch dec) s = .next (blocked s .poll)) ∧
        (guarded s s.myCl key n = true → parks s s.cur key n = true) ∧
        (k.out < 8 → n ≠ 0 → parks s s.cur key n = true → ∃ (t : State) (w : Nat), exec (.msend g d a b place ch dec) s = .next (blocked t (.parked w key n 0)) ∧
          ((∃ m r, s.sl.wait = .parked w key m r) ∧ t = s ∨ (∀ x m r, s.sl.wait ≠ .parked x key m r) ∧ w = t.age ∧ t = s.older)) ∧
        (k.out < 8 → n ≠ 0 → parks s s.cur key n = false → e.lostIn key n = true →
          let t := errorEntry e e.ctx 1 26 D (placeId e e.cur) 0
          exec (.msend g d a b place ch dec) s = .next (headTrap (barrelMoved t) t.cur ⟨26, lossSub key, 0, D, 0, []⟩)) ∧
        (k.out < 8 → n = 0 ∨ (parks s s.cur key n = false ∧ e.lostIn key n = false) →
          exec (.msend g d a b place ch dec) s = .next (ended s (send ((e.setCore s.myCore { k with out := k.out + 1 }).setSl
              { e.sl with msgsOut := e.sl.msgsOut + 1 })
            (.user s.cur dst s.myLaunch (C.getLsbD 54) args (if n = 0 then [] else e.read key n))) .seq)))) ∧
    (let sel := fun m : InMsg => A.getLsbD 6 || m.args.w0.toNat / 1024 % 64 == A.toNat % 64
    (128 ≤ A.toNat → exec (.mrecv g d a b) s = trap (trapI 22 0 0) ∧ exec (.mpeek g d a) s = trap (trapI 22 0 0)) ∧
    (A.toNat < 128 →
      (k.inbox.findIdx? sel = none → exec (.mrecv g d a b) s = .next (ended s (s.setS b 0) .seq)) ∧
      (∀ i m, k.inbox.findIdx? sel = some i → k.inbox[i]? = some m →
        let r := fun j : Nat => Fin.ofNat 32 (d.val + j)
        let t := s.setCore s.myCore { k with inbox := k.inbox.eraseIdx i }
        exec (.mrecv g d a b) s = .next (ended s
          ((((((t.setS d m.args.w0).setS (r 1) m.args.w1).setS (r 2) m.args.w2).setS (r 3) m.args.w3).setS (r 4) m.args.pay).setS b 1) .seq)) ∧
      exec (.mpeek g d a) s = .next (ended s (s.setS d (wordN (k.inbox.countP sel))) .seq))) ∧
    (let checks := fun k : Access => firstTrap [if A.toNat % Size.bytes z = 0 then none else some (memTrap 8 k A),
        if A.toNat / 2 ^ 24 ≠ 0 ∨ localWhere A.toNat = .hole then some (memTrap 7 k A) else none,
        if (placeCore s.myCore place).isNone then some (trapI 9 0 place.toNat) else none]
      let x := checks .write
      let y := checks .read
      let dst := (placeCore s.myCore place).getD 0
      let data := wordN (D.toNat % 2 ^ (8 * Size.bytes z))
      let behind := ∃ e < 32, (jentry s s.myCore e).st = .posted ∧ (jentry s s.myCore e).slot = s.cur ∧
        placeCore s.myCore (jentry s s.myCore e).place = some dst
      (∀ t, x = some t → exec (.rst g z d a place ord) s = trap t) ∧ (∀ t, y = some t → exec (.rld g z d a place zx) s = trap t) ∧
      (x = none → (freeJentry s s.myCore = none → exec (.rst g z d a place ord) s = .next (blocked s .poll)) ∧
        (∀ e, freeJentry s s.myCore = some e → exec (.rst g z d a place ord) s = .next (ended s (send
          (setJentry s s.myCore e ⟨.posted, 0, s.cur, s.sl.act, place, A.toNat, z, data, ord, false⟩)
          (.store s.myCore dst s.myLaunch e ord A.toNat (bytesOf (Size.bytes z) data.toNat))) .seq))) ∧
      (y = none → (behind → exec (.rld g z d a place zx) s = .next (blocked s .poll)) ∧
        (¬behind → exec (.rld g z d a place zx) s = .next (blocked (send (storesEnter s s.cur) (.load s.cur dst s.myLaunch A.toNat (Size.bytes z) 0))
          (.reply d (Size.bytes z) zx none (wordN (2 ^ 40 + place.toNat * 2 ^ 24 + A.toNat))))))) ∧
    (32 ≤ A.toNat → exec (.jread g d a b) s = trap (trapI 22 0 0)) ∧
    (A.toNat < 32 →
      let j := jentry s s.myCore A.toNat
      let info := if j.st = .free then 0 else wordN ((if j.st = .posted then 1 else 2) + 4 * j.cause + 32 * j.size.code + 128 * b2n j.ord +
        256 * (j.slot % 4) + 2 ^ 16 * j.place.toNat + 2 ^ 32 * j.off)
      exec (.jread g d a b) s = .next (ended s ((s.setS b (if j.st = .free then 0 else j.data)).setS d info) .seq)) ∧
    (let e := A.toNat % 32;
      ((jentry s s.myCore e).st = .refused → exec (.jack g d a) s = .next (ended s ((setJentry s s.myCore e JEntry.init).setS d 0) .seq)) ∧
      ((jentry s s.myCore e).st ≠ .refused → exec (.jack g d a) s = .next (ended s (s.setS d 1) .seq))) ∧
    (let waits := (rst = true ∧ ∃ e < 32, (jentry s s.myCore e).st = .posted ∧ (jentry s s.myCore e).slot = s.cur) ∨ (msg = true ∧ s.sl.msgsOut ≠ 0);
      (waits → exec (.nfence g rst msg) s = .next (blocked s .poll)) ∧ (¬waits → exec (.nfence g rst msg) s = .next (ended s s .seq)))

/-- R389 to R397: what arrives at a core. A message of a core that passes the checks lands its payload, makes its arrival and is acknowledged, and another comes back with its code; a message of an engine and a start
message make theirs; a returned message arrives on the return channel; a posted store is written and acknowledged or refused; an acknowledgement frees its entry; a refusal is held for its slot, or goes to the error
record, as it does where the launch has ended; a remote load is answered, behind the reads that have parked before it (R359), and its reply completes the head of its slot, or traps; a reply that never comes is a data loss. A message of the ordered VC waits for its predecessors,
one that finds no inbox entry waits, and a message of an engine or a start message for a launch that is switched out goes to its save area (R455); a message to a core whose teardown has reached its network interfaces is discarded (Table 16.8). The codes are those of Table 14.4. -/
def Obligations.MessageArrivals : Prop :=
  ∀ (s : State),
    let t := unsend s s.sel
    let chOf := fun w : Word => w.toNat / 1024 % 64
    let decOf := fun w : Word => w.toNat % 1024
    let loss := fun (v : State) (n sub : Nat) (va : Word) =>
      let u := errorEntry v (v.ctxAt (clusterOf n)) 1 26 va (placeId v n) 0
      let x : Trap := ⟨26, sub, 0, va, 0, []⟩
      (u.slot n).fetch.elim (headTrap u n x) fun d => headTrap (sfTrapped u n d x).1 n (sfTrapped u n d x).2
    (∀ slot dst u ord a bs, arriving s = some (.user slot dst u ord a bs) →
      (ord = true → orderedBehind s s.sel (coreOf slot) dst = true → exec .messageArrival s = .next s) ∧
      (ord = false ∨ orderedBehind s s.sel (coreOf slot) dst = false →
        let code := messageCode t dst u a bs
        (∀ out, code = 0 → messageBytes t dst u a bs = some out →
          let v : State := { t with free := t.free + 1 }
          let w := if out = [] then v else v.write (localKey dst (localWhere (loffOf a.w3))) out
          exec .messageArrival s = .next (send (deliver w dst (chOf a.w0) (decOf a.w0) { a with w0 := deliveredWord slot a.w0 } .message true) (.ack slot u))) ∧
        (code ≠ 0 → exec .messageArrival s = .next (send { t with free := t.free + 1 }
          (.back slot u { a with w0 := a.w0 ||| wordN (2 ^ 47 * code), pay := 0 }))))) ∧
    (∀ dst u e a ds h, arriving s = some (.engine dst u e a ds h) →
      (runsLaunch s dst u = false → exec .messageArrival s = .next t) ∧
      (runsLaunch s dst u = true → (s.core dst).inbox.length < 64 → engineBehind s s.sel dst e h = false →
        exec .messageArrival s = .next (deliver (invalidateDests t (dst / 16) ds) dst (chOf a.w0) (decOf a.w0) a .message false)) ∧
      (runsLaunch s dst u = true →
        (64 ≤ (s.core dst).inbox.length ∧ wouldPend s dst (chOf a.w0) (decOf a.w0) a = false) ∨ engineBehind s s.sel dst e h = true →
        (h ≠ 0 → exec .messageArrival s = .next s.draw) ∧
        (h = 0 → exec .messageArrival s =
          .next { s.draw.older with net := tset s.draw.older.net s.sel (.engine dst u e a ds s.draw.older.age) }))) ∧
    (∀ m, (∃ dst u e a ds h, m = .engine dst u e a ds h) ∨ (∃ dst u a, m = .start dst u a) → flight? s s.sel = some m → m.target.any (tornCore s) = false →
      launchOut s m.launch = true → exec .messageArrival s = .next { t with qm := { s.qm with
        saved := s.qm.saved.map fun p => if p.1 = m.launch then (p.1, { p.2 with held := p.2.held ++ [m] }) else p } }) ∧
    (∀ m, flight? s s.sel = some m → m.target.any (tornCore s) = true → ∀ i ∈ [Instr.messageArrival, .returnedMessage, .acknowledgementArrival, .remoteStoreArrival,
      .journalRefusal, .remoteLoadService, .remoteLoadReply, .driftCreditArrival, .cfreeArrival], exec i s = .next t) ∧
    (∀ core, tornCore s core = true ↔ ∃ l, s.launchAt (core / 16) = some l ∧ ∃ p ∈ s.tear, p.1 = l.ctx ∧ 7 ≤ p.2) ∧
    (∀ dst u a, arriving s = some (.start dst u a) →
      (runsLaunch s dst u = false → exec .messageArrival s = .next t) ∧
      (runsLaunch s dst u = true → (s.core dst).inbox.length < 64 → startBehind s s.sel dst = false →
        exec .messageArrival s = .next (deliver t dst (chOf a.w0) (decOf a.w0) a .start false)) ∧
      (runsLaunch s dst u = true → startBehind s s.sel dst = true → exec .messageArrival s = .next s.draw)) ∧
    (∀ core c dec a src req,
      let r := arrive s core c dec a src
      (r.2 = true → deliver s core c dec a src req = r.1) ∧
      (r.2 = false → (deliver s core c dec a src req).core core = { r.1.core core with inbox := (s.core core).inbox ++ [⟨a, req⟩] })) ∧
    (∀ slot u a, arriving s = some (.back slot u a) → runsLaunch s (coreOf slot) u = true →
      (64 ≤ (s.core (coreOf slot)).inbox.length → wouldPend s (coreOf slot) (s.core (coreOf slot)).rch.toNat 1 a = false →
        exec .returnedMessage s = .next s.draw) ∧
      ((s.core (coreOf slot)).inbox.length < 64 → exec .returnedMessage s =
        .next (messageBack (deliver t (coreOf slot) (s.core (coreOf slot)).rch.toNat 1 a .message false) slot))) ∧
    (∀ slot u, arriving s = some (.ack slot u) → runsLaunch s (coreOf slot) u = true →
      ∃ v : State, exec .acknowledgementArrival s = .next v ∧ v.core (coreOf slot) = { s.core (coreOf slot) with out := (s.core (coreOf slot)).out - 1 } ∧
        v.slot slot = { s.slot slot with msgsOut := (s.slot slot).msgsOut - 1 } ∧ v.mem = s.mem ∧ v.net = t.net) ∧
    (∀ src u e, arriving s = some (.storeAck src u e) → runsLaunch s src u = true →
      exec .acknowledgementArrival s = .next (setJentry t src e JEntry.init)) ∧
    (∀ src dst u e off bs, arriving s = some (.store src dst u e true off bs) → orderedBehind s s.sel src dst = true →
      exec .remoteStoreArrival s = .next s) ∧
    (∀ src dst u e ord off bs, arriving s = some (.store src dst u e ord off bs) → ord = false ∨ orderedBehind s s.sel src dst = false →
      let code := remoteCode t dst u off bs.length true
      (code = 0 → exec .remoteStoreArrival s = .next (send (t.write (localKey dst (localWhere off)) bs) (.storeAck src u e))) ∧
      (code ≠ 0 → exec .remoteStoreArrival s = .next (send t (.storeRefused src u e code)))) ∧
    (∀ src u e code, arriving s = some (.storeRefused src u e code) → runsLaunch s src u = true → (jentry s src e).st = .posted →
      let j := jentry s src e
      let mine := (s.slot j.slot).chan.isSome && (s.slot j.slot).act == j.act
      (mine = true → exec .journalRefusal s =
        .next (raiseRefusal (setJentry t src e { j with st := .refused, cause := code, held := true }) j.slot)) ∧
      (mine = false → exec .journalRefusal s = .next (errorEntry (setJentry t src e JEntry.init) (ctxOfLaunch t u) 7 code
        (neighAddr j.place j.off) (placeId t j.slot) (wordN e)))) ∧
    (∀ ctx slot e code va, arriving s = some (.late ctx slot e code va) →
      exec .journalRefusal s = .next (errorEntry t ctx 7 code va (placeId t slot) (wordN e))) ∧
    (∀ slot dst u off n age, arriving s = some (.load slot dst u off n age) →
      let code := remoteCode s dst u off n false
      let key := localKey dst (localWhere off)
      let parked := guarded s (dst / 16) key n = true ∨ (age ≠ 0 ∧ parkedOlder s (dst / 16) age = true);
      (code = 0 ∨ code = 7 → parked → (age ≠ 0 → exec .remoteLoadService s = .next s) ∧
        (age = 0 → exec .remoteLoadService s =
          .next { s with age := s.age + 1, net := tset s.net s.sel (.load slot dst u off n (s.age + 1)) })) ∧
      (code = 0 → ¬parked → exec .remoteLoadService s = .next (send t (.loadReply slot u 0 (wordN (s.num key n))))) ∧
      (code = 7 → ¬parked → exec .remoteLoadService s = .next (send t (.loadReply slot u 7 0))) ∧
      (code ≠ 0 → code ≠ 7 → exec .remoteLoadService s = .next (send t (.loadReply slot u code 0)))) ∧
    (∀ slot u code v d n zx va, arriving s = some (.loadReply slot u code v) → runsLaunch s (coreOf slot) u = true →
      (s.slot slot).wait = .reply d n zx none va →
      (code = 0 → exec .remoteLoadReply s =
        .next (finish (t.setSAt slot d (extended zx (bytesOf n v.toNat))) slot .seq (stepping s slot) none)) ∧
      (code ≠ 0 → code ≠ 7 → exec .remoteLoadReply s = .next (headTrap t slot ⟨24, code, 0, va, 0, []⟩)) ∧
      (code = 7 → exec .remoteLoadReply s = .next (loss t slot (match localWhere (va.toNat % 2 ^ 24) with | .ws _ => 0 | .tcm _ => 1 | _ => 2) va))) ∧
    (∀ due va, s.sl.wait = .remote due va →
      exec .remoteReplyTimeout s = .next (if due ≤ s.tb then loss s s.cur 3 va else s)) ∧
    (∀ (core launch off n : Nat) (store : Bool) (a : Args) (bs : List Byte),
      let key := localKey core (localWhere off)
      (clusterOn s (core / 16) = false → remoteCode s core launch off n store = 1 ∧ messageCode s core launch a bs = 1) ∧
      (clusterOn s (core / 16) = true → (s.cluster (core / 16)).launch ≠ some launch →
        remoteCode s core launch off n store = 3 ∧ messageCode s core launch a bs = 3) ∧
      (clusterOn s (core / 16) = true → (s.cluster (core / 16)).launch = some launch →
        (rangeOk s core off n = false → remoteCode s core launch off n store = 5) ∧
        (rangeOk s core off n = true → remoteCode s core launch off n true = (if heldSource s (core / 16) key n then 6 else 0) ∧
          remoteCode s core launch off n false = (if s.lostIn key n then 7 else 0)) ∧
        (messageBytes s core launch a bs = none → messageCode s core launch a bs = 2) ∧
        (∀ out, messageBytes s core launch a bs = some out →
          (out ≠ [] → rangeOk s core (loffOf a.w3) out.length = false → messageCode s core launch a bs = 5) ∧
          (out = [] ∨ rangeOk s core (loffOf a.w3) out.length = true →
            ((s.core core).inbox.length < 64 → reqEntries s core < 48 → messageCode s core launch a bs = 0) ∧
            (64 ≤ (s.core core).inbox.length ∨ 48 ≤ reqEntries s core → wouldPend s core (chOf a.w0) (decOf a.w0) a = false →
              messageCode s core launch a bs = 4)))))

/-- R402 to R408, R419: collectives. `coll` puts the operation into the engine of its tag and retires, and blocks where 16 operations there have not started (log entry 31); the engine starts it and reads its descriptor, a fault or a loss of which ends it; a contribution is added to its chunk
once, one that does not match is dropped, and one that comes before its collective has started is kept until it does (log entry 32); the own contribution is read from the source, every block of it for a reduce-scatter, and ends the collective on a fault; a chunk closes at its time-out; a collective whose chunks
are done writes its results and bitmaps, all of them at once (log entry 32), and when these are performed it completes with a message, which carries the flags of the nodes that were evaluated, and with an error entry, whose AUX is 0 (log entry 42), where its code is 2 or more. -/
def Obligations.Collectives : Prop :=
  ∀ (s : State) (E : Nat),
    (∀ (g : Guard) (d a b c e : Reg) (kind : CollKind) (ty : EltTy) (red : RedOp) (rm : Rm), s.guardTrue g = true →
      let v := (s.getS b).toNat
      let n := v % 2 ^ 32
      let i : Instr := .coll g d a b c e kind ty red rm
      let read := planeRead s (snapReader s) (s.getS c) 64
      let checks := firstTrap [globalChecks s [(.write, s.getS d, n, 8), (.read, s.getS a, n, 8), (.read, s.getS c, 64, 64), (.write, s.getS e, 8, 8)],
        if v / 2 ^ 32 = 0 ∧ n ≠ 0 ∧ n % 8 = 0 ∧ n % (EltTy.width ty / 8) = 0 then none else some (trapI 23 0 0)]
      let enters := fun (t : State) (eng : Nat) =>
        let o : CollOp := ⟨t.age + 1, t.cur, t.myLaunch, t.ctx, t.sl.priv, kind, ty, red, rm, t.getS d, t.getS a, n, t.getS c, t.getS e, false, 0, 0, 0, 0, 0, 0, [], 0, 0,
          none, 0, .none⟩
        (16 ≤ (collOps t eng).countP (fun o => !o.started) → exec i s = .next (blocked t .poll)) ∧
        ((collOps t eng).countP (fun o => !o.started) < 16 →
          exec i s = .next (ended s { t with age := t.age + 1, colls := tset t.colls eng (collOps t eng ++ [o]) } .seq))
      (∀ t, checks = some t → exec i s = .next (headTrap (barrelMoved s) s.cur t)) ∧
      (checks = none →
        (∀ t bs, read = .ok t bs → enters t (leAt bs 16 4 % 8)) ∧
        (∀ t x va, read = .err t x va → enters { t with free := t.free + 1 } (Config.pick t.free % 8)) ∧
        (∀ t va due, read = .later t (.reply va due) → exec i s = .next (blocked (t.setSl { t.sl with reply := some (va, due) }) .poll)) ∧
        (∀ t, read = .later t .none → exec i s = .next (blocked t .poll)))) ∧
    (∀ (t : State) (l : List (Access × Word × Nat × Nat)), globalChecks t l =
      firstTrap [l.findSome? fun x => if x.2.1.toNat % x.2.2.2 = 0 then none else some (memTrap 8 x.1 x.2.1), l.findSome? fun x => copyAddress x.1 x.2.1 x.2.2.1,
        l.findSome? fun x => placeCheck t x.2.1, l.findSome? fun x => if whereIs x.2.1 = .global then none else some (memTrap 6 x.1 x.2.1)]) ∧
    (∀ (o : CollOp), (collOps s E).countP (·.started) < 4 → (collOps s E).find? (fun o => !o.started && !opHalted s o.ctx o.launch) = some o → o.wait.awaits s.cc = false →
      let failed := fun (o : CollOp) (x : Nat) (va : Word) =>
        ({ o with started := true, wait := .none, code := if x = 1 then 2 else 5, fva := if x = 1 then va else o.fva } : CollOp)
      let head := planeRead s o.reader o.desc 64
      (∀ t w, head = .later t w → exec (.collectiveStart E) s = .next (setColl t E { o with wait := w })) ∧
      (∀ t x va, head = .err t x va → exec (.collectiveStart E) s = .next (setColl t E (failed o x va))) ∧
      (∀ t h, head = .ok t h →
        let q : CollOp := { o with tag := leAt h 16 4 }
        let rest := planeRead t o.reader o.desc (64 + 2 * leAt h 0 2)
        let long := leAt h 0 2 = 0 ∨ 576 < leAt h 0 2
        (long → exec (.collectiveStart E) s = .next (setColl t E { q with started := true, wait := .none, code := 3 })) ∧
        (¬long →
          (∀ v w, rest = .later v w → exec (.collectiveStart E) s = .next (setColl v E { q with wait := w })) ∧
          (∀ v x va, rest = .err v x va → exec (.collectiveStart E) s = .next (setColl v E (failed q x va))) ∧
          (∀ v bs, rest = .ok v bs →
            let nr := leAt bs 0 2
            let mods := (List.range nr).map fun r => leAt bs (64 + 2 * r) 2
            let good := 1 ≤ nr ∧ nr ≤ 576 ∧ leAt bs 2 2 < nr ∧ 512 ≤ leAt bs 4 4 ∧ leAt bs 4 4 ≤ 65536 ∧ leAt bs 4 4 % 512 = 0 ∧ 1000 ≤ leAt bs 8 8 ∧
              leAt bs 8 8 ≤ 2 ^ 40 ∧ (if o.kind = .broadcast then leAt bs 20 2 < nr else leAt bs 20 2 = 0) ∧ leAt bs 22 42 = 0 ∧ (∀ m ∈ mods, m < 576) ∧ mods.Nodup ∧
              mods.getD (leAt bs 2 2) 0 = v.module.toNat
            let p : CollOp := { o with started := true, wait := .none, nrank := nr, rank := leAt bs 2 2, chunk := leAt bs 4 4, timeout := leAt bs 8 8, tag := leAt bs 16 4, root := leAt bs 20 2 }
            (good → ∀ mine others, sortEarly p [] (earlyParts v E) = (mine, others) → exec (.collectiveStart E) s =
              .next (setColl { v with early := tset v.early E others } E (mine.foldl (fun o x => arrives o x.chunk x.rank x.time x.part) p))) ∧
            (¬good → exec (.collectiveStart E) s = .next (setColl v E { p with code := 3 })))))) ∧
    (∀ (o : CollOp) (b : List EarlyPart) (x : EarlyPart) (l : List EarlyPart),
      (x.meant o b = true ↔ x.op = o.id ∨ x.op = 0 ∧ x.part.tag = o.tag ∧ ∀ y ∈ b, ¬(y.op = 0 ∧ y.part.tag = o.tag ∧ y.rank = x.rank ∧ y.chunk = x.chunk)) ∧
      sortEarly o b [] = ([], []) ∧ sortEarly o b (x :: l) = (if x.meant o b = true then (x :: (sortEarly o (b ++ [x]) l).1, (sortEarly o (b ++ [x]) l).2)
        else ((sortEarly o (b ++ [x]) l).1, x :: (sortEarly o (b ++ [x]) l).2))) ∧
    (∀ (op r c : Nat) (k : Contrib), (∀ o, coll? s E op = some o → o.started = false) → op = 0 ∨ (coll? s E op).isSome = true →
      exec (.collectiveContribution E op r c (some k)) s = .next { s with early := tset s.early E (earlyParts s E ++ [⟨op, r, c, s.tb, k⟩]) }) ∧
    (∀ (op : Nat) (o : CollOp), coll? s E op = some o → o.started = true →
      (∀ (r c : Nat) (k : Contrib), r ≠ o.rank → r ∈ o.ranks → c < o.nch → o.ended = false → (o.part c).closed = false → (∀ x ∈ (o.part c).got, x.1 ≠ r) →
        let p := o.part c
        let fits := fun q : CollChunk => decide (q.head = some { k with bytes := [] }) && decide (k.bytes.length = o.chunkLen c)
        (∀ time, arrives o c r time k = (if p.head.isSome = true ∧ p.first + o.timeout < time then { o with parts := tset o.parts c { p with closed := true } }
          else if p.head.isSome = true ∧ fits p = false then { o with parts := tset o.parts c p }
          else if p.head.isSome = true then { o with parts := tset o.parts c { p with got := p.got ++ [(r, k.bytes)] } }
          else if k.bytes.length = o.chunkLen c then
            { o with parts := tset o.parts c { p with first := time, head := some { k with bytes := [] }, got := p.got ++ [(r, k.bytes)] } }
          else { o with parts := tset o.parts c { p with first := time, head := some { k with bytes := [] } } })) ∧
        exec (.collectiveContribution E op r c (some k)) s = .next (setColl s E (arrives o c r s.tb k))) ∧
      (∀ c, o.rank ∈ o.ranks → c < o.nch → o.ended = false → (o.part c).closed = false → (o.part c).refused = false → (∀ x ∈ (o.part c).got, x.1 ≠ o.rank) →
        o.wait.awaits s.cc = false → opHalted s o.ctx o.launch = false →
        let i : Instr := .collectiveContribution E op o.rank c none
        let passed := (o.part c).head.isSome = true ∧ (o.part c).first + o.timeout < s.tb
        let q := sourceBlocks s o c (if o.kind = .reduceScatter then o.nrank else 1) 0 [];
        (passed → exec i s = .next (setColl s E { o with parts := tset o.parts c { o.part c with closed := true } })) ∧
        (¬passed → (∀ t w, q = .later t w → exec i s = .next (setColl t E { o with wait := w })) ∧
          (∀ t x va, q = .err t x va → exec i s = .next (setColl t E
            { o with started := true, wait := .none, code := if x = 1 then 2 else 5, fva := if x = 1 then va else o.fva })) ∧
          (∀ t bs, q = .ok t bs →
            let k : Contrib := ⟨o.kind, o.ty, o.red, o.rm, o.len, o.nrank, o.chunk, o.tag, []⟩
            let mine := bs.getD (if o.kind = .reduceScatter then o.rank else 0) []
            let p := if (o.part c).head.isNone then { o.part c with first := t.tb, head := some k } else o.part c
            (p.head = some k → mine.length = o.chunkLen c → exec i s =
              .next (setColl t E { o with wait := .none, parts := tset o.parts c { p with got := p.got ++ [(o.rank, mine)] } })) ∧
            (p.head ≠ some k ∨ mine.length ≠ o.chunkLen c → exec i s =
              .next (setColl t E { o with wait := .none, parts := tset o.parts c { p with refused := true }, code := 4 }))))) ∧
      (∀ (c n r : Nat) (acc : List (List Byte)),
        let at' := planeRead s o.reader (o.src + wordN (r * o.len + c * o.chunk)) (o.chunkLen c)
        (∀ t x va, at' = .err t x va → sourceBlocks s o c (n + 1) r acc = .err t x va) ∧ (∀ t w, at' = .later t w → sourceBlocks s o c (n + 1) r acc = .later t w) ∧
        (∀ t bs, at' = .ok t bs → sourceBlocks s o c (n + 1) r acc = sourceBlocks t o c n (r + 1) (acc ++ [bs])) ∧ sourceBlocks s o c 0 r acc = .ok s acc) ∧
      (∀ c, (o.part c).head.isSome = true → (o.part c).closed = false → (o.part c).first + o.timeout < s.tb →
        exec (.collectiveChunkTimeout E op c) s = .next (setColl s E { o with parts := tset o.parts c { o.part c with closed := true } })) ∧
      (opHalted s o.ctx o.launch = false → o.wait.awaits s.cc = false →
        let i : Instr := .collectiveComplete E op
        let core := coreOf o.slot
        let fin := fun (v : State) (p : CollOp) =>
          let bit := fun (m : Flags) (n : Nat) => if p.flags &&& m = 0 then 0 else 2 ^ n
          let code := if p.code ≠ 0 then p.code
            else if ((List.range o.nch).any fun c => o.ranks.any fun r => !((o.part c).got.any fun x => x.1 == r)) = true then 1 else 0
          let t : State := { v with colls := tset v.colls E ((collOps v E).filter fun x => x.id != op) }
          let u := if 2 ≤ code then errorEntry t o.ctx 4 code (if code = 2 then p.fva else 0) (wordN (t.module.toNat * 2 ^ 38 + E * 2 ^ 34)) 0 else t
          engineMessage u core o.launch (1024 + E) (u.core core).kch.toNat 1 (wordN (code + bit fNV 8 + bit fOF 9 + bit fUF 10 + bit fNX 11))
            (if code = 2 then p.fva else wordN o.nch) (wordN o.tag) (p.wrote.getD [])
        let goes := fun (v : State) (p : CollOp) =>
          (engPending v o.id = true → exec i s = .next (setColl v E p)) ∧ (engPending v o.id = false → exec i s = .next (fin v p))
        let nodes : Flags := if o.kind = .allReduce ∨ o.kind = .reduceScatter then (List.range o.nch).foldl (fun f c => f ||| (reduceChunk o c).2) 0 else 0
        let w := planeWrites s o.reader ((List.range o.nch).flatMap fun c => o.writes c ++ [(o.status + wordN (8 * ceilDiv o.nrank 64 * c), o.bitmap c)])
        (o.ended = false → (List.range o.nch).all o.chunkDone = false → exec i s = .next s) ∧
        (o.ended = true ∨ (List.range o.nch).all o.chunkDone = true →
          (∀ l, o.wrote = some l → goes s o) ∧
          (o.wrote = none → o.ended = true → goes s { o with wrote := some [] }) ∧
          (o.wrote = none → o.ended = false →
            (∀ t x, w = .later t x → exec i s = .next (setColl t E { o with wait := x })) ∧
            (∀ t x va, w = .err t x va → goes t
              { o with started := true, wait := .none, code := if x = 1 then 2 else 5, fva := if x = 1 then va else o.fva, wrote := some [], flags := nodes }) ∧
            (∀ t l x, w = .ok t (l, x) → goes t { o with wrote := some l, wait := .none, flags := nodes, code := if x.isSome then 5 else o.code })))))

/-- R123, R440 to R444: task streams. `lnch` releases at module scope and submits a record to a stream of its context, with the status of R123; WAIT and SIGNAL entries test and change a stream semaphore of the context, or block the
stream; an entry that cannot be read or marked stops the stream, without its effect, with an error entry (log entry 46); an entry is done when its status is written and HEAD has advanced, and one whose read has to wait is read again; an unmapped stream with entries takes a mapping, or that of an idle
stream of lower priority; a stream blocked for 50 µs maps and raises an unmapped stream whose SIGNAL it waits for, and searches again 50 µs later where there is none (log entry 46). The status 2 of a stream whose context is torn down is the model's choice (log entry 49). -/
def Obligations.TaskStreams : Prop :=
  ∀ (s : State),
    (∀ (g : Guard) (d a b : Reg), s.guardTrue g = true →
      let A := s.getS a
      let i : Instr := .lnch g d a b
      (A.toNat % 64 ≠ 0 → exec i s = .next (ended s (s.setS d 3) .seq)) ∧
      (∀ t p, A.toNat % 64 = 0 → whereIs A = .global → xlate s s.cur .read A = .ok t p →
        let u := slotRelease t 5
        let r := submit u u.ctx A ((u.getS b).toNat % 2 ^ 16)
        (slotReleased u 5 = false ∨ planeBusy u = true → exec i s = .next (blocked u .poll)) ∧
        (slotReleased u 5 = true → planeBusy u = false →
          (∀ v x, r = .ok v x → exec i s = .next (ended s (v.setS d (wordN x)) .seq)) ∧ (∀ v w, r = .later v w → exec i s = .next (blocked v .poll)))) ∧
      (∀ t x, A.toNat % 64 = 0 → whereIs A = .global → xlate s s.cur .read A = .trap t x → exec i s = .next (headTrap (barrelMoved t) t.cur x)) ∧
      (A.toNat % 64 = 0 → whereIs A = .beyond → exec i s = .next (headTrap (barrelMoved s) s.cur (memTrap 7 .read A))) ∧
      (A.toNat % 64 = 0 → whereIs A ≠ .global → whereIs A ≠ .beyond → exec i s = .next (headTrap (barrelMoved s) s.cur (memTrap 6 .read A)))) ∧
    (∀ (c n : Nat) (a : Word),
      let t := streamTouch s n
      let q := headTail t n
      let w := planeWrites t (streamReader t n) [(entryAddr t n q.2, bytesOf 8 1 ++ bytesOf 8 a.toNat)]
      (streamValid t n = false ∨ streamCtx t n ≠ c ∨ tearing t c = true → submit s c a n = .ok t 2) ∧
      (streamValid t n = true → streamCtx t n = c → tearing t c = false →
        ((q.2 + 2 ^ 64 - q.1) % 2 ^ 64 = streamNent t n → submit s c a n = .ok t 1) ∧
        ((q.2 + 2 ^ 64 - q.1) % 2 ^ 64 ≠ streamNent t n →
          (∀ v x, w = .later v x → submit s c a n = .later v x) ∧ (∀ v x y, w = .err v x y → submit s c a n = .ok v 4) ∧
          (∀ v l x, w = .ok v (l, some x) → submit s c a n = .ok v 4) ∧
          (∀ v l m, w = .ok v (l, none) → mapped? v n = some m → submit s c a n = .ok (settleIdle (setStream v n { m with tail := (q.2 + 1) % 2 ^ 64 }) n) 0) ∧
          (∀ v l, w = .ok v (l, none) → mapped? v n = none → submit s c a n = .ok (submitted (planeStore v (streamTable + 64 * n + 32) (bytesOf 8 (q.2 + 1))) n) 0)))) ∧
    (∀ t : State, headEntry s s.sel = .unreadable t → ∀ i ∈ [Instr.streamWaitEntry, .streamSignalEntry, .launchCheck], exec i s = .next (stopUnreadable t t.sel)) ∧
    (∀ t : State, headEntry s s.sel = .later t → ∀ i ∈ [Instr.streamWaitEntry, .streamSignalEntry, .launchCheck, .inheritanceSearch], exec i s = .next t) ∧
    (∀ (n : Nat) (m : MStream), let t := streamTouch s n; mapped? t n = some m → m.stopped = false → m.head ≠ m.tail → m.launch = none → m.ready = none →
      let r := planeRead t (streamReader t n) (entryAddr t n m.head) 16
      (∀ v bs, r = .ok v bs → headEntry s n = .entry v m ⟨leAt bs 0 1 % 128, leAt bs 2 2, leAt bs 4 4, wordN (leAt bs 8 8)⟩) ∧
      (∀ v x y, r = .err v x y → headEntry s n = .unreadable v) ∧
      (∀ v w, r = .later v w → headEntry s n = .later { v with qm := { v.qm with waits := tset v.qm.waits n w } })) ∧
    (∀ (t : State) (m : MStream) (e : Entry), headEntry s s.sel = .entry t m e →
      let n := t.sel
      let x := planeTouch t (semOff e.sem) 4
      let v := streamSem x e.sem
      let done := fun (i : Instr) (status : Nat) (f : State → State) (stop : Bool) => ∀ h, mapped? x n = some h →
        let mark := planeWrites x (streamReader x n) [(entryAddr x n h.head, bytesOf 1 (128 + e.kind) ++ bytesOf 1 status ++ bytesOf 2 e.sem ++ bytesOf 4 e.value)]
        (∀ y l, mark = .ok y (l, none) → exec i s = .next (headMoves (f y) n stop)) ∧ (∀ y l z, mark = .ok y (l, some z) → exec i s = .next (unmarked y n)) ∧
        (∀ y c z, mark = .err y c z → exec i s = .next (unmarked y n)) ∧ (∀ y w, mark = .later y w → exec i s = .next y)
      (e.kind = 2 → semMine x n e.sem = true → e.value ≤ v → done .streamWaitEntry 0 (fun y => setStreamSem y e.sem (streamSem y e.sem - e.value)) false) ∧
      (e.kind = 2 → semMine x n e.sem = true → v < e.value → exec .streamWaitEntry s =
        .next (settleIdle (setStream x n { m with blocked := some (m.blocked.getD x.tb) }) n)) ∧
      (e.kind = 3 → semMine x n e.sem = true →
        done .streamSignalEntry 0 (fun y => dropBoost (setStreamSem y e.sem (min (streamSem y e.sem + e.value) (2 ^ 32 - 1))) n e.sem) false) ∧
      (semMine x n e.sem = false → (e.kind = 2 → done .streamWaitEntry 10 id true) ∧ (e.kind = 3 → done .streamSignalEntry 10 id true)) ∧
      (∀ since, e.kind = 2 → m.blocked = some since → since + 50000 ≤ t.tb →
        let x := setStream t n { m with blocked := some t.tb }
        let q := searchFor x (streamCtx x n) e.sem
        let raised := fun (u : State) (y : Nat) =>
          let w := mapStream u y
          { w with qm := { w.qm with boosts := tset w.qm.boosts y (max (streamPrio w y) (effPrio x n), e.sem) } }
        (q.2 = none → exec .inheritanceSearch s = .next q.1) ∧
        (∀ y, q.2 = some y →
          (mappingFree q.1 = true → exec .inheritanceSearch s = .next (raised q.1 y)) ∧
          (∀ z, mappingFree q.1 = false → idleVictim q.1 n = some z → exec .inheritanceSearch s = .next (raised (unmapStream q.1 z) y)) ∧
          (mappingFree q.1 = false → idleVictim q.1 n = none → exec .inheritanceSearch s = .next q.1)))) ∧
    (∀ n, nextUnmapped s = some n →
      (mappingFree s = true → exec .streamMapping s = .next (mapStream s n)) ∧
      (∀ v, mappingFree s = false → idleVictim s n = some v → effPrio s v < effPrio s n →
        exec .streamMapping s = .next (mapStream (unmapStream s v) n)) ∧
      (∀ v, mappingFree s = false → idleVictim s n = some v → effPrio s n ≤ effPrio s v → exec .streamMapping s = .next s)) ∧
    (∀ (n : Nat) (stop : Bool) (m : MStream), mapped? s n = some m →
      (∃ q : MStream, mapped? (headMoves s n stop) n = some q ∧ q.head = (m.head + 1) % 2 ^ 64 ∧ q.tail = m.tail ∧ q.stopped = stop ∧ q.launch = none ∧ q.ready = none ∧
        q.blocked = none) ∧
      unmarked s n = stopUnreadable (setStream s n { m with ready := none, placed := none, launch := none }) n ∧
      let t : State := { s with qm := { s.qm with waits := tdel s.qm.waits n } }
      stopUnreadable s n = settleTurns (setStream (errorEntry t (streamCtx t n) 14 0 (entryAddr t n m.head) 0 (wordN n)) n { m with stopped := true, blocked := none }))

/-- R90 to R96, R445: launches. The record of a LAUNCH entry is refused with the first code of Table 4.4 that it breaks, or is ready, and is read again where its read has to wait; the launch that is next starts on its rectangle, whose clusters it takes, with handler
tables, drift credits, semaphores and start messages of the record; when every core is done the launch releases at its scope, and once that is performed it is removed and its entry is done; a contract ends its job instead,
until it is cancelled. -/
def Obligations.Launches : Prop :=
  ∀ (s : State),
    (∀ (t : State) (m : MStream) (e : Entry), headEntry s s.sel = .entry t m e →
      let n := t.sel
      let refused := fun (v : State) (code : Nat) => exec .launchCheck s = .next (entryDone v n e code (v.tb % 2 ^ 32) false)
      let read := readRecord t (streamReader t n) e.addr
      (e.kind ≠ 1 → e.kind ≠ 2 → e.kind ≠ 3 → exec .launchCheck s = .next (entryDone t n e 11 e.value true)) ∧
      (e.kind = 1 →
        (∀ v w, read = .later v w → exec .launchCheck s = .next (queueWaits v n w)) ∧ (∀ v x y, read = .err v x y → refused v 8) ∧
        (∀ v code, read = .ok v (.error code) → refused v code) ∧
        (∀ v bs, read = .ok v (.ok bs) →
          let pre := preloads v (streamReader v n) (recordOf bs).segs
          (recordCode v bs ≠ 0 → refused v (recordCode v bs)) ∧
          (recordCode v bs = 0 →
            (∀ w x, pre = .later w x → exec .launchCheck s = .next (queueWaits w n x)) ∧ (∀ w x y, pre = .err w x y → refused w 8) ∧
            (∀ w l, pre = .ok w l → exec .launchCheck s = .next (settleTurns (setStream (queueGoes w n) n { m with
              ready := some (recordOf bs), placed := if (recordOf bs).rtc then checkPlace w (recordOf bs) else none }))))))) ∧
    (∀ (r : Reader) (va : Word),
      let head := planeRead s r va 64
      (va.toNat % 64 ≠ 0 → readRecord s r va = .ok s (.error 1)) ∧
      (va.toNat % 64 = 0 →
        (∀ t c a, head = .err t c a → readRecord s r va = .err t c a) ∧ (∀ t w, head = .later t w → readRecord s r va = .later t w) ∧
        (∀ t h, head = .ok t h →
          let whole := planeRead t r va (recordLength h)
          (∀ v c a, whole = .err v c a → readRecord s r va = .err v c a) ∧ (∀ v w, whole = .later v w → readRecord s r va = .later v w) ∧
          (∀ v bs, whole = .ok v bs →
            let good := leAt bs 0 1 = 1 ∧ leAt bs 24 8 = recordLength h ∧ leAt bs 60 4 = (crc32c (bs.take 60 ++ bs.drop 64)).toNat
            (good → readRecord s r va = .ok v (.ok bs)) ∧ (¬good → readRecord s r va = .ok v (.error 1)))))) ∧
    (∀ (n : Nat) (e : Entry) (status value : Nat) (stop : Bool) (m : MStream), mapped? s n = some m →
      let mark := planeWrites s (streamReader s n) [(entryAddr s n m.head, bytesOf 1 (128 + e.kind) ++ bytesOf 1 status ++ bytesOf 2 e.sem ++ bytesOf 4 value)]
      let r := entryDone s n e status value stop
      (∀ t l, mark = .ok t (l, none) → r = headMoves t n stop) ∧ (∀ t l x, mark = .ok t (l, some x) → r = unmarked t n) ∧
      (∀ t c x, mark = .err t c x → r = unmarked t n) ∧ (∀ t w, mark = .later t w → r = t)) ∧
    (∀ (r : Record) (p : Nat × Nat) (turn : Option (Nat × Nat × Nat)) (m : MStream) (v : State) (pre : List (Nat × List Byte)),
      nextLaunch s = some (s.sel, r, p, turn) → mapped? s s.sel = some m → rangesFree s r p.1 p.2 = true →
      preloads s (streamReader s s.sel) r.segs = .ok v pre →
      let u := v.age + 1
      ∃ (t : State) (l : Launch), exec .launchStart s = .next (settleTurns (sendStarts t u l none)) ∧
        l.stream = s.sel ∧ l.ctx = streamCtx v s.sel ∧ l.priv = streamPriv v s.sel ∧ l.record = r ∧ l.x = p.1 ∧ l.y = p.2 ∧ l.ranges = r.ranges ∧
        l.out = false ∧ t.launch? u = some l ∧ (mapped? t s.sel).bind (·.launch) = some u ∧
        ∀ cl ∈ rectClusters p.1 p.2 r.pw r.ph, (t.cluster cl).launch = some u ∧ (∀ k < 16, t.core (16 * cl + k) = startedCore r (16 * cl + k)) ∧
          (∀ k < 8, t.tile (8 * cl + k) = startedTile r) ∧ ∀ k < 64, t.slot (64 * cl + k) = Slot.init) ∧
    (∀ (r : Record) (k : Nat), (startedCore r k).dcred = Vector.replicate 4 (BitVec.ofNat 16 r.k) ∧ (startedCore r k).inbox = [] ∧ (startedCore r k).journal = [] ∧
      (channelsDistinct r.chans = true → ∀ e ∈ r.chans, namesCore e.cores (k % 16) = true →
        let due := e.count.toInt ≤ 0
        tget Channel.init (startedCore r k).chans e.ch = { Channel.init with haddr := e.haddr, count := if due then e.reload else e.count, reload := e.reload, regs := e.regs, prio := BitVec.ofNat 3 e.prio, pend := decide due, en := true }) ∧
      ((r.sems.map (·.1)).Nodup → ∀ e ∈ r.sems, tget 0 (startedTile r).sem e.1 = BitVec.ofNat 16 e.2)) ∧
    (∀ (l : Launch), s.launch? s.sel = some l → tearing s l.ctx = false → (if l.out then l.jobDone else launchDone s l) = true →
      (l.record.rtc = true → l.cancelled = false →
        (l.jobDone = false → exec .launchEnd s = .next (s.setLaunch s.sel { l with jobDone := true, used := l.used + (s.tb - l.since) })) ∧
        (l.jobDone = true → exec .launchEnd s = .next s)) ∧
      (l.record.rtc = false ∨ l.cancelled = true →
        let t := l.clusters.foldl (fun s cl => release s cl l.record.scope.code) s
        let n := l.stream
        let gone := fun v : State => removeLaunch v s.sel l;
        (∀ cl ∈ l.clusters, releaseDone t cl l.record.scope.code = true) →
          (∀ v, (gone v).launch? s.sel = none) ∧ (mapped? t n = none → exec .launchEnd s = .next (gone t)) ∧
          ∀ m, mapped? t n = some m →
            (∀ v w, readEntry t n m.head = .later v w → exec .launchEnd s = .next (queueWaits v n w)) ∧
            (∀ v c x, readEntry t n m.head = .err v c x → exec .launchEnd s = .next (unmarked (gone v) n)) ∧
            (∀ v e h, readEntry t n m.head = .ok v e → mapped? v n = some h →
              let mark := planeWrites v (streamReader v n)
                [(entryAddr v n h.head, bytesOf 1 (128 + e.kind) ++ bytesOf 1 0 ++ bytesOf 2 e.sem ++ bytesOf 4 (v.tb % 2 ^ 32))]
              (∀ y x, mark = .ok y (x, none) → exec .launchEnd s = .next (headMoves (gone y) n false)) ∧
              (∀ y x z, mark = .ok y (x, some z) → exec .launchEnd s = .next (unmarked (gone y) n)) ∧
              (∀ y c z, mark = .err y c z → exec .launchEnd s = .next (unmarked (gone y) n)) ∧ (∀ y w, mark = .later y w → exec .launchEnd s = .next y))) ∧
      (l.record.rtc = false ∨ l.cancelled = true →
        let t := l.clusters.foldl (fun s cl => release s cl l.record.scope.code) s
        ∀ cl ∈ l.clusters, releaseDone t cl l.record.scope.code = false → exec .launchEnd s = .next t))

/-- R446 to R449, R454 to R457: contracts and gang switches. At a release an ended job starts again with its channels enabled and its start messages, and an unfinished one misses its deadline; a job that has consumed its
budget is switched out with an error entry, once no slot of it awaits the performance of a window access or an `l2zero`, or the store of a trap record (R454, Table 11.7), and takes a fresh one at its next release, also after its contract has been cancelled; a partition that is switched out leaves its clusters free and is saved, and one that is
switched in takes them again, with its cores and tiles as they were saved; an error in its save area is a fatal fault of its context. -/
def Obligations.ContractsAndGangSwitches : Prop :=
  ∀ (s : State) (l : Launch), s.launch? s.sel = some l →
    let u := s.sel
    let c := l.record.contract
    (l.record.rtc = true → tearing s l.ctx = false → l.r0 + l.rel * c.period ≤ s.tb →
      (l.jobDone = true → l.cancelled = true → exec .contractJobRelease s = .next s) ∧
      (l.jobDone = true → l.cancelled = false →
        let n := { l with job := l.rel, rel := l.rel + 1, jobDone := false, overrun := false, used := 0, since := s.tb }
        exec .contractJobRelease s = .next (sendStarts (reenable (s.setLaunch u n) u n) u n (some l.rel))) ∧
      (l.jobDone = false → exec .contractJobRelease s = .next ((errorEntry s l.ctx 10 0 0 (contractUnit s l) (wordN l.job)).setLaunch u
        { l with rel := l.rel + 1, used := if l.overrun then 0 else l.used, overrun := false }))) ∧
    (settled s l = true ↔ ∀ p ∈ s.slots, l.clusters.contains (p.1 / 64) = true → p.2.chan.isSome = true → settling p.2 = false) ∧
    (l.record.rtc = true → l.out = false → l.jobDone = false → tearing s l.ctx = false → settled s l = true → c.budget ≤ l.used + (s.tb - l.since) →
      exec .contractBudgetOverrun s = .next (switchOut (errorEntry s l.ctx 9 0 0 (contractUnit s l) (wordN l.job)) u { l with overrun := true })) ∧
    (leaves s u l = true → exec .gangSwitchOut s = .next (switchOut s u l)) ∧
    (∀ p, (s.qm.saved.find? fun q => q.1 == u) = some p → enters s u l = true →
      (areaLoss s l = none → exec .gangSwitchIn s = .next (switchIn s u l p.2)) ∧
      (∀ x, areaLoss s l = some x → exec .gangSwitchIn s = .next (startTear (errorEntry s l.ctx 11 (26 + 2 ^ 16 * x.1) x.2.1 x.2.2 0) l.ctx))) ∧
    (leaves s u l = false → exec .gangSwitchOut s = .next s) ∧ (enters s u l = false → exec .gangSwitchIn s = .next s) ∧
    (let t := switchOut s u l;
      (t.launch? u).map (·.out) = some true ∧ (∀ cl ∈ l.clusters, (t.cluster cl).launch = none ∧ (∀ k < 16, t.core (16 * cl + k) = CoreSt.init)) ∧
      (t.qm.saved.find? fun p => p.1 == u).isSome = true) ∧
    (∀ sv : Saved, let t := switchIn s u l sv;
      (t.launch? u).map (·.out) = some false ∧ (∀ cl ∈ l.clusters, (t.cluster cl).launch = some u) ∧ (t.qm.saved.find? fun p => p.1 == u) = none ∧
      (sv.held = [] → (sv.cores.map (·.1)).Nodup → ∀ p ∈ sv.cores, t.core p.1 = p.2) ∧
      (sv.held = [] → (sv.tiles.map (·.1)).Nodup → ∀ p ∈ sv.tiles, t.tile p.1 = p.2))

/-- R465, Table 16.8: the teardown of a context takes its ten steps in order and then completes; each begins when nothing that the units of the step before have asked for is still to be performed: steps 5, 6 and 8 wait until what the units of the context have
written is performed, step 7 until no message of the context is in flight, and the completion until its error entries are written; the queue manager's own writes are waited for at every step. After step 2 no slot of its clusters runs, after step 5 no copy operation of it is left, after step 7 its cores hold no message, after step 9 no
TLB entry of it is left, and after step 10 it has no key, launch, window or stream semaphore; then it is torn down. -/
def Obligations.TeardownOfContext : Prop :=
  ∀ (s : State) (k : Nat), let c := s.sel
    (s.tear.find? fun p => p.1 == c) = some (c, k) →
    let t : State := { s with tear := tset s.tear c (k + 1) }
    (planeBusy s = true → exec .teardownStep s = .next s) ∧
    (planeBusy s = false →
      (k = 1 → let q := tearQueue s c
        (q.2 = true → exec .teardownStep s = .next { q.1 with tear := tset q.1.tear c 2 }) ∧ (q.2 = false → exec .teardownStep s = .next q.1)) ∧
      (k = 2 → exec .teardownStep s = .next (tearCores t c)) ∧ (k = 3 → exec .teardownStep s = .next (tearTmes t c)) ∧
      (k = 4 → exec .teardownStep s = .next (tearPools t c)) ∧
      (k = 5 → (copiesQuiet s c = true → exec .teardownStep s = .next (tearCopies t c)) ∧ (copiesQuiet s c = false → exec .teardownStep s = .next s)) ∧
      (k = 6 → (collsQuiet s c = true → exec .teardownStep s = .next (tearColls t c)) ∧ (collsQuiet s c = false → exec .teardownStep s = .next s)) ∧
      (k = 7 → (netQuiet s c = true → exec .teardownStep s = .next (tearNet t c)) ∧ (netQuiet s c = false → exec .teardownStep s = .next s)) ∧
      (k = 8 → let u := tearL2 s c
        (l2Quiet u c = true → exec .teardownStep s = .next { u with tear := tset u.tear c 9 }) ∧ (l2Quiet u c = false → exec .teardownStep s = .next u)) ∧
      (k = 9 → exec .teardownStep s = .next (tearTlbs t c)) ∧ (k = 10 → exec .teardownStep s = .next (tearKeys t c)) ∧
      (k = 11 → ((∀ e ∈ s.owed, e.ctx ≠ c) → exec .teardownStep s = .next (tearEnds t c)) ∧ ((∃ e ∈ s.owed, e.ctx = c) → exec .teardownStep s = .next s))) ∧
    (copiesQuiet s c = true ↔ (∀ p ∈ s.copies, ∀ o ∈ p.2.ops, o.ctx = c → engPending s o.id = false) ∧
      ∀ p ∈ s.encs, encPerformed s p.1 = false → ∀ q ∈ p.2.streams, leAt q.2.desc 2 2 = c → q.2.pend = none) ∧
    (collsQuiet s c = true ↔ ∀ p ∈ s.colls, ∀ o ∈ p.2, o.ctx = c → engPending s o.id = false) ∧
    (netQuiet s c = true → ∀ p ∈ s.net, ∀ q ∈ launchesOf s c, p.2.launch ≠ q.1) ∧
    (∀ cl ∈ clustersOf t c, (∀ i < 64, (tearCores t c).slot (64 * cl + i) = Slot.init) ∧
      (∀ i < 16, ∀ q ∈ ((tearCores t c).core (16 * cl + i)).chans, q.2.en = false) ∧ (∀ i < 8, (tearTmes t c).tme (8 * cl + i) = Tme.init) ∧
      (∀ i < 16, ((tearNet t c).core (16 * cl + i)).inbox = [] ∧ ((tearNet t c).core (16 * cl + i)).journal = [])) ∧
    (∀ e, ∀ o ∈ ((tearCopies t c).copyEng e).ops, o.ctx ≠ c) ∧ (∀ e, ∀ o ∈ collOps (tearColls t c) e, o.ctx ≠ c) ∧
    (∀ cl ∈ placementsOf s c, ((tearL2 s c).cluster cl).cdc = []) ∧
    (∀ cl, ∀ e ∈ ((tearTlbs t c).cluster cl).tlb, e.ctx ≠ c) ∧
    (let v := tearKeys t c;
      (∀ x, keyOf v c x = false) ∧ launchesOf v c = [] ∧ (∀ w < 256, tget Window.init v.windows (256 * c + w) = Window.init) ∧ ∀ p ∈ v.qm.owners, p.2 ≠ c) ∧
    (let v := tearEnds t c; tget false v.torn c = true ∧ tearing v c = false)

/-- R400, R438, R450 to R453: an encoder takes a frame from the ring of the stream that is next and reads its planes; where there is room for the unit and every byte of it can be written it is written, WR follows when it is
performed, and the completion follows WR; where not, nothing is written and the completion carries the status; a stream that waits for room reads RD again after 10 µs. The entries of its table are read again while no frame is in progress. A synchronisation message steps the time base
forward once and locks it within 20 ns, 1 ms without one unlocks it, and the fabric gives the module its number. The places of the bits of a unit are those of the AV1 bitstream, which the spec does not give, and its coding decisions are open (log entry 15); that a lost ring header ends the
stream until its table is read again is the model's choice (log entry 55). -/
def Obligations.EncodersAndTimeBase : Prop :=
  ∀ (s : State),
    (∀ die e, (encNext s die ≠ some e → exec (.encoderFrame die e) s = .next s) ∧
      (encNext s die = some e →
        let x := tget EncStream.init (tget Encoder.init s.encs die).streams e
        let u := ctxTouch s (leAt x.desc 2 2)
        (encHeaderLost u x.desc = true → exec (.encoderFrame die e) s = .next (encEnd u die e { x with valid := false } 0 2 false 0 0 [])) ∧
        (∀ (core k a : Nat) (r q : Ring), encHeaderLost u x.desc = false → encRing u x.desc = some (core, k, r) → r.get true 1 = some (a, q) →
          ∃ took : State → State, exec (.encoderFrame die e) s = .next (encodeSlot u die e x (localKey core (localWhere a)) took) ∧
            ∀ t i y, q.slotAt a = some i → q.put true i 1 = some y →
              let c := tget Encoder.init t.encs die
              took t = ({ t with encs := tset t.encs die { c with next := e + 1 } } : State).write k y.bytes))) ∧
    (∀ (die e slot : Nat) (x : EncStream) (took : State → State),
      let b := x.desc
      let w := leAt b 4 2 * (if fB (leAt b 0 1) 1 then 2 else 1)
      let pitch := s.num (slot + 16) 4
      let pts := wordN (s.num (slot + 24) 8)
      let frame := frameBytes s (encReader die x) (wordN (s.num slot 8)) (wordN (s.num (slot + 8) 8)) pitch w (leAt b 6 2)
      (s.lostIn slot 32 = true → encodeSlot s die e x slot took = encEnd (took s) die e x 0 2 false 0 pts []) ∧
      (s.lostIn slot 32 = false →
        (pitch % 64 ≠ 0 ∨ pitch < w → encodeSlot s die e x slot took = encEnd (took s) die e x 0 3 false 0 pts []) ∧
        (pitch % 64 = 0 → w ≤ pitch →
          (∀ t y, frame = .later t y → encodeSlot s die e x slot took = setEnc t die e { x with wait := y }) ∧
          (∀ t code va, frame = .err t code va → encodeSlot s die e x slot took = encEnd (took t) die e x 0 (if code = 5 then 2 else 1) false 0 pts []) ∧
          (∀ t bs, frame = .ok t bs →
            let key := x.count % leAt b 32 2 == 0
            let y : EncStream := { x with count := x.count + 1, frames := if key then bs else x.frames ++ bs, wait := .none }
            encodeSlot s die e x slot took =
              encDeliver (setEnc (took t) die e y) die e y ⟨av1Unit y.frames b key x.count, key, pts, 0, 0, none, false, false⟩)))) ∧
    (∀ (frames b : List Byte) (n : Nat),
      av1Unit frames b false n = av1Obu 2 [] ++ av1FrameObu false (Config.av1Frame frames b n) ∧
      av1Unit frames b true n = av1Obu 2 [] ++ av1Obu 1 (av1SequenceHeader b) ++ av1FrameObu true (Config.av1Frame frames b n) ∧
      (av1SequenceHeader b).head? = some 0) ∧
    (∀ (die e : Nat) (u : EncUnit),
      let x := tget EncStream.init (tget Encoder.init s.encs die).streams e
      x.pend = some u →
      (u.sent = none → u.due ≤ s.tb → exec (.encoderRdPoll die e) s = .next (encDeliver s die e x u)) ∧
      (u.sent = none → s.tb < u.due → exec (.encoderRdPoll die e) s = .next s) ∧
      (u.sent ≠ none → exec (.encoderRdPoll die e) s = .next (encAdvance s die e x u))) ∧
    (∀ (die e : Nat) (x : EncStream) (u : EncUnit),
      let r := encReader die x
      let control := planeRead s r (wordN (leAt x.desc 16 8)) 16
      (∀ t w, control = .later t w → encDeliver s die e x u = setEnc t die e { x with pend := some u, wait := w }) ∧
      (∀ t code va, control = .err t code va → encDeliver s die e x u = encEnd t die e x 0 (if code = 5 then 2 else 1) u.key 0 u.pts []) ∧
      (∀ t cb, control = .ok t cb →
        let wr := leAt cb 0 8
        let size := leAt x.desc 24 4
        let used := (wr + 2 ^ 64 - leAt cb 8 8) % 2 ^ 64
        let places := encPlaces t r x.desc wr u.bytes
        (size < used ∨ size - used < u.bytes.length → encDeliver s die e x u = setEnc t die e { x with pend := some { u with due := t.tb + 10000 }, wait := .none }) ∧
        (used ≤ size → u.bytes.length ≤ size - used →
          (∀ v w, places = .later v w → encDeliver s die e x u = setEnc v die e { x with pend := some u, wait := w }) ∧
          (∀ v code va, places = .err v code va → encDeliver s die e x u = encEnd v die e x 0 (if code = 5 then 2 else 1) u.key 0 u.pts []) ∧
          (∀ v ps, places = .ok v ps → encDeliver s die e x u = encSend v die e x u wr ps)))) ∧
    (∀ (b : List Byte) (wr : Nat) (bs : List Byte),
      let size := leAt b 24 4
      let here := size - wr % size
      let base := wordN (leAt b 16 8 + 64)
      encRanges b wr bs = [(base + wordN (wr % size), bs.take here)] ++ (if bs.length ≤ here then [] else [(base, bs.drop here)]) ++
        [(wordN (leAt b 16 8), bytesOf 8 (wr + bs.length))]) ∧
    (∀ (die e wr pa key : Nat) (x : EncStream) (u : EncUnit) (ps : List Placed) (va : Word) (bs : List Byte) (at_ n : Nat) (rest : List (Nat × Nat × Nat × Nat)),
      let w := planePuts s (whoEnc die) (leAt x.desc 2 2) ps
      let all := ps ++ [(va, bs, (at_, n, pa, key) :: rest)]
      let v : EncUnit := { u with
        due := s.tb, off := wr, sent := some (pa, key, all.flatMap fun p => p.2.2.map fun q => (q.2.2.1, q.2.1)), lost := u.lost || w.2.2.isSome }
      let y : EncStream := { x with pend := some v, wait := .none }
      encSend s die e x u wr all = encAdvance (setEnc w.1 die e y) die e y v) ∧
    (∀ (die e : Nat) (x : EncStream) (u : EncUnit) (pa key : Nat) (ranges : List (Nat × Nat)), u.sent = some (pa, key, ranges) →
      let good := fun v : State => encEnd v die e x (u.off % 2 ^ 32) 0 u.key u.bytes.length u.pts ranges
      let v := homeWrite s (whoEnc die) (leAt x.desc 2 2) pa key (bytesOf 8 (u.off + u.bytes.length))
      (encPerformed s die = false → encAdvance s die e x u = s) ∧
      (encPerformed s die = true →
        (u.lost = true → encAdvance s die e x u = encEnd s die e x 0 2 u.key 0 u.pts []) ∧
        (u.lost = false → u.adv = true → encAdvance s die e x u = good s) ∧
        (u.lost = false → u.adv = false → encPerformed v die = true → encAdvance s die e x u = good v) ∧
        (u.lost = false → u.adv = false → encPerformed v die = false → encAdvance s die e x u = setEnc v die e { x with pend := some { u with adv := true } }))) ∧
    (∀ (die e off status len : Nat) (x : EncStream) (key : Bool) (pts : Word) (ds : List (Nat × Nat)),
      let t := setEnc s die e { x with pend := none, wait := .none }
      let u := if status = 0 then t else errorEntry t (leAt x.desc 2 2) 3 status 0 (dieUnit t die) (wordN e)
      let v := encMessage u die x.desc off status key len pts ds
      encEnd s die e x off status key len pts ds = if (tget Encoder.init v.encs die).stale then rereadTable v die else v) ∧
    (∀ (die e : Nat) (b : List Byte),
      let old := tget EncStream.init (tget Encoder.init s.encs die).streams e
      (fB (leAt b 0 1) 0 = false → entryReread s die e b = dropEnc s die e) ∧
      (fB (leAt b 0 1) 0 = true → encDescOk b = true → (old.valid = true → old.desc = b → entryReread s die e b = setEnc s die e old) ∧
        (old.desc ≠ b → entryReread s die e b = setEnc s die e { EncStream.init with valid := true, desc := b })) ∧
      (fB (leAt b 0 1) 0 = true → encDescOk b = false → entryReread s die e b =
        errorEntry (dropEnc s die e) (leAt b 2 2) 8 0 0 (dieUnit (dropEnc s die e) die) (wordN e))) ∧
    (∀ die, (∃ q ∈ (tget Encoder.init s.encs die).streams, q.2.pend.isSome = true) → rereadTable s die = setStale s die true) ∧
    (∀ v : BitVec 64, s.mgmt.fabric = true → s.tbMaster = false →
      let t := if s.mgmt.locked then s.tb else max s.tb v.toNat
      let near := decide (t ≤ v.toNat + 20 ∧ v.toNat ≤ t + 20)
      exec (.timeSyncMessage v) s = .next { s with
        tb := t, tbLock := near, mgmt := { s.mgmt with locked := s.mgmt.locked || near, lastSync := t } }) ∧
    (s.tbLock = true → s.tbMaster = false → s.mgmt.lastSync + 1000000 ≤ s.tb →
      exec .timeSyncLoss s = .next { s with tbLock := false, mgmt := { s.mgmt with losses := s.mgmt.losses + 1 } }) ∧
    (∀ n : BitVec 10, s.mgmt.fabric = false → s.hib.ready = true → n.toNat < 576 → exec (.fabricTraining n) s = .next { s with
      module := n, tbMaster := n == 0, tbLock := n == 0, mgmt := { s.mgmt with fabric := true } })

/-- R498, R502, R503, Table 20.2: the host's commands. The command at the head of the ring completes with its status, which is written before DONE, and with its effect when the status is 0; SEMSET tests the WAITs that are blocked on
the semaphore again at once; TEARDOWN completes after the teardown, ATTEST and FWUPD when the report is written and the image verified. The statuses of rows on which Table 20.2 gives more than one are the model's order (log
entry 24); the bytes of the report, in the listed order without gaps, with a missing key-transport key hashed as zeros and the whole cut at 64 KiB, are log entry 26; the certificates of the report and the seeds of the keys are open (log entry 15). -/
def Obligations.HostCommands : Prop :=
  ∀ (s : State) (q : Nat × List Byte),
    let bs := q.2
    let n := leAt bs 8 2
    let done := fun (t : State) (status : Nat) => Host.Outcome.next (completed t q status)
    let later := fun t : State => Host.Outcome.next (postponed t q)
    (command? s 1 = some q → 4096 ≤ n ∨ leAt bs 16 8 % 4096 ≠ 0 ∨ leAt bs 24 8 % 64 ≠ 0 ∨ leAt bs 32 8 % 256 ≠ 0 ∨ leAt bs 40 8 % 64 ≠ 0 → exec .ctxnew s = done s 1) ∧
    (command? s 1 = some q → n < 4096 → leAt bs 16 8 % 4096 = 0 → leAt bs 24 8 % 64 = 0 → leAt bs 32 8 % 256 = 0 → leAt bs 40 8 % 64 = 0 →
      (tearing s n = true ∨ ctxMapped s n = true → exec .ctxnew s = done s 2) ∧
      (tearing s n = false → ctxMapped s n = false → exec .ctxnew s =
        done { planeStore s (0x01000000 + 64 * n) (bytesOf 8 1 ++ sliceB bs 16 32 ++ bytesOf 24 0) with torn := tset s.torn n false } 0)) ∧
    (command? s 2 = some q →
      (let d := sliceB bs 16 40
        let v := fB (leAt d 0 1) 0
        let c := leAt d 4 2
        let r := ctxSeen s c
        let t := planeStore r (0x02000000 + 64 * n) (d ++ bytesOf 24 0)
        let u : State := { t with qm := { t.qm with subs := t.qm.subs.filter (· != n), stops := t.qm.stops.filter (· != n), boosts := tdel t.qm.boosts n } }
        ((mapped? r n).isSome = true → exec .strnew s = done r 2) ∧
        ((mapped? r n).isSome = false →
          (v = true → ctxValid r c = false → exec .strnew s = done r 3) ∧
          (v = true → ctxValid r c = true → tearing r c = true → exec .strnew s = done r 2) ∧
          (v = true → ctxValid r c = true → tearing r c = false → streamFieldsOk d = false → exec .strnew s = done r 1) ∧
          (v = false ∨ (ctxValid r c = true ∧ tearing r c = false ∧ streamFieldsOk d = true) →
            (v = false ∨ leAt d 24 8 = leAt d 32 8 → exec .strnew s = done u 0) ∧
            (v = true → leAt d 24 8 ≠ leAt d 32 8 → exec .strnew s = done (submitted u n) 0))))) ∧
    (command? s 3 = some q →
      let t := streamTouch s n
      (streamValid t n = false → exec .strrst s = done t 3) ∧
      (∀ m, streamValid t n = true → mapped? t n = some m →
        (m.stopped = false → exec .strrst s = done t 2) ∧
        (m.stopped = true → exec .strrst s = done (settleIdle (setStream t n { m with head := m.tail, stopped := false }) n) 0)) ∧
      (streamValid t n = true → mapped? t n = none →
        (n ∉ t.qm.stops → exec .strrst s = done t 2) ∧
        (n ∈ t.qm.stops → let u := planeStore t (0x02000000 + 64 * n + 24) (bytesOf 8 (streamField t n 32 8))
          exec .strrst s = done { u with qm := { u.qm with stops := u.qm.stops.filter (· != n), subs := u.qm.subs.filter (· != n) } } 0))) ∧
    (command? s 4 = some q →
      let t := streamTouch s n
      let put := appendEntry t n (sliceB bs 16 16)
      (streamValid t n = false → exec .append s = done t 3) ∧
      (streamValid t n = true → tearing t (streamCtx t n) = true → exec .append s = done t 2) ∧
      (streamValid t n = true → tearing t (streamCtx t n) = false →
        (∀ u, put = .ok u 0 → exec .append s = done u 0) ∧ (∀ u, put = .ok u 1 → exec .append s = done u 4) ∧
        (∀ u, put = .ok u 4 → exec .append s = done u 7) ∧ (∀ u w, put = .later u w → exec .append s = .next u))) ∧
    (command? s 5 = some q →
      let c := leAt bs 10 2
      let owner := s.qm.owners.find? fun p => p.1 == n
      let t := ctxSeen (owner.elim s fun p => ctxSeen s p.2) c
      (4096 ≤ n → exec .semset s = done t 1) ∧
      (n < 4096 →
        (ctxValid t c = false → exec .semset s = done t 3) ∧
        (ctxValid t c = true → tearing t c = true → exec .semset s = done t 2) ∧
        (ctxValid t c = true → tearing t c = false → (∀ p, owner = some p → p.2 = c ∨ ctxValid t p.2 = false ∨ tearing t p.2 = true) →
          exec .semset s = done (retestWaits (setStreamSem { t with qm := { t.qm with owners := tset t.qm.owners n c } } n (leAt bs 12 4)) n) 0) ∧
        (∀ p, ctxValid t c = true → owner = some p → p.2 ≠ c → ctxValid t p.2 = true → tearing t p.2 = false → exec .semset s = done t 2))) ∧
    (∀ (t : State) (k : Nat), ((∀ p ∈ t.qm.streams, p.2.blocked = none) → retestWaits t k = t) ∧
      (∀ p v m e, (t.qm.streams.filter fun p => p.2.blocked.isSome) = [p] → headEntry t p.1 = .entry v m e → e.kind = 2 → e.sem = k →
        retestWaits t k = waitEntry v p.1 m e)) ∧
    (command? s 6 = some q → (mapped? s n = none → exec .cancel s = done s 3) ∧
      (∀ m u l, mapped? s n = some m → m.launch = some u → s.launch? u = some l →
        (l.record.rtc = true → exec .cancel s = done (s.setLaunch u { l with cancelled := true }) 0) ∧
        (l.record.rtc = false → exec .cancel s = done s 3)) ∧
      (∀ m, mapped? s n = some m → m.launch = none →
        (m.ready.any (·.rtc) = true → exec .cancel s = done (setStream s n { m with cancel := true }) 0) ∧
        (m.ready.any (·.rtc) = false → exec .cancel s = done s 3))) ∧
    (command? s 7 = some q →
      let t := ctxSeen s n
      (ctxValid t n = false → exec .teardown s = done t 3) ∧ (ctxValid t n = true → tearing t n = true → exec .teardown s = done t 2) ∧
      (ctxValid t n = true → tearing t n = false → exec .teardown s = later (startTear t n))) ∧
    (command? s 8 = some q →
      let c := leAt bs 10 2
      let t := ctxSeen s c
      (n = 0 ∨ 4096 ≤ n → exec .keyload s = done t 1) ∧
      (0 < n → n < 4096 →
        (ctxValid t c = false → exec .keyload s = done t 3) ∧
        (ctxValid t c = true → tearing t c = true → exec .keyload s = done t 2) ∧
        (ctxValid t c = true → tearing t c = false → hostRead t (leAt bs 16 8) 72 = none → exec .keyload s = done t 6) ∧
        (∀ blob, ctxValid t c = true → tearing t c = false → hostRead t (leAt bs 16 8) 72 = some blob →
          (t.mgmt.ktk = none → exec .keyload s = done t 5) ∧
          (∀ kek, t.mgmt.ktk = some kek →
            (unwrapKey kek blob = none → exec .keyload s = done t 5) ∧
            (∀ x, unwrapKey kek blob = some x →
              ((tget KeyEntry.init t.keys n).v = false → exec .keyload s = done { t with keys := tset t.keys n ⟨true, c, x⟩ } 0) ∧
              ((tget KeyEntry.init t.keys n).v = true → exec .keyload s = done t 2)))))) ∧
    (command? s 9 = some q → exec .attest s = later s) ∧ (command? s 10 = some q → exec .fwupd s = later s) ∧
    (late? s 9 = some q →
      let m := sliceB bs 8 32 ++ bytesOf 8 devid.toNat ++ bytesOf 8 isaver.toNat ++ bytesOf 8 (cfgsum s).toNat ++ bodyHash s ++ bytesOf 4 (s.mgmt.fw.getD (0, 0)).1 ++
        sha256 (beBytes 32 (s.mgmt.ktk.getD 0).toNat) ++ bytesOf 8 s.tb ++ aliasCert s ++ Config.identityCertificate
      let report := (m ++ slhSign (aliasKey s) (beBytes 32 (Config.signRandom s.free).toNat) m).take 65536
      exec .attestCompletion s = .next (lateDone (({ s with free := s.free + 1 } : State).write (hostKey (leAt bs 40 8)) report) q 0)) ∧
    (late? s 10 = some q →
      (hostRead s (leAt bs 8 8) (leAt bs 16 4) = none → exec .fwupdCompletion s = .next (lateDone s q 6)) ∧
      (∀ im, hostRead s (leAt bs 8 8) (leAt bs 16 4) = some im →
        (imageWhole im = true → imageCode s im = 0 → exec .fwupdCompletion s =
          .next (lateDone { s with mgmt := { s.mgmt with flash := some im } } q 0)) ∧
        (imageWhole im = false ∨ imageCode s im ≠ 0 → exec .fwupdCompletion s = .next (lateDone s q 5)))) ∧
    (∀ (addr status : Nat), let t := commandDone s addr bs status;
      t.mem = (s.mem.puts (hostKey (addr + 2)) (bytesOf 2 status)).puts (hostKey addr) (bytesOf 1 (leAt bs 0 1 % 128 + 128)) ∧
      t.hib.msix0 = s.hib.msix0 + (if fB (leAt bs 1 1) 0 then 1 else 0))

/-- R17, R494, R496 to R498, R501: the host's accesses over a trained link. HCTAIL takes the entries up to the tail; HCRSIZE, HCRBASE and PCAP take values in range, and set OVR for others; RCVLEN starts a recovery; the MCB
ignores writes; a CXL.mem access reads or writes within a line of the HDM range, whose line the host may hold afterwards; the HIB reads as Table 20.1 lays it out, and zero elsewhere. That a write of RCVLEN outside recovery stores the length only, and that a recovery image that cannot be
read sets BCODE 5, are log entry 25; that a CXL.mem access which the module cannot take changes nothing is log entry 43. -/
def Obligations.HostAccesses : Prop :=
  ∀ (s : State) (v : BitVec 64), linkUp s = true →
    let h := s.hib
    let ovr : State := { s with hib := { h with ovr := true } }
    let idle := h.ready = true ∧ h.head = h.tail
    let w32 : BitVec 32 := v.setWidth 32
    let w14 : BitVec 14 := v.setWidth 14
    let w4 : BitVec 4 := v.setWidth 4
    ((w32 - h.head).toNat ≤ 2 ^ h.log2n.toNat → exec (.hctailWrite v) s = .next
      (if h.ready then takeCommands { s with hib := { h with tail := w32 } } else { s with hib := { h with tail := w32 } })) ∧
    (2 ^ h.log2n.toNat < (w32 - h.head).toNat → exec (.hctailWrite v) s = .next ovr) ∧
    (4 ≤ w4.toNat → w4.toNat ≤ 12 → idle → exec (.hcrsizeWrite v) s = .next { s with hib := { h with log2n := w4, head := 0, tail := 0 } }) ∧
    (w4.toNat < 4 ∨ 12 < w4.toNat → exec (.hcrsizeWrite v) s = .next ovr) ∧
    (idle → exec (.hcrbaseWrite v) s = .next { s with hib := { h with hcrbase := v &&& ~~~63 } }) ∧
    (¬idle → exec (.hcrbaseWrite v) s = .next s ∧ (4 ≤ w4.toNat → w4.toNat ≤ 12 → exec (.hcrsizeWrite v) s = .next s)) ∧
    (2000 ≤ w14.toNat → w14.toNat ≤ 10000 → exec (.pcapWrite v) s = .next { s with hib := { h with cap := w14 } }) ∧
    (w14.toNat < 2000 ∨ 10000 < w14.toNat → exec (.pcapWrite v) s = .next ovr) ∧
    (let t : State := { s with hib := { h with rcvlen := w32 } };
      (w32 = 0 ∨ h.recov = false → exec (.rcvlenWrite v) s = .next t) ∧
      (∀ im, w32 ≠ 0 → h.recov = true → hostRead t h.rcvaddr.toNat w32.toNat = some im → exec (.rcvlenWrite v) s = .next (recovery t im)) ∧
      (w32 ≠ 0 → h.recov = true → hostRead t h.rcvaddr.toNat w32.toNat = none → exec (.rcvlenWrite v) s = .next { t with hib := { t.hib with bcode := 5 } })) ∧
    (∀ off, exec (.hostRegisterWrite false off v) s = .next s) ∧
    exec (.hostRegisterWrite true 0x00 v) s = .next { s with hib := { h with ovr := h.ovr && !v.getLsbD 2 } } ∧
    exec (.hostRegisterWrite true 0x08 v) s = exec (.hcrbaseWrite v) s ∧ exec (.hostRegisterWrite true 0x10 v) s = exec (.hcrsizeWrite v) s ∧
    exec (.hostRegisterWrite true 0x18 v) s = exec (.hctailWrite v) s ∧
    exec (.hostRegisterWrite true 0x28 v) s = .next { s with hib := { h with rcvaddr := v } } ∧
    exec (.hostRegisterWrite true 0x30 v) s = exec (.rcvlenWrite v) s ∧ exec (.hostRegisterWrite true 0x40 v) s = exec (.pcapWrite v) s ∧
    (∀ off, off ∉ [0x00, 0x08, 0x10, 0x18, 0x28, 0x30, 0x40] → exec (.hostRegisterWrite true off v) s = .next s) ∧
    (hibRead s 0x00 = wordN (b2n h.ready + 2 * b2n h.recov + 4 * b2n h.ovr + 8 * b2n h.capx + 16 * b2n h.trip + 2 ^ 8 * h.bcode.toNat) ∧ hibRead s 0x08 = h.hcrbase ∧
      hibRead s 0x10 = h.log2n.setWidth 64 ∧ hibRead s 0x18 = h.tail.setWidth 64 ∧ hibRead s 0x20 = h.head.setWidth 64 ∧ hibRead s 0x28 = h.rcvaddr ∧
      hibRead s 0x30 = h.rcvlen.setWidth 64 ∧ hibRead s 0x38 = wordN (h.pwr.toNat + 2 ^ 32 * h.tmax.toNat) ∧ hibRead s 0x40 = h.cap.setWidth 64 ∧
      ∀ off, off ∉ [0x00, 0x08, 0x10, 0x18, 0x20, 0x28, 0x30, 0x38, 0x40] → hibRead s off = 0) ∧
    (∀ (addr : Nat) (bs : List Byte) (w : Bool), h.ready = false ∨ addr < 0x10000000 ∨ memLimit s < addr + bs.length ∨ 512 < addr % 512 + bs.length →
      exec (.hostCxlMemAccess addr w bs) s = .next s) ∧
    (∀ (addr : Nat) (bs : List Byte), h.ready = true → 0x10000000 ≤ addr → addr + bs.length ≤ memLimit s → addr % 512 + bs.length ≤ 512 →
      let t : State := { s with mgmt := { s.mgmt with held := s.mgmt.held.filter (· != addr / 512) } }
      let x := homeWrite t whoHost 0 (s.module.toNat * 2 ^ 42 + addr) 0 bs
      let y := (homeRead t whoHost (s.module.toNat * 2 ^ 42 + addr) 0 bs.length).1
      exec (.hostCxlMemAccess addr true bs) s = .next { x with mgmt := { x.mgmt with held := x.mgmt.held ++ [addr / 512] } } ∧
      exec (.hostCxlMemAccess addr false bs) s = .next { y with mgmt := { y.mgmt with held := y.mgmt.held ++ [addr / 512] } })

/-- R494, R496, R500 to R502, R504: reset and boot, recovery, the key-transport key, the snoop responses, and power. A verified image runs and sets READY, and one that fails leaves its code and waits for recovery; the
key-transport key is taken once; reset fills the MCB from the fuses, within the bounds of R25; a power sample moves the clock and, at the trip temperature, loses the memories of the module. The floor of 0.9 GHz at 95 °C is the model's (log entry 27), as are the zeros of the module's memories
after a module reset, which keeps host memory (log entry 3), and BCODE 4 for an image without its magic or its length (log entry 25). -/
def Obligations.BootKeysAndPower : Prop :=
  ∀ (s : State),
    (let t := afterReset s
      let fail := fun code : BitVec 8 => Host.Outcome.next { t with hib := { t.hib with bcode := code, recov := true } };
      (flashOf t = none → exec .moduleReset s = fail 4) ∧
      (∀ im, flashOf t = some im →
        (imageWhole im = false → exec .moduleReset s = fail 4) ∧
        (imageWhole im = true → imageCode t im = 0 → exec .moduleReset s = .next (runImage t im)) ∧
        (imageWhole im = true → imageCode t im ≠ 0 → exec .moduleReset s = fail (BitVec.ofNat 8 (imageCode t im)))) ∧
      t.clen = partClen ∧ t.slcen = partSlcen ∧ t.chen = partChen ∧ t.bxlane = partBxlane ∧
      (∀ x ∈ t.clen.toList, 60 ≤ ones x) ∧ (∀ x ∈ t.slcen.toList, 124 ≤ ones x) ∧ (∀ x ∈ t.chen.toList, 11 ≤ ones x) ∧
      (∀ x ∈ t.bxlane.toList, x &&& 0x0f = 0x0f ∨ x &&& 0xf0 = 0xf0) ∧
      t.slots = [] ∧ t.launches = [] ∧ t.keys = [] ∧ t.tb = 0 ∧ t.hib = Hib.init ∧ t.mgmt.ktk = s.mgmt.ktk ∧
      (∀ a, 2 ^ 64 ≤ a → t.mem.get a = s.mem.get a) ∧ ∀ a, a < 2 ^ 64 → t.mem.get a = 0) ∧
    (∀ im, (s.hib.recov = true → imageCode s im = 0 → imageWhole im = true → exec (.recoveryImageI3c im) s = .next (runImage s im)) ∧
      (s.hib.recov = true → imageCode s im ≠ 0 ∨ imageWhole im = false →
        exec (.recoveryImageI3c im) s = .next { s with hib := { s.hib with bcode := 5 } }) ∧
      (s.hib.recov = false → exec (.recoveryImageI3c im) s = .next s) ∧
      (runImage s im).hib.ready = true ∧ (runImage s im).hib.recov = false ∧ (runImage s im).mgmt.rollback = max s.mgmt.rollback (leAt im 4 4)) ∧
    (∀ im : List Byte,
      let body := (im.drop 32768).take (leAt im 8 4)
      let signed := sha256 (sliceB im 48 64) = Config.fusedVendorKeyHash ∧ slhVerify (im.take 112) (sliceB im 112 29792) (sliceB im 48 64) = true
      (imageWhole im = true ↔ leAt im 0 4 = 0x45444E46 ∧ leAt im 8 4 ≤ 48 * 2 ^ 20 ∧ 32768 + leAt im 8 4 ≤ im.length) ∧
      (¬signed → imageCode s im = 1) ∧ (signed → sha256 body ≠ sliceB im 16 32 → imageCode s im = 2) ∧
      (signed → sha256 body = sliceB im 16 32 → leAt im 4 4 < max Config.fusedSvn s.mgmt.rollback → imageCode s im = 3) ∧
      (signed → sha256 body = sliceB im 16 32 → max Config.fusedSvn s.mgmt.rollback ≤ leAt im 4 4 → imageCode s im = 0)) ∧
    (∀ k, (s.mgmt.ktk = none → exec (.keyTransportKeyProvisioning k) s = .next { s with mgmt := { s.mgmt with ktk := some k } }) ∧
      (s.mgmt.ktk ≠ none → exec (.keyTransportKeyProvisioning k) s = .next s)) ∧
    (∀ fast, s.booted = true → s.mgmt.cxl = none → exec (.cxlLinkTraining fast) s = .next { s with mgmt := { s.mgmt with cxl := some fast } }) ∧
    (∀ l, (l ∈ s.mgmt.snoops → exec (.backInvalidateSnoopResponse l) s = .next { s with mgmt := { s.mgmt with snoops := s.mgmt.snoops.filter (· != l), held := s.mgmt.held.filter (· != l) } }) ∧
      (l ∉ s.mgmt.snoops → exec (.backInvalidateSnoopResponse l) s = .next s)) ∧
    (∀ (p : BitVec 32) (temp : BitVec 16), s.hib.trip = false →
      let cap := s.hib.cap.toNat * 1000
      let t : State := { s with
        hib := { s.hib with pwr := p, tmax := temp, capx := decide (cap < p.toNat) }
        mgmt := { s.mgmt with clk := clockAfter s p.toNat temp.toNat } };
      (temp.toNat < 1760 → exec (.powerSample p temp) s = .next t) ∧
      (1760 ≤ temp.toNat → exec (.powerSample p temp) s = .next (tripped t) ∧ (tripped t).hib.trip = true) ∧
      (1520 ≤ temp.toNat → clockAfter s p.toNat temp.toNat = max 9 (s.mgmt.clk - 1)) ∧
      (temp.toNat < 1520 → cap < p.toNat → contractAdmitted s = true → clockAfter s p.toNat temp.toNat = s.mgmt.clk) ∧
      (temp.toNat < 1520 → cap < p.toNat → contractAdmitted s = false → clockAfter s p.toNat temp.toNat = max 9 (s.mgmt.clk - 1)) ∧
      (temp.toNat < 1520 → p.toNat ≤ cap → p.toNat * 20 ≤ cap * 19 → clockAfter s p.toNat temp.toNat = min 18 (s.mgmt.clk + 1)))

/-- What reset leaves, where the spec gives a value. Table 20.1: LOG2N is 4, CAP 10,000 and the flags, pointers and lengths zero; Table 6.5 (R167): RETRYLIM is 64; R102, R179, R164, R273: no activation runs, no claim, monitor or stream is
held; R246: semaphores are zero; R303: 16 sectors are in the reserve of a slice, the others free. The values that the model chooses (log entries 2 and 3) are not part of it. -/
def Obligations.ResetValues : Prop :=
  let s := State.reset
  (s.hib.log2n = 4 ∧ s.hib.cap = 10000 ∧ s.hib.bcode = 0 ∧ s.hib.trip = false ∧ s.hib.capx = false ∧ s.hib.ovr = false ∧ s.hib.recov = false ∧
    s.hib.ready = false ∧ s.hib.hcrbase = 0 ∧ s.hib.head = 0 ∧ s.hib.tail = 0 ∧ s.hib.rcvaddr = 0 ∧ s.hib.rcvlen = 0) ∧
  (∀ n, (s.slot n).retrylim = 64 ∧ (s.slot n).chan = none ∧ (s.slot n).claim.g = 0 ∧ (s.slot n).mon.armed = false ∧
    ∀ f : Fin 8, ((s.slot n).f[f]).opened = false) ∧
  (∀ t i, semGet s t i = 0) ∧ (∀ n, (tget Slice.init s.slices n).reserve = 16 ∧ (tget Slice.init s.slices n).freeSec = 16368)

/-- The canonical form of the memory is kept: where the keys rise and no zero byte is listed, they do so after every step, whatever happens in it. (The form is the model's own, log entry 3.) -/
def Obligations.MemoryStaysCanonical : Prop :=
  ∀ s t : State, s.memOk = true → step s = .next t → t.memOk = true
end

