-- ==== Sys2Proof/Laws/Arms.lean ====
section
/-!
SUPPORT. The meaning of each constructor, by its arm.
-/

namespace Sys2Proof.Machine

theorem exec_hret (g : Guard) (s : State) : exec (.hret g) s = execHret g s := rfl

theorem exec_hpost (g : Guard) (a b : Reg) (ch : BitVec 6) (dec : BitVec 10) (s : State) : exec (.hpost g a b ch dec) s = execHpost g a b ch dec s := rfl

theorem exec_harm (g : Guard) (d a b : Reg) (keep : Bool) (ch : BitVec 6) (s : State) : exec (.harm g d a b keep ch) s = execHarm g d a b keep ch s := rfl

theorem exec_hen (g : Guard) (d a : Reg) (usech : Bool) (ch : BitVec 6) (s : State) : exec (.hen g d a usech ch) s = execHen g d a usech ch s := rfl

theorem exec_hdis (g : Guard) (d a : Reg) (usech : Bool) (ch : BitVec 6) (s : State) : exec (.hdis g d a usech ch) s = execHdis g d a usech ch s := rfl

theorem exec_hpclr (g : Guard) (d a : Reg) (usech : Bool) (ch : BitVec 6) (s : State) : exec (.hpclr g d a usech ch) s = execHpclr g d a usech ch s := rfl

theorem exec_hprio (g : Guard) (d : Reg) (p : BitVec 3) (ch : BitVec 6) (s : State) : exec (.hprio g d p ch) s = execHprio g d p ch s := rfl

theorem exec_tsread (g : Guard) (d : Reg) (s : State) : exec (.tsread g d) s = execTsread g d s := rfl

theorem exec_dsync (g : Guard) (d : Reg) (mask : BitVec 4) (s : State) : exec (.dsync g d mask) s = execDsync g d mask s := rfl

theorem exec_falign (g : Guard) (s : State) : exec (.falign g) s = execFalign g s := rfl

theorem exec_rtake (g : Guard) (d b : Reg) (obj : BitVec 4) (s : State) : exec (.rtake g d b obj) s = execRtake g d b obj s := rfl

theorem exec_lnch (g : Guard) (d a b : Reg) (s : State) : exec (.lnch g d a b) s = execLnch g d a b s := rfl

theorem exec_add (g : Guard) (d a b : Reg) (s : State) : exec (.add g d a b) s = execAdd g d a b s := rfl

theorem exec_sub (g : Guard) (d a b : Reg) (s : State) : exec (.sub g d a b) s = execSub g d a b s := rfl

theorem exec_and (g : Guard) (d a b : Reg) (s : State) : exec (.and g d a b) s = execAnd g d a b s := rfl

theorem exec_or (g : Guard) (d a b : Reg) (s : State) : exec (.or g d a b) s = execOr g d a b s := rfl

theorem exec_xor (g : Guard) (d a b : Reg) (s : State) : exec (.xor g d a b) s = execXor g d a b s := rfl

theorem exec_andn (g : Guard) (d a b : Reg) (s : State) : exec (.andn g d a b) s = execAndn g d a b s := rfl

theorem exec_orn (g : Guard) (d a b : Reg) (s : State) : exec (.orn g d a b) s = execOrn g d a b s := rfl

theorem exec_mov (g : Guard) (d a : Reg) (s : State) : exec (.mov g d a) s = execMov g d a s := rfl

theorem exec_mul (g : Guard) (d a b : Reg) (s : State) : exec (.mul g d a b) s = execMul g d a b s := rfl

theorem exec_mulh (g : Guard) (d a b : Reg) (s : State) : exec (.mulh g d a b) s = execMulh g d a b s := rfl

theorem exec_mulhn (g : Guard) (d a b : Reg) (s : State) : exec (.mulhn g d a b) s = execMulhn g d a b s := rfl

theorem exec_sel (g : Guard) (d a b : Reg) (s : State) : exec (.sel g d a b) s = execSel g d a b s := rfl

theorem exec_div (g : Guard) (d a b : Reg) (s : State) : exec (.div g d a b) s = execDiv g d a b s := rfl

theorem exec_divn (g : Guard) (d a b : Reg) (s : State) : exec (.divn g d a b) s = execDivn g d a b s := rfl

theorem exec_rem (g : Guard) (d a b : Reg) (s : State) : exec (.rem g d a b) s = execRem g d a b s := rfl

theorem exec_remn (g : Guard) (d a b : Reg) (s : State) : exec (.remn g d a b) s = execRemn g d a b s := rfl

theorem exec_shl (g : Guard) (d a b : Reg) (s : State) : exec (.shl g d a b) s = execShl g d a b s := rfl

theorem exec_shr (g : Guard) (d a b : Reg) (s : State) : exec (.shr g d a b) s = execShr g d a b s := rfl

theorem exec_sar (g : Guard) (d a b : Reg) (s : State) : exec (.sar g d a b) s = execSar g d a b s := rfl

theorem exec_rotl (g : Guard) (d a b : Reg) (s : State) : exec (.rotl g d a b) s = execRotl g d a b s := rfl

theorem exec_min (g : Guard) (d a b : Reg) (s : State) : exec (.min g d a b) s = execMin g d a b s := rfl

theorem exec_max (g : Guard) (d a b : Reg) (s : State) : exec (.max g d a b) s = execMax g d a b s := rfl

theorem exec_minn (g : Guard) (d a b : Reg) (s : State) : exec (.minn g d a b) s = execMinn g d a b s := rfl

theorem exec_maxn (g : Guard) (d a b : Reg) (s : State) : exec (.maxn g d a b) s = execMaxn g d a b s := rfl

theorem exec_addi (g : Guard) (d a : Reg) (imm : BitVec 16) (s : State) : exec (.addi g d a imm) s = execAddi g d a imm s := rfl

theorem exec_shli (g : Guard) (d a : Reg) (n : BitVec 6) (s : State) : exec (.shli g d a n) s = execShli g d a n s := rfl

theorem exec_shri (g : Guard) (d a : Reg) (n : BitVec 6) (s : State) : exec (.shri g d a n) s = execShri g d a n s := rfl

theorem exec_sari (g : Guard) (d a : Reg) (n : BitVec 6) (s : State) : exec (.sari g d a n) s = execSari g d a n s := rfl

theorem exec_addpc (g : Guard) (d : Reg) (t : BitVec 32) (s : State) : exec (.addpc g d t) s = execAddpc g d t s := rfl

theorem exec_lui (g : Guard) (d : Reg) (imm : BitVec 16) (s : State) : exec (.lui g d imm) s = execLui g d imm s := rfl

theorem exec_lim (g : Guard) (d : Reg) (v : BitVec 64) (s : State) : exec (.lim g d v) s = execLim g d v s := rfl

theorem exec_cmpi (g : Guard) (j : Fin 4) (a : Reg) (unsig : Bool) (imm : BitVec 16) (s : State) : exec (.cmpi g j a unsig imm) s = execCmpi g j a unsig imm s := rfl

theorem exec_clz (g : Guard) (d a : Reg) (s : State) : exec (.clz g d a) s = execClz g d a s := rfl

theorem exec_ctz (g : Guard) (d a : Reg) (s : State) : exec (.ctz g d a) s = execCtz g d a s := rfl

theorem exec_popc (g : Guard) (d a : Reg) (s : State) : exec (.popc g d a) s = execPopc g d a s := rfl

theorem exec_bswap (g : Guard) (d a : Reg) (s : State) : exec (.bswap g d a) s = execBswap g d a s := rfl

theorem exec_ext (g : Guard) (d a : Reg) (w1 p : BitVec 6) (s : State) : exec (.ext g d a w1 p) s = execExt g d a w1 p s := rfl

theorem exec_extn (g : Guard) (d a : Reg) (w1 p : BitVec 6) (s : State) : exec (.extn g d a w1 p) s = execExtn g d a w1 p s := rfl

theorem exec_ins (g : Guard) (d a : Reg) (w1 p : BitVec 6) (s : State) : exec (.ins g d a w1 p) s = execIns g d a w1 p s := rfl

theorem exec_sext (g : Guard) (d a : Reg) (n1 : BitVec 6) (s : State) : exec (.sext g d a n1) s = execSext g d a n1 s := rfl

theorem exec_zext (g : Guard) (d a : Reg) (n1 : BitVec 6) (s : State) : exec (.zext g d a n1) s = execZext g d a n1 s := rfl

theorem exec_cmp (g : Guard) (j : Fin 4) (a b : Reg) (unsig : Bool) (s : State) : exec (.cmp g j a b unsig) s = execCmp g j a b unsig s := rfl

theorem exec_gop (g : Guard) (op : GopOp) (gd : Fin 8) (na : Bool) (ga : Fin 8) (nb : Bool) (gb : Fin 8) (s : State) : exec (.gop g op gd na ga nb gb) s = execGop g op gd na ga nb gb s := rfl

theorem exec_nop (g : Guard) (s : State) : exec (.nop g) s = execNop g s := rfl

theorem exec_br (g : Guard) (t : BitVec 32) (s : State) : exec (.br g t) s = execBr g t s := rfl

theorem exec_jl (g : Guard) (t : BitVec 32) (s : State) : exec (.jl g t) s = execJl g t s := rfl

theorem exec_jlr (g : Guard) (d a : Reg) (s : State) : exec (.jlr g d a) s = execJlr g d a s := rfl

theorem exec_trap (g : Guard) (code : BitVec 16) (s : State) : exec (.trap g code) s = execTrap g code s := rfl

theorem exec_lpset (g : Guard) (count u : BitVec 16) (s : State) : exec (.lpset g count u) s = execLpset g count u s := rfl

theorem exec_lpsetr (g : Guard) (a : Reg) (u : BitVec 16) (s : State) : exec (.lpsetr g a u) s = execLpsetr g a u s := rfl

theorem exec_lpbrk (g : Guard) (s : State) : exec (.lpbrk g) s = execLpbrk g s := rfl

theorem exec_eret (g : Guard) (s : State) : exec (.eret g) s = execEret g s := rfl

theorem exec_csrr (g : Guard) (d : Reg) (csr : BitVec 12) (s : State) : exec (.csrr g d csr) s = execCsrr g d csr s := rfl

theorem exec_csrw (g : Guard) (d a : Reg) (csr : BitVec 12) (s : State) : exec (.csrw g d a csr) s = execCsrw g d a csr s := rfl

theorem exec_csrs (g : Guard) (d a : Reg) (csr : BitVec 12) (s : State) : exec (.csrs g d a csr) s = execCsrs g d a csr s := rfl

theorem exec_csrc (g : Guard) (d a : Reg) (csr : BitVec 12) (s : State) : exec (.csrc g d a csr) s = execCsrc g d a csr s := rfl

theorem exec_fpstatAccess (g : Guard) (op : CsrOp) (d a : Reg) (s : State) : exec (.fpstatAccess g op d a) s = execFpstatAccess g op d a s := rfl

theorem exec_qportRead (g : Guard) (d : Reg) (q : Fin 4) (s : State) : exec (.qportRead g d q) s = execQportRead g d q s := rfl

theorem exec_qportWrite (g : Guard) (d a : Reg) (q : Fin 4) (s : State) : exec (.qportWrite g d a q) s = execQportWrite g d a q s := rfl

theorem exec_lhstRet (g : Guard) (op : CsrOp) (d a : Reg) (s : State) : exec (.lhstRet g op d a) s = execLhstRet g op d a s := rfl

theorem exec_ld (g : Guard) (z : Size) (d a : Reg) (imm : BitVec 16) (sync : Option Eng) (s : State) : exec (.ld g z d a imm sync) s = execLd g z d a imm sync s := rfl

theorem exec_ldn (g : Guard) (z : Size) (d a : Reg) (imm : BitVec 16) (sync : Option Eng) (s : State) : exec (.ldn g z d a imm sync) s = execLdn g z d a imm sync s := rfl

theorem exec_st (g : Guard) (z : Size) (d a : Reg) (imm : BitVec 16) (sync : Option Eng) (s : State) : exec (.st g z d a imm sync) s = execSt g z d a imm sync s := rfl

theorem exec_ldx (g : Guard) (z : Size) (d a b : Reg) (s : State) : exec (.ldx g z d a b) s = execLdx g z d a b s := rfl

theorem exec_ldxSync (g : Guard) (z : Size) (d a b : Reg) (eng : Eng) (s : State) : exec (.ldxSync g z d a b eng) s = execLdxSync g z d a b eng s := rfl

theorem exec_stx (g : Guard) (z : Size) (d a b : Reg) (s : State) : exec (.stx g z d a b) s = execStx g z d a b s := rfl

theorem exec_stxSync (g : Guard) (z : Size) (d a b : Reg) (eng : Eng) (s : State) : exec (.stxSync g z d a b eng) s = execStxSync g z d a b eng s := rfl

theorem exec_amo (g : Guard) (dbl : Bool) (d a b : Reg) (op : AmoOp) (ord : MemOrd) (scope : Scope) (s : State) : exec (.amo g dbl d a b op ord scope) s = execAmo g dbl d a b op ord scope s := rfl

theorem exec_amocas (g : Guard) (dbl : Bool) (d a b : Reg) (ar : Bool) (s : State) : exec (.amocas g dbl d a b ar) s = execAmocas g dbl d a b ar s := rfl

theorem exec_ldfe (g : Guard) (d a b : Reg) (imm : BitVec 16) (s : State) : exec (.ldfe g d a b imm) s = execLdfe g d a b imm s := rfl

theorem exec_stfe (g : Guard) (d a b : Reg) (imm : BitVec 16) (s : State) : exec (.stfe g d a b imm) s = execStfe g d a b imm s := rfl

theorem exec_ldff (g : Guard) (d a b : Reg) (imm : BitVec 16) (s : State) : exec (.ldff g d a b imm) s = execLdff g d a b imm s := rfl

theorem exec_ldre (g : Guard) (d a b : Reg) (imm : BitVec 16) (s : State) : exec (.ldre g d a b imm) s = execLdre g d a b imm s := rfl

theorem exec_stsf (g : Guard) (d a b : Reg) (imm : BitVec 16) (s : State) : exec (.stsf g d a b imm) s = execStsf g d a b imm s := rfl

theorem exec_mon (g : Guard) (a : Reg) (s : State) : exec (.mon g a) s = execMon g a s := rfl

theorem exec_mwait (g : Guard) (d a : Reg) (s : State) : exec (.mwait g d a) s = execMwait g d a s := rfl

theorem exec_fence (g : Guard) (scope : Scope) (kind : MemOrd) (s : State) : exec (.fence g scope kind) s = execFence g scope kind s := rfl

theorem exec_spal (g : Guard) (d a : Reg) (bank : BitVec 3) (fe side : BitVec 2) (s : State) : exec (.spal g d a bank fe side) s = execSpal g d a bank fe side s := rfl

theorem exec_spfr (g : Guard) (d a : Reg) (s : State) : exec (.spfr g d a) s = execSpfr g d a s := rfl

theorem exec_fecl (g : Guard) (a b : Reg) (full : Bool) (s : State) : exec (.fecl g a b full) s = execFecl g a b full s := rfl

theorem exec_vclaim (g : Guard) (d a : Reg) (wait : Bool) (min : BitVec 9) (s : State) : exec (.vclaim g d a wait min) s = execVclaim g d a wait min s := rfl

theorem exec_vrel (g : Guard) (s : State) : exec (.vrel g) s = execVrel g s := rfl

theorem exec_vreneg (g : Guard) (d a : Reg) (want : BitVec 9) (s : State) : exec (.vreneg g d a want) s = execVreneg g d a want s := rfl

theorem exec_sfn (g : Guard) (d a : Reg) (fn : SfnOp) (fmt : FloatTy) (rm : Rm) (s : State) : exec (.sfn g d a fn fmt rm) s = execSfn g d a fn fmt rm s := rfl

theorem exec_vld (g : Guard) (z : VSize) (d a : Reg) (off : BitVec 14) (sync : Option Eng) (s : State) : exec (.vld g z d a off sync) s = execVld g z d a off sync s := rfl

theorem exec_vst (g : Guard) (z : VSize) (d a : Reg) (off : BitVec 14) (sync : Option Eng) (s : State) : exec (.vst g z d a off sync) s = execVst g z d a off sync s := rfl

theorem exec_vlds (g : Guard) (z : VSize) (d a b : Reg) (off : BitVec 14) (sync : Option Eng) (s : State) : exec (.vlds g z d a b off sync) s = execVlds g z d a b off sync s := rfl

theorem exec_vsts (g : Guard) (z : VSize) (d a b : Reg) (off : BitVec 14) (sync : Option Eng) (s : State) : exec (.vsts g z d a b off sync) s = execVsts g z d a b off sync s := rfl

theorem exec_vadd (g : Guard) (ty : EltTy) (rm : Rm) (d a b : Reg) (sat : Bool) (s : State) : exec (.vadd g ty rm d a b sat) s = execVadd g ty rm d a b sat s := rfl

theorem exec_vsub (g : Guard) (ty : EltTy) (rm : Rm) (d a b : Reg) (sat : Bool) (s : State) : exec (.vsub g ty rm d a b sat) s = execVsub g ty rm d a b sat s := rfl

theorem exec_vmul (g : Guard) (ty : EltTy) (rm : Rm) (d a b : Reg) (sat : Bool) (s : State) : exec (.vmul g ty rm d a b sat) s = execVmul g ty rm d a b sat s := rfl

theorem exec_vfma (g : Guard) (ty : EltTy) (rm : Rm) (d a b c : Reg) (sat : Bool) (s : State) : exec (.vfma g ty rm d a b c sat) s = execVfma g ty rm d a b c sat s := rfl

theorem exec_vfms (g : Guard) (ty : EltTy) (rm : Rm) (d a b c : Reg) (sat : Bool) (s : State) : exec (.vfms g ty rm d a b c sat) s = execVfms g ty rm d a b c sat s := rfl

theorem exec_vmin (g : Guard) (ty : EltTy) (d a b : Reg) (s : State) : exec (.vmin g ty d a b) s = execVmin g ty d a b s := rfl

theorem exec_vmax (g : Guard) (ty : EltTy) (d a b : Reg) (s : State) : exec (.vmax g ty d a b) s = execVmax g ty d a b s := rfl

theorem exec_vabs (g : Guard) (ty : EltTy) (d a : Reg) (sat : Bool) (s : State) : exec (.vabs g ty d a sat) s = execVabs g ty d a sat s := rfl

theorem exec_vchs (g : Guard) (ty : EltTy) (d a : Reg) (sat : Bool) (s : State) : exec (.vchs g ty d a sat) s = execVchs g ty d a sat s := rfl

theorem exec_vand (g : Guard) (ty : EltTy) (d a b : Reg) (s : State) : exec (.vand g ty d a b) s = execVand g ty d a b s := rfl

theorem exec_vor (g : Guard) (ty : EltTy) (d a b : Reg) (s : State) : exec (.vor g ty d a b) s = execVor g ty d a b s := rfl

theorem exec_vxor (g : Guard) (ty : EltTy) (d a b : Reg) (s : State) : exec (.vxor g ty d a b) s = execVxor g ty d a b s := rfl

theorem exec_vshl (g : Guard) (ty : EltTy) (d a b : Reg) (imm : Bool) (n : BitVec 5) (s : State) : exec (.vshl g ty d a b imm n) s = execVshl g ty d a b imm n s := rfl

theorem exec_vshr (g : Guard) (ty : EltTy) (d a b : Reg) (imm : Bool) (n : BitVec 5) (s : State) : exec (.vshr g ty d a b imm n) s = execVshr g ty d a b imm n s := rfl

theorem exec_vsar (g : Guard) (ty : EltTy) (d a b : Reg) (imm : Bool) (n : BitVec 5) (s : State) : exec (.vsar g ty d a b imm n) s = execVsar g ty d a b imm n s := rfl

theorem exec_vcmp (g : Guard) (ty : EltTy) (j : Fin 4) (a b : Reg) (cmb : CmbOp) (s : State) : exec (.vcmp g ty j a b cmb) s = execVcmp g ty j a b cmb s := rfl

theorem exec_vsel (g : Guard) (ty : EltTy) (d a b : Reg) (m : Fin 8) (s : State) : exec (.vsel g ty d a b m) s = execVsel g ty d a b m s := rfl

theorem exec_vclamp (g : Guard) (ty : EltTy) (d a b c : Reg) (s : State) : exec (.vclamp g ty d a b c) s = execVclamp g ty d a b c s := rfl

theorem exec_vcvt (g : Guard) (ty : EltTy) (rm : Rm) (d a : Reg) (irm : Rm) (src : EltTy) (s : State) : exec (.vcvt g ty rm d a irm src) s = execVcvt g ty rm d a irm src s := rfl

theorem exec_vmxq (g : Guard) (ty : FloatTy) (d a : Reg) (s : State) : exec (.vmxq g ty d a) s = execVmxq g ty d a s := rfl

theorem exec_vmxd (g : Guard) (ty : FloatTy) (rm : Rm) (d a : Reg) (s : State) : exec (.vmxd g ty rm d a) s = execVmxd g ty rm d a s := rfl

theorem exec_vtern (g : Guard) (ty : FloatTy) (d a b : Reg) (det : Bool) (s : State) : exec (.vtern g ty d a b det) s = execVtern g ty d a b det s := rfl

theorem exec_vred (g : Guard) (ty : EltTy) (rm : Rm) (d a : Reg) (red : RedOp) (s : State) : exec (.vred g ty rm d a red) s = execVred g ty rm d a red s := rfl

theorem exec_vsplat (g : Guard) (ty : EltTy) (d a : Reg) (s : State) : exec (.vsplat g ty d a) s = execVsplat g ty d a s := rfl

theorem exec_vext (g : Guard) (ty : EltTy) (d a b : Reg) (s : State) : exec (.vext g ty d a b) s = execVext g ty d a b s := rfl

theorem exec_vins (g : Guard) (ty : EltTy) (d a b : Reg) (s : State) : exec (.vins g ty d a b) s = execVins g ty d a b s := rfl

theorem exec_vmov (g : Guard) (ty : EltTy) (d a : Reg) (form : BitVec 2) (s : State) : exec (.vmov g ty d a form) s = execVmov g ty d a form s := rfl

theorem exec_mlw (g : Guard) (a : Reg) (l actv : Bool) (eng : Eng) (s : State) : exec (.mlw g a l actv eng) s = execMlw g a l actv eng s := rfl

theorem exec_mrun (g : Guard) (d a b : Reg) (row : RowSpec) (eng : Eng) (s : State) : exec (.mrun g d a b row eng) s = execMrun g d a b row eng s := rfl

theorem exec_mrunq (g : Guard) (d a : Fin 4) (row : RowSpec) (fwd : Bool) (eng : Eng) (s : State) : exec (.mrunq g d a row fwd eng) s = execMrunq g d a row fwd eng s := rfl

theorem exec_mdrain (g : Guard) (d a : Reg) (nrow frow : BitVec 4) (bank dst : Bool) (eng : Eng) (s : State) : exec (.mdrain g d a nrow frow bank dst eng) s = execMdrain g d a nrow frow bank dst eng s := rfl

theorem exec_mdrs (g : Guard) (d a : Reg) (nrow frow : BitVec 4) (bank dst : Bool) (eng : Eng) (s : State) : exec (.mdrs g d a nrow frow bank dst eng) s = execMdrs g d a nrow frow bank dst eng s := rfl

theorem exec_mclr (g : Guard) (banks : BitVec 2) (eng : Eng) (s : State) : exec (.mclr g banks eng) s = execMclr g banks eng s := rfl

theorem exec_mswap (g : Guard) (l set : Bool) (eng : Eng) (s : State) : exec (.mswap g l set eng) s = execMswap g l set eng s := rfl

theorem exec_mpass (g : Guard) (d a : Reg) (nrow : BitVec 4) (esz : BitVec 2) (plane : BitVec 3) (eng : Eng) (s : State) : exec (.mpass g d a nrow esz plane eng) s = execMpass g d a nrow esz plane eng s := rfl

theorem exec_mcfg (g : Guard) (a : Reg) (mode clrf user : Bool) (base : BitVec 10) (s : State) : exec (.mcfg g a mode clrf user base) s = execMcfg g a mode clrf user base s := rfl

theorem exec_msave (g : Guard) (a : Reg) (what : BitVec 2) (eng : Eng) (s : State) : exec (.msave g a what eng) s = execMsave g a what eng s := rfl

theorem exec_mrest (g : Guard) (a : Reg) (what : BitVec 2) (eng : Eng) (s : State) : exec (.mrest g a what eng) s = execMrest g a what eng s := rfl

theorem exec_swt (g : Guard) (i t : BitVec 8) (s : State) : exec (.swt g i t) s = execSwt g i t s := rfl

theorem exec_ssig (g : Guard) (j n : BitVec 8) (s : State) : exec (.ssig g j n) s = execSsig g j n s := rfl

theorem exec_sset (g : Guard) (d a : Reg) (idx : BitVec 8) (s : State) : exec (.sset g d a idx) s = execSset g d a idx s := rfl

theorem exec_srd (g : Guard) (d : Reg) (idx : BitVec 8) (s : State) : exec (.srd g d idx) s = execSrd g d idx s := rfl

theorem exec_qctl (g : Guard) (q : Fin 4) (a : Reg) (s : State) : exec (.qctl g q a) s = execQctl g q a s := rfl

theorem exec_qstat (g : Guard) (d : Reg) (q : Fin 4) (s : State) : exec (.qstat g d q) s = execQstat g d q s := rfl

theorem exec_qdir (g : Guard) (d : Reg) (q : Fin 4) (dir : BitVec 3) (tport : BitVec 2) (s : State) : exec (.qdir g d q dir tport) s = execQdir g d q dir tport s := rfl

theorem exec_qflush (g : Guard) (mask : BitVec 4) (s : State) : exec (.qflush g mask) s = execQflush g mask s := rfl

theorem exec_rbinit (g : Guard) (a b : Reg) (nslot1 slotsz1 : BitVec 8) (s : State) : exec (.rbinit g a b nslot1 slotsz1) s = execRbinit g a b nslot1 slotsz1 s := rfl

theorem exec_rbacq (g : Guard) (d a : Reg) (n : BitVec 9) (try_ : Bool) (s : State) : exec (.rbacq g d a n try_) s = execRbacq g d a n try_ s := rfl

theorem exec_rbpub (g : Guard) (a b : Reg) (n : BitVec 9) (s : State) : exec (.rbpub g a b n) s = execRbpub g a b n s := rfl

theorem exec_rbtake (g : Guard) (d a : Reg) (n : BitVec 9) (try_ : Bool) (s : State) : exec (.rbtake g d a n try_) s = execRbtake g d a n try_ s := rfl

theorem exec_rbrel (g : Guard) (a b : Reg) (n : BitVec 9) (s : State) : exec (.rbrel g a b n) s = execRbrel g a b n s := rfl

theorem exec_stacq (g : Guard) (d a : Reg) (role : BitVec 3) (try_ : Bool) (s : State) : exec (.stacq g d a role try_) s = execStacq g d a role try_ s := rfl

theorem exec_strel (g : Guard) (a b : Reg) (role : BitVec 3) (s : State) : exec (.strel g a b role) s = execStrel g a b role s := rfl

theorem exec_sopen (g : Guard) (f : Fin 8) (a b : Reg) (off : BitVec 16) (s : State) : exec (.sopen g f a b off) s = execSopen g f a b off s := rfl

theorem exec_snext (g : Guard) (d : Reg) (f : Fin 8) (s : State) : exec (.snext g d f) s = execSnext g d f s := rfl

theorem exec_sisect (g : Guard) (d : Reg) (fa fb : Fin 8) (s : State) : exec (.sisect g d fa fb) s = execSisect g d fa fb s := rfl

theorem exec_sunion (g : Guard) (d : Reg) (fa fb : Fin 8) (s : State) : exec (.sunion g d fa fb) s = execSunion g d fa fb s := rfl

theorem exec_sskip (g : Guard) (d : Reg) (f : Fin 8) (b : Reg) (s : State) : exec (.sskip g d f b) s = execSskip g d f b s := rfl

theorem exec_scrd (g : Guard) (d : Reg) (f : Fin 8) (b : Reg) (s : State) : exec (.scrd g d f b) s = execScrd g d f b s := rfl

theorem exec_sval (g : Guard) (d : Reg) (f : Fin 8) (sgn : Bool) (s : State) : exec (.sval g d f sgn) s = execSval g d f sgn s := rfl

theorem exec_sdone (g : Guard) (gd f : Fin 8) (s : State) : exec (.sdone g gd f) s = execSdone g gd f s := rfl

theorem exec_ssave (g : Guard) (f : Fin 8) (a : Reg) (s : State) : exec (.ssave g f a) s = execSsave g f a s := rfl

theorem exec_srest (g : Guard) (f : Fin 8) (a : Reg) (s : State) : exec (.srest g f a) s = execSrest g f a s := rfl

theorem exec_sclose (g : Guard) (f : Fin 8) (s : State) : exec (.sclose g f) s = execSclose g f s := rfl

theorem exec_cwb (g : Guard) (a b : Reg) (s : State) : exec (.cwb g a b) s = execCwb g a b s := rfl

theorem exec_cinv (g : Guard) (a b : Reg) (s : State) : exec (.cinv g a b) s = execCinv g a b s := rfl

theorem exec_cwbi (g : Guard) (a b : Reg) (s : State) : exec (.cwbi g a b) s = execCwbi g a b s := rfl

theorem exec_iinv (g : Guard) (a b : Reg) (s : State) : exec (.iinv g a b) s = execIinv g a b s := rfl

theorem exec_ibar (g : Guard) (s : State) : exec (.ibar g) s = execIbar g s := rfl

theorem exec_l2pf (g : Guard) (a : Reg) (n1 : BitVec 8) (cdc : Bool) (s : State) : exec (.l2pf g a n1 cdc) s = execL2pf g a n1 cdc s := rfl

theorem exec_l2zero (g : Guard) (a : Reg) (s : State) : exec (.l2zero g a) s = execL2zero g a s := rfl

theorem exec_gbind (g : Guard) (d a b : Reg) (esz : BitVec 3) (iw : BitVec 2) (isgn bytes : Bool) (cnt : BitVec 24) (s : State) : exec (.gbind g d a b esz iw isgn bytes cnt) s = execGbind g d a b esz iw isgn bytes cnt s := rfl

theorem exec_gunb (g : Guard) (d a : Reg) (s : State) : exec (.gunb g d a) s = execGunb g d a s := rfl

theorem exec_gstat (g : Guard) (d a : Reg) (s : State) : exec (.gstat g d a) s = execGstat g d a s := rfl

theorem exec_tlbinv (g : Guard) (a b : Reg) (all : Bool) (s : State) : exec (.tlbinv g a b all) s = execTlbinv g a b all s := rfl

theorem exec_cpush (g : Guard) (d a b : Reg) (place : Place) (opt : CopyOpt) (glb ring : Bool) (eng : Eng) (s : State) : exec (.cpush g d a b place opt glb ring eng) s = execCpush g d a b place opt glb ring eng s := rfl

theorem exec_cslab (g : Guard) (d a b g1 g2 : Reg) (place : Place) (opt : CopyOpt) (unit : Bool) (eng : Eng) (s : State) : exec (.cslab g d a b g1 g2 place opt unit eng) s = execCslab g d a b g1 g2 place opt unit eng s := rfl

theorem exec_cmcast (g : Guard) (d a b : Reg) (place : Place) (opt : CopyOpt) (unit : Bool) (eng : Eng) (s : State) : exec (.cmcast g d a b place opt unit eng) s = execCmcast g d a b place opt unit eng s := rfl

theorem exec_cthr (g : Guard) (d a b gr pr seed : Reg) (tb arr : Bool) (note : BitVec 2) (stoch : Bool) (eng : Eng) (s : State) : exec (.cthr g d a b gr pr seed tb arr note stoch eng) s = execCthr g d a b gr pr seed tb arr note stoch eng s := rfl

theorem exec_cconv (g : Guard) (d a b : Reg) (conv tslot : BitVec 4) (note : BitVec 2) (eng : Eng) (s : State) : exec (.cconv g d a b conv tslot note eng) s = execCconv g d a b conv tslot note eng s := rfl

theorem exec_ctab (g : Guard) (d a : Reg) (tslot : BitVec 4) (tfmt : BitVec 2) (s : State) : exec (.ctab g d a tslot tfmt) s = execCtab g d a tslot tfmt s := rfl

theorem exec_cfree (g : Guard) (a : Reg) (place : Place) (s : State) : exec (.cfree g a place) s = execCfree g a place s := rfl

theorem exec_tbinit (g : Guard) (a : Reg) (n : BitVec 16) (s : State) : exec (.tbinit g a n) s = execTbinit g a n s := rfl

theorem exec_tbarr (g : Guard) (d a : Reg) (s : State) : exec (.tbarr g d a) s = execTbarr g d a s := rfl

theorem exec_tbexp (g : Guard) (d a b : Reg) (arr : Bool) (s : State) : exec (.tbexp g d a b arr) s = execTbexp g d a b arr s := rfl

theorem exec_tbwait (g : Guard) (d a b : Reg) (s : State) : exec (.tbwait g d a b) s = execTbwait g d a b s := rfl

theorem exec_tbtest (g : Guard) (d a b : Reg) (s : State) : exec (.tbtest g d a b) s = execTbtest g d a b s := rfl

theorem exec_tbguard (g : Guard) (d a b : Reg) (s : State) : exec (.tbguard g d a b) s = execTbguard g d a b s := rfl

theorem exec_msend (g : Guard) (d a b : Reg) (place : Place) (ch : BitVec 6) (dec : BitVec 10) (s : State) : exec (.msend g d a b place ch dec) s = execMsend g d a b place ch dec s := rfl

theorem exec_mrecv (g : Guard) (d a b : Reg) (s : State) : exec (.mrecv g d a b) s = execMrecv g d a b s := rfl

theorem exec_mpeek (g : Guard) (d a : Reg) (s : State) : exec (.mpeek g d a) s = execMpeek g d a s := rfl

theorem exec_rst (g : Guard) (z : Size) (d a : Reg) (place : Place) (ord : Bool) (s : State) : exec (.rst g z d a place ord) s = execRst g z d a place ord s := rfl

theorem exec_rld (g : Guard) (z : Size) (d a : Reg) (place : Place) (zx : Bool) (s : State) : exec (.rld g z d a place zx) s = execRld g z d a place zx s := rfl

theorem exec_jread (g : Guard) (d a b : Reg) (s : State) : exec (.jread g d a b) s = execJread g d a b s := rfl

theorem exec_jack (g : Guard) (d a : Reg) (s : State) : exec (.jack g d a) s = execJack g d a s := rfl

theorem exec_nfence (g : Guard) (rst msg : Bool) (s : State) : exec (.nfence g rst msg) s = execNfence g rst msg s := rfl

theorem exec_coll (g : Guard) (d a b c e : Reg) (kind : CollKind) (ty : EltTy) (red : RedOp) (rm : Rm) (s : State) : exec (.coll g d a b c e kind ty red rm) s = execColl g d a b c e kind ty red rm s := rfl

theorem exec_enctabWrite (g : Guard) (op : CsrOp) (d a : Reg) (s : State) : exec (.enctabWrite g op d a) s = execEnctabWrite g op d a s := rfl

theorem exec_brk (g : Guard) (code : BitVec 16) (s : State) : exec (.brk g code) s = execBrk g code s := rfl

theorem exec_dbgctlStat (g : Guard) (d : Reg) (s : State) : exec (.dbgctlStat g d) s = execDbgctlStat g d s := rfl

theorem exec_dbgctlHalt (g : Guard) (d : Reg) (s : State) : exec (.dbgctlHalt g d) s = execDbgctlHalt g d s := rfl

theorem exec_dbgctlRun (g : Guard) (d : Reg) (s : State) : exec (.dbgctlRun g d) s = execDbgctlRun g d s := rfl

theorem exec_dbgctlKill (g : Guard) (d a : Reg) (s : State) : exec (.dbgctlKill g d a) s = execDbgctlKill g d a s := rfl

theorem exec_dbgctlSettle (g : Guard) (d : Reg) (s : State) : exec (.dbgctlSettle g d) s = execDbgctlSettle g d s := rfl

theorem exec_rangeUnitService (die : Nat) (s : State) : exec (.rangeUnitService die) s = execRangeUnitService die s := rfl

theorem exec_queueEntryLanding (core : Nat) (s : State) : exec (.queueEntryLanding core) s = execQueueEntryLanding core s := rfl

theorem exec_cspBlockZeroed (cl : Nat) (s : State) : exec (.cspBlockZeroed cl) s = execCspBlockZeroed cl s := rfl

theorem exec_vlpRequestService (octet : Nat) (s : State) : exec (.vlpRequestService octet) s = execVlpRequestService octet s := rfl

theorem exec_sfuReturn (quad : Nat) (s : State) : exec (.sfuReturn quad) s = execSfuReturn quad s := rfl

theorem exec_tmeOperationStart (tile : Nat) (s : State) : exec (.tmeOperationStart tile) s = execTmeOperationStart tile s := rfl

theorem exec_tmeOperationComplete (tile k : Nat) (s : State) : exec (.tmeOperationComplete tile k) s = execTmeOperationComplete tile k s := rfl

theorem exec_iinvComplete (cl : Nat) (s : State) : exec (.iinvComplete cl) s = execIinvComplete cl s := rfl

theorem exec_tableWalk (die : Nat) (s : State) : exec (.tableWalk die) s = execTableWalk die s := rfl

theorem exec_copyOperationStart (engine : Nat) (s : State) : exec (.copyOperationStart engine) s = execCopyOperationStart engine s := rfl

theorem exec_copyChunkLanding (engine op chunk : Nat) (s : State) : exec (.copyChunkLanding engine op chunk) s = execCopyChunkLanding engine op chunk s := rfl

theorem exec_copyOperationComplete (engine op : Nat) (s : State) : exec (.copyOperationComplete engine op) s = execCopyOperationComplete engine op s := rfl

theorem exec_collectiveStart (engine : Nat) (s : State) : exec (.collectiveStart engine) s = execCollectiveStart engine s := rfl

theorem exec_collectiveContribution (engine op rank chunk : Nat) (data : Option Contrib) (s : State) : exec (.collectiveContribution engine op rank chunk data) s = execCollectiveContribution engine op rank chunk data s := rfl

theorem exec_collectiveChunkTimeout (engine op chunk : Nat) (s : State) : exec (.collectiveChunkTimeout engine op chunk) s = execCollectiveChunkTimeout engine op chunk s := rfl

theorem exec_collectiveComplete (engine op : Nat) (s : State) : exec (.collectiveComplete engine op) s = execCollectiveComplete engine op s := rfl

theorem exec_activationStart (core : Nat) (s : State) : exec (.activationStart core) s = execActivationStart core s := rfl

theorem exec_l2RequestService (slice : Nat) (s : State) : exec (.l2RequestService slice) s = execL2RequestService slice s := rfl

theorem exec_l2WriteReplay (slice k : Nat) (s : State) : exec (.l2WriteReplay slice k) s = execL2WriteReplay slice k s := rfl

theorem exec_writeBackBufferDrain (slice : Nat) (s : State) : exec (.writeBackBufferDrain slice) s = execWriteBackBufferDrain slice s := rfl

theorem exec_l2FillReturn (slice k : Nat) (s : State) : exec (.l2FillReturn slice k) s = execL2FillReturn slice k s := rfl

theorem exec_hostCxlMemAccess (addr : Nat) (write : Bool) (bytes : List Byte) (s : State) : exec (.hostCxlMemAccess addr write bytes) s = execHostCxlMemAccess addr write bytes s := rfl

theorem exec_encoderFrame (die entry : Nat) (s : State) : exec (.encoderFrame die entry) s = execEncoderFrame die entry s := rfl

theorem exec_encoderRdPoll (die entry : Nat) (s : State) : exec (.encoderRdPoll die entry) s = execEncoderRdPoll die entry s := rfl

theorem exec_timeSyncMessage (master : BitVec 64) (s : State) : exec (.timeSyncMessage master) s = execTimeSyncMessage master s := rfl

theorem exec_fabricTraining (module : BitVec 10) (s : State) : exec (.fabricTraining module) s = execFabricTraining module s := rfl

theorem exec_recoveryImageI3c (image : List Byte) (s : State) : exec (.recoveryImageI3c image) s = execRecoveryImageI3c image s := rfl

theorem exec_rcvlenWrite (v : BitVec 64) (s : State) : exec (.rcvlenWrite v) s = execRcvlenWrite v s := rfl

theorem exec_hctailWrite (v : BitVec 64) (s : State) : exec (.hctailWrite v) s = execHctailWrite v s := rfl

theorem exec_hcrsizeWrite (v : BitVec 64) (s : State) : exec (.hcrsizeWrite v) s = execHcrsizeWrite v s := rfl

theorem exec_hcrbaseWrite (v : BitVec 64) (s : State) : exec (.hcrbaseWrite v) s = execHcrbaseWrite v s := rfl

theorem exec_pcapWrite (v : BitVec 64) (s : State) : exec (.pcapWrite v) s = execPcapWrite v s := rfl

theorem exec_hostRegisterWrite (hib : Bool) (off : Nat) (v : BitVec 64) (s : State) : exec (.hostRegisterWrite hib off v) s = execHostRegisterWrite hib off v s := rfl

theorem exec_powerSample (power : BitVec 32) (temp : BitVec 16) (s : State) : exec (.powerSample power temp) s = execPowerSample power temp s := rfl

theorem exec_unassignedOpcode (head : Parcel) (s : State) : exec (.unassignedOpcode head) s = execUnassignedOpcode head s := rfl

theorem exec_backInvalidateSnoopResponse (line : Nat) (s : State) : exec (.backInvalidateSnoopResponse line) s = execBackInvalidateSnoopResponse line s := rfl

theorem exec_keyTransportKeyProvisioning (key : BitVec 256) (s : State) : exec (.keyTransportKeyProvisioning key) s = execKeyTransportKeyProvisioning key s := rfl

theorem exec_cxlLinkTraining (fast : Bool) (s : State) : exec (.cxlLinkTraining fast) s = execCxlLinkTraining fast s := rfl

theorem exec_falignTimeout (s : State) : exec .falignTimeout s = execFalignTimeout s := rfl

theorem exec_feRetryAttempt (s : State) : exec .feRetryAttempt s = execFeRetryAttempt s := rfl

theorem exec_mwaitDeadline (s : State) : exec .mwaitDeadline s = execMwaitDeadline s := rfl

theorem exec_walkQueueRetry (s : State) : exec .walkQueueRetry s = execWalkQueueRetry s := rfl

theorem exec_cfreeArrival (s : State) : exec .cfreeArrival s = execCfreeArrival s := rfl

theorem exec_messageArrival (s : State) : exec .messageArrival s = execMessageArrival s := rfl

theorem exec_returnedMessage (s : State) : exec .returnedMessage s = execReturnedMessage s := rfl

theorem exec_acknowledgementArrival (s : State) : exec .acknowledgementArrival s = execAcknowledgementArrival s := rfl

theorem exec_remoteStoreArrival (s : State) : exec .remoteStoreArrival s = execRemoteStoreArrival s := rfl

theorem exec_journalRefusal (s : State) : exec .journalRefusal s = execJournalRefusal s := rfl

theorem exec_remoteLoadService (s : State) : exec .remoteLoadService s = execRemoteLoadService s := rfl

theorem exec_remoteLoadReply (s : State) : exec .remoteLoadReply s = execRemoteLoadReply s := rfl

theorem exec_driftCreditArrival (s : State) : exec .driftCreditArrival s = execDriftCreditArrival s := rfl

theorem exec_remoteReplyTimeout (s : State) : exec .remoteReplyTimeout s = execRemoteReplyTimeout s := rfl

theorem exec_fetchLine (s : State) : exec .fetchLine s = execFetchLine s := rfl

theorem exec_launchCheck (s : State) : exec .launchCheck s = execLaunchCheck s := rfl

theorem exec_launchStart (s : State) : exec .launchStart s = execLaunchStart s := rfl

theorem exec_launchEnd (s : State) : exec .launchEnd s = execLaunchEnd s := rfl

theorem exec_streamWaitEntry (s : State) : exec .streamWaitEntry s = execStreamWaitEntry s := rfl

theorem exec_streamSignalEntry (s : State) : exec .streamSignalEntry s = execStreamSignalEntry s := rfl

theorem exec_streamMapping (s : State) : exec .streamMapping s = execStreamMapping s := rfl

theorem exec_inheritanceSearch (s : State) : exec .inheritanceSearch s = execInheritanceSearch s := rfl

theorem exec_contractJobRelease (s : State) : exec .contractJobRelease s = execContractJobRelease s := rfl

theorem exec_contractBudgetOverrun (s : State) : exec .contractBudgetOverrun s = execContractBudgetOverrun s := rfl

theorem exec_gangSwitchOut (s : State) : exec .gangSwitchOut s = execGangSwitchOut s := rfl

theorem exec_gangSwitchIn (s : State) : exec .gangSwitchIn s = execGangSwitchIn s := rfl

theorem exec_timeSyncLoss (s : State) : exec .timeSyncLoss s = execTimeSyncLoss s := rfl

theorem exec_teardownStep (s : State) : exec .teardownStep s = execTeardownStep s := rfl

theorem exec_moduleReset (s : State) : exec .moduleReset s = execModuleReset s := rfl

theorem exec_ctxnew (s : State) : exec .ctxnew s = execCtxnew s := rfl

theorem exec_strnew (s : State) : exec .strnew s = execStrnew s := rfl

theorem exec_strrst (s : State) : exec .strrst s = execStrrst s := rfl

theorem exec_append (s : State) : exec .append s = execAppend s := rfl

theorem exec_semset (s : State) : exec .semset s = execSemset s := rfl

theorem exec_cancel (s : State) : exec .cancel s = execCancel s := rfl

theorem exec_teardown (s : State) : exec .teardown s = execTeardown s := rfl

theorem exec_keyload (s : State) : exec .keyload s = execKeyload s := rfl

theorem exec_attest (s : State) : exec .attest s = execAttest s := rfl

theorem exec_fwupd (s : State) : exec .fwupd s = execFwupd s := rfl

theorem exec_attestCompletion (s : State) : exec .attestCompletion s = execAttestCompletion s := rfl

theorem exec_fwupdCompletion (s : State) : exec .fwupdCompletion s = execFwupdCompletion s := rfl

end Sys2Proof.Machine
end

