-- ==== Sys2Proof/Laws/Encoding.lean ====
section
/-!
SUPPORT. Fields of the parcels that the encoder writes, as the decoder reads them, and the decoding of an encoded head.
-/

namespace Sys2Proof.Laws

/-! ## Fields -/

theorem fV_of {w n lo : Nat} {v : BitVec w} (h : n / 2 ^ lo % 2 ^ w = v.toNat) : fV w n lo = v :=
  BitVec.eq_of_toNat_eq (by simpa [fV] using h)

theorem fB_of {n lo : Nat} {b : Bool} (h : n / 2 ^ lo % 2 = b.toNat) : fB n lo = b := by
  cases b <;> simp_all [fB]

theorem fF_of {k n lo : Nat} [NeZero k] {v : Fin k} (h : n / 2 ^ lo % k = v.val) : fF n lo = v :=
  Fin.ext (by simpa [fF] using h)

theorem fN_of {w n lo v : Nat} (h : n / 2 ^ lo % 2 ^ w = v) : fN w n lo = v := h

theorem par_toNat (v k : Nat) : (par v k).toNat = v / 65536 ^ k % 65536 := by simp [par]

theorem rparcel_toNat (d a b x : Nat) : (rparcel d a b x).toNat = (2048 * d + 64 * a + 2 * b + x) % 65536 := by
  simp [rparcel]

/-! A register parcel read back: D, A, B and X. -/

theorem pD_reg {d : Reg} {a b x : Nat} (ha : a < 32) (hb : b < 32) (hx : x < 2) : pD (rparcel d.val a b x) = d :=
  fF_of (by rw [rparcel_toNat]; omega)

theorem pA_reg {a : Reg} {d b x : Nat} (hb : b < 32) (hx : x < 2) : pA (rparcel d a.val b x) = a :=
  fF_of (by rw [rparcel_toNat]; omega)

theorem pB_reg {b : Reg} {d a x : Nat} (hx : x < 2) : pB (rparcel d a b.val x) = b :=
  fF_of (by rw [rparcel_toNat]; omega)

theorem pX_bit {d a b : Nat} {x : Bool} : pX (rparcel d a b x.toNat) = x :=
  fB_of (by rw [rparcel_toNat]; have := Bool.toNat_lt x; omega)

/-! A number below 32 in a register field. -/

theorem pD_fin {k : Nat} [NeZero k] {d : Fin k} {a b x : Nat} (hk : k ≤ 32) (ha : a < 32) (hb : b < 32) (hx : x < 2) :
    Fin.ofNat k (pD (rparcel d.val a b x)).val = d := by
  rw [show pD (rparcel d.val a b x) = Fin.ofNat 32 d.val from fF_of (by rw [rparcel_toNat]; simp only [Fin.val_ofNat]; omega)]
  exact Fin.ext (by simp only [Fin.val_ofNat]; rw [Nat.mod_eq_of_lt (by omega : d.val < 32), Nat.mod_eq_of_lt d.isLt])

theorem pA_fin {k : Nat} [NeZero k] {a : Fin k} {d b x : Nat} (hk : k ≤ 32) (hb : b < 32) (hx : x < 2) :
    Fin.ofNat k (pA (rparcel d a.val b x)).val = a := by
  rw [show pA (rparcel d a.val b x) = Fin.ofNat 32 a.val from fF_of (by rw [rparcel_toNat]; simp only [Fin.val_ofNat]; omega)]
  exact Fin.ext (by simp only [Fin.val_ofNat]; rw [Nat.mod_eq_of_lt (by omega : a.val < 32), Nat.mod_eq_of_lt a.isLt])

theorem pB_fin {k : Nat} [NeZero k] {b : Fin k} {d a x : Nat} (hk : k ≤ 32) (hx : x < 2) :
    Fin.ofNat k (pB (rparcel d a b.val x)).val = b := by
  rw [show pB (rparcel d a b.val x) = Fin.ofNat 32 b.val from fF_of (by rw [rparcel_toNat]; simp only [Fin.val_ofNat]; omega)]
  exact Fin.ext (by simp only [Fin.val_ofNat]; rw [Nat.mod_eq_of_lt (by omega : b.val < 32), Nat.mod_eq_of_lt b.isLt])

/-! Values of several immediate parcels. -/

theorem imm2_par {v : Nat} (h : v < 4294967296) : imm2 (par v 0) (par v 1) = v := by
  simp only [imm2, par_toNat]; omega

theorem imm4_par {v : Nat} (h : v < 18446744073709551616) : imm4 (par v 0) (par v 1) (par v 2) (par v 3) = v := by
  simp only [imm4, imm2, par_toNat]; omega

/-! Codes of the operand lists. -/

theorem Size.code_lt (x : Size) : x.code < 4 := by cases x <;> decide

theorem Size.ofCode_of {x : Size} {n : Nat} (h : n = x.code) : Size.ofCode n = x := by subst h; cases x <;> rfl

theorem VSize.code_lt (x : VSize) : x.code < 4 := by cases x <;> decide

theorem VSize.ofCode_of {x : VSize} {n : Nat} (h : n = x.code) : VSize.ofCode n = x := by subst h; cases x <;> rfl

theorem EltTy.code_lt (x : EltTy) : x.code < 16 := by cases x <;> decide

theorem EltTy.ofCode_of {x : EltTy} {n : Nat} (h : n = x.code) : EltTy.ofCode n = x := by subst h; cases x <;> rfl

theorem FloatTy.code_lt (x : FloatTy) : x.code < 4 := by cases x <;> decide

theorem FloatTy.ofCode_of {x : FloatTy} {n : Nat} (h : n = x.code) : FloatTy.ofCode n = x := by subst h; cases x <;> rfl

theorem Rm.code_lt (x : Rm) : x.code < 4 := by cases x <;> decide

theorem Rm.ofCode_of {x : Rm} {n : Nat} (h : n = x.code) : Rm.ofCode n = x := by subst h; cases x <;> rfl

theorem CsrOp.code_lt (x : CsrOp) : x.code < 4 := by cases x <;> decide

theorem CsrOp.ofCode_of {x : CsrOp} {n : Nat} (h : n = x.code) : CsrOp.ofCode n = x := by subst h; cases x <;> rfl

theorem GopOp.code_lt (x : GopOp) : x.code < 4 := by cases x <;> decide

theorem GopOp.ofCode_of {x : GopOp} {n : Nat} (h : n = x.code) : GopOp.ofCode n = x := by subst h; cases x <;> rfl

theorem AmoOp.code_lt (x : AmoOp) : x.code < 16 := by cases x <;> decide

theorem AmoOp.ofCode_of {x : AmoOp} {n : Nat} (h : n = x.code) : AmoOp.ofCode n = x := by subst h; cases x <;> rfl

theorem MemOrd.code_lt (x : MemOrd) : x.code < 4 := by cases x <;> decide

theorem MemOrd.ofCode_of {x : MemOrd} {n : Nat} (h : n = x.code) : MemOrd.ofCode n = x := by subst h; cases x <;> rfl

theorem Scope.code_lt (x : Scope) : x.code < 8 := by cases x <;> decide

theorem Scope.ofCode_of {x : Scope} {n : Nat} (h : n = x.code) : Scope.ofCode n = x := by subst h; cases x <;> rfl

theorem CmbOp.code_lt (x : CmbOp) : x.code < 4 := by cases x <;> decide

theorem CmbOp.ofCode_of {x : CmbOp} {n : Nat} (h : n = x.code) : CmbOp.ofCode n = x := by subst h; cases x <;> rfl

theorem RedOp.code_lt (x : RedOp) : x.code < 4 := by cases x <;> decide

theorem RedOp.ofCode_of {x : RedOp} {n : Nat} (h : n = x.code) : RedOp.ofCode n = x := by subst h; cases x <;> rfl

theorem SfnOp.code_lt (x : SfnOp) : x.code < 16 := by cases x <;> decide

theorem SfnOp.ofCode_of {x : SfnOp} {n : Nat} (h : n = x.code) : SfnOp.ofCode n = x := by subst h; cases x <;> rfl

theorem CollKind.code_lt (x : CollKind) : x.code < 8 := by cases x <;> decide

theorem CollKind.ofCode_of {x : CollKind} {n : Nat} (h : n = x.code) : CollKind.ofCode n = x := by subst h; cases x <;> rfl

theorem engOf_parcels (e : Eng) : engOf e.wpar e.spar = e := by
  obtain ⟨wi, wt, sj, sn⟩ := e
  have := wi.isLt; have := wt.isLt; have := sj.isLt; have := sn.isLt
  simp only [engOf, Eng.wpar, Eng.spar, par_toNat, Eng.mk.injEq]
  refine ⟨fV_of ?_, fV_of ?_, fV_of ?_, fV_of ?_⟩ <;> omega

/-! Fields of one immediate parcel, of two and of four. -/

theorem fV_par {v k w lo : Nat} {x : BitVec w} (h : v / 65536 ^ k % 65536 / 2 ^ lo % 2 ^ w = x.toNat) : fV w (par v k).toNat lo = x :=
  fV_of (by rw [par_toNat]; exact h)

theorem fB_par {v k lo : Nat} {x : Bool} (h : v / 65536 ^ k % 65536 / 2 ^ lo % 2 = x.toNat) : fB (par v k).toNat lo = x :=
  fB_of (by rw [par_toNat]; exact h)

theorem fF_par {v k lo m : Nat} [NeZero m] {x : Fin m} (h : v / 65536 ^ k % 65536 / 2 ^ lo % m = x.val) : fF (par v k).toNat lo = x :=
  fF_of (by rw [par_toNat]; exact h)

theorem fN_par {v k w lo n : Nat} (h : v / 65536 ^ k % 65536 / 2 ^ lo % 2 ^ w = n) : fN w (par v k).toNat lo = n := by
  rw [fN, par_toNat]; exact h

theorem fV_imm2 {v w lo : Nat} {x : BitVec w} (hv : v < 4294967296) (h : v / 2 ^ lo % 2 ^ w = x.toNat) :
    fV w (imm2 (par v 0) (par v 1)) lo = x :=
  fV_of (by rw [imm2_par hv]; exact h)

theorem fB_imm2 {v lo : Nat} {x : Bool} (hv : v < 4294967296) (h : v / 2 ^ lo % 2 = x.toNat) : fB (imm2 (par v 0) (par v 1)) lo = x :=
  fB_of (by rw [imm2_par hv]; exact h)

theorem fV_imm4 {v w lo : Nat} {x : BitVec w} (hv : v < 18446744073709551616) (h : v / 2 ^ lo % 2 ^ w = x.toNat) :
    fV w (imm4 (par v 0) (par v 1) (par v 2) (par v 3)) lo = x :=
  fV_of (by rw [imm4_par hv]; exact h)

/-! Sync parcels (R69). -/

theorem syncOf_none {d a b : Nat} {p : Parcel} : syncOf [rparcel d a b (Option.isSome (none : Option Eng)).toNat, p] 2 = none := by
  unfold syncOf tk
  rw [show [rparcel d a b (Option.isSome (none : Option Eng)).toNat, p].getD 0 0 = rparcel d a b false.toNat from rfl, pX_bit]
  rfl

theorem syncOf_some {d a b : Nat} {p : Parcel} {e : Eng} :
    syncOf [rparcel d a b (some e).isSome.toNat, p, e.wpar, e.spar] 2 = some e := by
  unfold syncOf tk
  rw [show [rparcel d a b (some e).isSome.toNat, p, e.wpar, e.spar].getD 0 0 = rparcel d a b true.toNat from rfl, pX_bit]
  exact congrArg some (engOf_parcels e)

theorem lengthOf_sync {n d a b : Nat} {x : Bool} {t : List Parcel} :
    lengthOf ⟨n, true⟩ (rparcel d a b x.toNat :: t) = if x then n + 2 else n := by
  have h : pX (tk (rparcel d a b x.toNat :: t) 0) = x := pX_bit
  simp only [lengthOf, h, Bool.true_and]

/-! ## Heads -/

theorem head_toNat {maj min tl : Nat} (g : Guard) (hm : maj < 128) (hn : min < 4) (ht : tl < 8) :
    (headWord maj min tl g).toNat = 512 * maj + 64 * g.gi.val + 32 * g.gn.toNat + 4 * tl + min := by
  have := g.gi.isLt
  have := Bool.toNat_lt g.gn
  simp only [headWord, BitVec.toNat_ofNat]
  omega

theorem headMaj_head {maj min tl : Nat} (g : Guard) (hm : maj < 128) (hn : min < 4) (ht : tl < 8) :
    headMaj (headWord maj min tl g) = maj := by
  have := g.gi.isLt
  have := Bool.toNat_lt g.gn
  rw [headMaj, head_toNat g hm hn ht]
  omega

theorem headMin_head {maj min tl : Nat} (g : Guard) (hm : maj < 128) (hn : min < 4) (ht : tl < 8) :
    headMin (headWord maj min tl g) = min := by
  rw [headMin, head_toNat g hm hn ht]
  omega

theorem headTl_head {maj min tl : Nat} (g : Guard) (hm : maj < 128) (hn : min < 4) (ht : tl < 8) :
    headTl (headWord maj min tl g) = tl := by
  rw [headTl, head_toNat g hm hn ht]
  omega

theorem headGuard_head {maj min tl : Nat} (g : Guard) (hm : maj < 128) (hn : min < 4) (ht : tl < 8) :
    headGuard (headWord maj min tl g) = g := by
  have := g.gi.isLt
  have := Bool.toNat_lt g.gn
  rw [headGuard, head_toNat g hm hn ht]
  obtain ⟨gi, gn⟩ := g
  simp only [Guard.mk.injEq]
  exact ⟨fF_of (by simp only at *; omega), fB_of (by simp only at *; omega)⟩

/-- An encoded head with its tail parcels decodes to the instruction that its builder makes, where that is the well-formed
instruction that was encoded. -/
theorem decode_words {maj min n : Nat} {g : Guard} {t : List Parcel} {f : Format} {b : Nat → Guard → List Parcel → Instr} {i : Instr}
    (hm : maj < 128) (hn : min < 4) (hk : n < 8) (hlen : t.length = n) (hf : formatOf maj min = some f) (hb : builders[maj - 1]? = some b)
    (hl : t.length = lengthOf f t) (hi : b min g t = i) (hw : i.wf = true) (he : encode i = words maj min g t) :
    decodeParcels (headWord maj min t.length g) t = .ok i := by
  have ht : t.length < 8 := hlen ▸ hk
  simp only [decodeParcels, headMaj_head g hm hn ht, headMin_head g hm hn ht, headTl_head g hm hn ht, headGuard_head g hm hn ht, hf, hb,
    hi, hw, he, words]
  simp [← hl]

end Sys2Proof.Laws
end

