-- ==== Sys2Proof/Laws/State.lean ====
section
/-!
SUPPORT. What each named update of the state leaves alone, field by field, and what reading back gives.
-/

namespace Sys2Proof.Machine

/-! ## Tables -/

/-- An item that has just been set reads back. -/
@[simp] theorem tget_tset_same {α : Type} (d v : α) (t : Tbl α) (k : Nat) : tget d (tset t k v) k = v := by
  induction t with
  | nil => simp [tset, tget]
  | cons p t ih =>
    obtain ⟨i, a⟩ := p
    by_cases h : k < i
    · simp [tset, tget, h]
    · by_cases e : i = k <;> simp [tset, tget, h, e, ih]

/-- Setting an item leaves every other item alone. -/
@[simp] theorem tget_tset_other {α : Type} (d v : α) (t : Tbl α) {k j : Nat} (n : j ≠ k) : tget d (tset t k v) j = tget d t j := by
  induction t with
  | nil => simp [tset, tget, Ne.symm n]
  | cons p t ih =>
    obtain ⟨i, a⟩ := p
    by_cases h : k < i
    · simp [tset, tget, h, Ne.symm n]
    · by_cases e : i = k
      · subst e; simp [tset, tget, Ne.symm n]
      · simp [tset, tget, h, e, ih]

/-- Of two settings of one item the second counts. -/
@[simp] theorem tset_tset {α : Type} (t : Tbl α) (k : Nat) (a b : α) : tset (tset t k a) k b = tset t k b := by
  induction t with
  | nil => simp [tset]
  | cons p t ih =>
    obtain ⟨i, c⟩ := p
    by_cases h : k < i
    · simp [tset, h]
    · by_cases e : i = k <;> simp [tset, h, e, ih]

/-! ## `setSlot` -/

@[simp] theorem State.setSlot_mem (s : State) (n : Nat) (l : Slot) : (s.setSlot n l).mem = s.mem := rfl
@[simp] theorem State.setSlot_lost (s : State) (n : Nat) (l : Slot) : (s.setSlot n l).lost = s.lost := rfl
@[simp] theorem State.setSlot_fe (s : State) (n : Nat) (l : Slot) : (s.setSlot n l).fe = s.fe := rfl
@[simp] theorem State.setSlot_cores (s : State) (n : Nat) (l : Slot) : (s.setSlot n l).cores = s.cores := rfl
@[simp] theorem State.setSlot_tiles (s : State) (n : Nat) (l : Slot) : (s.setSlot n l).tiles = s.tiles := rfl
@[simp] theorem State.setSlot_pools (s : State) (n : Nat) (l : Slot) : (s.setSlot n l).pools = s.pools := rfl
@[simp] theorem State.setSlot_sfus (s : State) (n : Nat) (l : Slot) : (s.setSlot n l).sfus = s.sfus := rfl
@[simp] theorem State.setSlot_tmes (s : State) (n : Nat) (l : Slot) : (s.setSlot n l).tmes = s.tmes := rfl
@[simp] theorem State.setSlot_copies (s : State) (n : Nat) (l : Slot) : (s.setSlot n l).copies = s.copies := rfl
@[simp] theorem State.setSlot_colls (s : State) (n : Nat) (l : Slot) : (s.setSlot n l).colls = s.colls := rfl
@[simp] theorem State.setSlot_early (s : State) (n : Nat) (l : Slot) : (s.setSlot n l).early = s.early := rfl
@[simp] theorem State.setSlot_clusters (s : State) (n : Nat) (l : Slot) : (s.setSlot n l).clusters = s.clusters := rfl
@[simp] theorem State.setSlot_dies (s : State) (n : Nat) (l : Slot) : (s.setSlot n l).dies = s.dies := rfl
@[simp] theorem State.setSlot_launches (s : State) (n : Nat) (l : Slot) : (s.setSlot n l).launches = s.launches := rfl
@[simp] theorem State.setSlot_slices (s : State) (n : Nat) (l : Slot) : (s.setSlot n l).slices = s.slices := rfl
@[simp] theorem State.setSlot_away (s : State) (n : Nat) (l : Slot) : (s.setSlot n l).away = s.away := rfl
@[simp] theorem State.setSlot_owed (s : State) (n : Nat) (l : Slot) : (s.setSlot n l).owed = s.owed := rfl
@[simp] theorem State.setSlot_live (s : State) (n : Nat) (l : Slot) : (s.setSlot n l).live = s.live := rfl
@[simp] theorem State.setSlot_lineKey (s : State) (n : Nat) (l : Slot) : (s.setSlot n l).lineKey = s.lineKey := rfl
@[simp] theorem State.setSlot_keys (s : State) (n : Nat) (l : Slot) : (s.setSlot n l).keys = s.keys := rfl
@[simp] theorem State.setSlot_windows (s : State) (n : Nat) (l : Slot) : (s.setSlot n l).windows = s.windows := rfl
@[simp] theorem State.setSlot_clen (s : State) (n : Nat) (l : Slot) : (s.setSlot n l).clen = s.clen := rfl
@[simp] theorem State.setSlot_slcen (s : State) (n : Nat) (l : Slot) : (s.setSlot n l).slcen = s.slcen := rfl
@[simp] theorem State.setSlot_chen (s : State) (n : Nat) (l : Slot) : (s.setSlot n l).chen = s.chen := rfl
@[simp] theorem State.setSlot_bxlane (s : State) (n : Nat) (l : Slot) : (s.setSlot n l).bxlane = s.bxlane := rfl
@[simp] theorem State.setSlot_module (s : State) (n : Nat) (l : Slot) : (s.setSlot n l).module = s.module := rfl
@[simp] theorem State.setSlot_tb (s : State) (n : Nat) (l : Slot) : (s.setSlot n l).tb = s.tb := rfl
@[simp] theorem State.setSlot_cc (s : State) (n : Nat) (l : Slot) : (s.setSlot n l).cc = s.cc := rfl
@[simp] theorem State.setSlot_net (s : State) (n : Nat) (l : Slot) : (s.setSlot n l).net = s.net := rfl
@[simp] theorem State.setSlot_sprue (s : State) (n : Nat) (l : Slot) : (s.setSlot n l).sprue = s.sprue := rfl
@[simp] theorem State.setSlot_enghalt (s : State) (n : Nat) (l : Slot) : (s.setSlot n l).enghalt = s.enghalt := rfl
@[simp] theorem State.setSlot_tear (s : State) (n : Nat) (l : Slot) : (s.setSlot n l).tear = s.tear := rfl
@[simp] theorem State.setSlot_torn (s : State) (n : Nat) (l : Slot) : (s.setSlot n l).torn = s.torn := rfl
@[simp] theorem State.setSlot_tbLock (s : State) (n : Nat) (l : Slot) : (s.setSlot n l).tbLock = s.tbLock := rfl
@[simp] theorem State.setSlot_tbMaster (s : State) (n : Nat) (l : Slot) : (s.setSlot n l).tbMaster = s.tbMaster := rfl
@[simp] theorem State.setSlot_engStop (s : State) (n : Nat) (l : Slot) : (s.setSlot n l).engStop = s.engStop := rfl
@[simp] theorem State.setSlot_encTab (s : State) (n : Nat) (l : Slot) : (s.setSlot n l).encTab = s.encTab := rfl
@[simp] theorem State.setSlot_encs (s : State) (n : Nat) (l : Slot) : (s.setSlot n l).encs = s.encs := rfl
@[simp] theorem State.setSlot_qm (s : State) (n : Nat) (l : Slot) : (s.setSlot n l).qm = s.qm := rfl
@[simp] theorem State.setSlot_hib (s : State) (n : Nat) (l : Slot) : (s.setSlot n l).hib = s.hib := rfl
@[simp] theorem State.setSlot_mgmt (s : State) (n : Nat) (l : Slot) : (s.setSlot n l).mgmt = s.mgmt := rfl
@[simp] theorem State.setSlot_cur (s : State) (n : Nat) (l : Slot) : (s.setSlot n l).cur = s.cur := rfl
@[simp] theorem State.setSlot_sel (s : State) (n : Nat) (l : Slot) : (s.setSlot n l).sel = s.sel := rfl
@[simp] theorem State.setSlot_free (s : State) (n : Nat) (l : Slot) : (s.setSlot n l).free = s.free := rfl
@[simp] theorem State.setSlot_age (s : State) (n : Nat) (l : Slot) : (s.setSlot n l).age = s.age := rfl
@[simp] theorem State.setSlot_inputs (s : State) (n : Nat) (l : Slot) : (s.setSlot n l).inputs = s.inputs := rfl
@[simp] theorem State.setSlot_booted (s : State) (n : Nat) (l : Slot) : (s.setSlot n l).booted = s.booted := rfl

/-! ## `setCore` -/

@[simp] theorem State.setCore_mem (s : State) (n : Nat) (c : CoreSt) : (s.setCore n c).mem = s.mem := rfl
@[simp] theorem State.setCore_lost (s : State) (n : Nat) (c : CoreSt) : (s.setCore n c).lost = s.lost := rfl
@[simp] theorem State.setCore_fe (s : State) (n : Nat) (c : CoreSt) : (s.setCore n c).fe = s.fe := rfl
@[simp] theorem State.setCore_slots (s : State) (n : Nat) (c : CoreSt) : (s.setCore n c).slots = s.slots := rfl
@[simp] theorem State.setCore_tiles (s : State) (n : Nat) (c : CoreSt) : (s.setCore n c).tiles = s.tiles := rfl
@[simp] theorem State.setCore_pools (s : State) (n : Nat) (c : CoreSt) : (s.setCore n c).pools = s.pools := rfl
@[simp] theorem State.setCore_sfus (s : State) (n : Nat) (c : CoreSt) : (s.setCore n c).sfus = s.sfus := rfl
@[simp] theorem State.setCore_tmes (s : State) (n : Nat) (c : CoreSt) : (s.setCore n c).tmes = s.tmes := rfl
@[simp] theorem State.setCore_copies (s : State) (n : Nat) (c : CoreSt) : (s.setCore n c).copies = s.copies := rfl
@[simp] theorem State.setCore_colls (s : State) (n : Nat) (c : CoreSt) : (s.setCore n c).colls = s.colls := rfl
@[simp] theorem State.setCore_early (s : State) (n : Nat) (c : CoreSt) : (s.setCore n c).early = s.early := rfl
@[simp] theorem State.setCore_clusters (s : State) (n : Nat) (c : CoreSt) : (s.setCore n c).clusters = s.clusters := rfl
@[simp] theorem State.setCore_dies (s : State) (n : Nat) (c : CoreSt) : (s.setCore n c).dies = s.dies := rfl
@[simp] theorem State.setCore_launches (s : State) (n : Nat) (c : CoreSt) : (s.setCore n c).launches = s.launches := rfl
@[simp] theorem State.setCore_slices (s : State) (n : Nat) (c : CoreSt) : (s.setCore n c).slices = s.slices := rfl
@[simp] theorem State.setCore_away (s : State) (n : Nat) (c : CoreSt) : (s.setCore n c).away = s.away := rfl
@[simp] theorem State.setCore_owed (s : State) (n : Nat) (c : CoreSt) : (s.setCore n c).owed = s.owed := rfl
@[simp] theorem State.setCore_live (s : State) (n : Nat) (c : CoreSt) : (s.setCore n c).live = s.live := rfl
@[simp] theorem State.setCore_lineKey (s : State) (n : Nat) (c : CoreSt) : (s.setCore n c).lineKey = s.lineKey := rfl
@[simp] theorem State.setCore_keys (s : State) (n : Nat) (c : CoreSt) : (s.setCore n c).keys = s.keys := rfl
@[simp] theorem State.setCore_windows (s : State) (n : Nat) (c : CoreSt) : (s.setCore n c).windows = s.windows := rfl
@[simp] theorem State.setCore_clen (s : State) (n : Nat) (c : CoreSt) : (s.setCore n c).clen = s.clen := rfl
@[simp] theorem State.setCore_slcen (s : State) (n : Nat) (c : CoreSt) : (s.setCore n c).slcen = s.slcen := rfl
@[simp] theorem State.setCore_chen (s : State) (n : Nat) (c : CoreSt) : (s.setCore n c).chen = s.chen := rfl
@[simp] theorem State.setCore_bxlane (s : State) (n : Nat) (c : CoreSt) : (s.setCore n c).bxlane = s.bxlane := rfl
@[simp] theorem State.setCore_module (s : State) (n : Nat) (c : CoreSt) : (s.setCore n c).module = s.module := rfl
@[simp] theorem State.setCore_tb (s : State) (n : Nat) (c : CoreSt) : (s.setCore n c).tb = s.tb := rfl
@[simp] theorem State.setCore_cc (s : State) (n : Nat) (c : CoreSt) : (s.setCore n c).cc = s.cc := rfl
@[simp] theorem State.setCore_net (s : State) (n : Nat) (c : CoreSt) : (s.setCore n c).net = s.net := rfl
@[simp] theorem State.setCore_sprue (s : State) (n : Nat) (c : CoreSt) : (s.setCore n c).sprue = s.sprue := rfl
@[simp] theorem State.setCore_enghalt (s : State) (n : Nat) (c : CoreSt) : (s.setCore n c).enghalt = s.enghalt := rfl
@[simp] theorem State.setCore_tear (s : State) (n : Nat) (c : CoreSt) : (s.setCore n c).tear = s.tear := rfl
@[simp] theorem State.setCore_torn (s : State) (n : Nat) (c : CoreSt) : (s.setCore n c).torn = s.torn := rfl
@[simp] theorem State.setCore_tbLock (s : State) (n : Nat) (c : CoreSt) : (s.setCore n c).tbLock = s.tbLock := rfl
@[simp] theorem State.setCore_tbMaster (s : State) (n : Nat) (c : CoreSt) : (s.setCore n c).tbMaster = s.tbMaster := rfl
@[simp] theorem State.setCore_engStop (s : State) (n : Nat) (c : CoreSt) : (s.setCore n c).engStop = s.engStop := rfl
@[simp] theorem State.setCore_encTab (s : State) (n : Nat) (c : CoreSt) : (s.setCore n c).encTab = s.encTab := rfl
@[simp] theorem State.setCore_encs (s : State) (n : Nat) (c : CoreSt) : (s.setCore n c).encs = s.encs := rfl
@[simp] theorem State.setCore_qm (s : State) (n : Nat) (c : CoreSt) : (s.setCore n c).qm = s.qm := rfl
@[simp] theorem State.setCore_hib (s : State) (n : Nat) (c : CoreSt) : (s.setCore n c).hib = s.hib := rfl
@[simp] theorem State.setCore_mgmt (s : State) (n : Nat) (c : CoreSt) : (s.setCore n c).mgmt = s.mgmt := rfl
@[simp] theorem State.setCore_cur (s : State) (n : Nat) (c : CoreSt) : (s.setCore n c).cur = s.cur := rfl
@[simp] theorem State.setCore_sel (s : State) (n : Nat) (c : CoreSt) : (s.setCore n c).sel = s.sel := rfl
@[simp] theorem State.setCore_free (s : State) (n : Nat) (c : CoreSt) : (s.setCore n c).free = s.free := rfl
@[simp] theorem State.setCore_age (s : State) (n : Nat) (c : CoreSt) : (s.setCore n c).age = s.age := rfl
@[simp] theorem State.setCore_inputs (s : State) (n : Nat) (c : CoreSt) : (s.setCore n c).inputs = s.inputs := rfl
@[simp] theorem State.setCore_booted (s : State) (n : Nat) (c : CoreSt) : (s.setCore n c).booted = s.booted := rfl

/-! ## `setTile` -/

@[simp] theorem State.setTile_mem (s : State) (n : Nat) (t : Tile) : (s.setTile n t).mem = s.mem := rfl
@[simp] theorem State.setTile_lost (s : State) (n : Nat) (t : Tile) : (s.setTile n t).lost = s.lost := rfl
@[simp] theorem State.setTile_fe (s : State) (n : Nat) (t : Tile) : (s.setTile n t).fe = s.fe := rfl
@[simp] theorem State.setTile_slots (s : State) (n : Nat) (t : Tile) : (s.setTile n t).slots = s.slots := rfl
@[simp] theorem State.setTile_cores (s : State) (n : Nat) (t : Tile) : (s.setTile n t).cores = s.cores := rfl
@[simp] theorem State.setTile_pools (s : State) (n : Nat) (t : Tile) : (s.setTile n t).pools = s.pools := rfl
@[simp] theorem State.setTile_sfus (s : State) (n : Nat) (t : Tile) : (s.setTile n t).sfus = s.sfus := rfl
@[simp] theorem State.setTile_tmes (s : State) (n : Nat) (t : Tile) : (s.setTile n t).tmes = s.tmes := rfl
@[simp] theorem State.setTile_copies (s : State) (n : Nat) (t : Tile) : (s.setTile n t).copies = s.copies := rfl
@[simp] theorem State.setTile_colls (s : State) (n : Nat) (t : Tile) : (s.setTile n t).colls = s.colls := rfl
@[simp] theorem State.setTile_early (s : State) (n : Nat) (t : Tile) : (s.setTile n t).early = s.early := rfl
@[simp] theorem State.setTile_clusters (s : State) (n : Nat) (t : Tile) : (s.setTile n t).clusters = s.clusters := rfl
@[simp] theorem State.setTile_dies (s : State) (n : Nat) (t : Tile) : (s.setTile n t).dies = s.dies := rfl
@[simp] theorem State.setTile_launches (s : State) (n : Nat) (t : Tile) : (s.setTile n t).launches = s.launches := rfl
@[simp] theorem State.setTile_slices (s : State) (n : Nat) (t : Tile) : (s.setTile n t).slices = s.slices := rfl
@[simp] theorem State.setTile_away (s : State) (n : Nat) (t : Tile) : (s.setTile n t).away = s.away := rfl
@[simp] theorem State.setTile_owed (s : State) (n : Nat) (t : Tile) : (s.setTile n t).owed = s.owed := rfl
@[simp] theorem State.setTile_live (s : State) (n : Nat) (t : Tile) : (s.setTile n t).live = s.live := rfl
@[simp] theorem State.setTile_lineKey (s : State) (n : Nat) (t : Tile) : (s.setTile n t).lineKey = s.lineKey := rfl
@[simp] theorem State.setTile_keys (s : State) (n : Nat) (t : Tile) : (s.setTile n t).keys = s.keys := rfl
@[simp] theorem State.setTile_windows (s : State) (n : Nat) (t : Tile) : (s.setTile n t).windows = s.windows := rfl
@[simp] theorem State.setTile_clen (s : State) (n : Nat) (t : Tile) : (s.setTile n t).clen = s.clen := rfl
@[simp] theorem State.setTile_slcen (s : State) (n : Nat) (t : Tile) : (s.setTile n t).slcen = s.slcen := rfl
@[simp] theorem State.setTile_chen (s : State) (n : Nat) (t : Tile) : (s.setTile n t).chen = s.chen := rfl
@[simp] theorem State.setTile_bxlane (s : State) (n : Nat) (t : Tile) : (s.setTile n t).bxlane = s.bxlane := rfl
@[simp] theorem State.setTile_module (s : State) (n : Nat) (t : Tile) : (s.setTile n t).module = s.module := rfl
@[simp] theorem State.setTile_tb (s : State) (n : Nat) (t : Tile) : (s.setTile n t).tb = s.tb := rfl
@[simp] theorem State.setTile_cc (s : State) (n : Nat) (t : Tile) : (s.setTile n t).cc = s.cc := rfl
@[simp] theorem State.setTile_net (s : State) (n : Nat) (t : Tile) : (s.setTile n t).net = s.net := rfl
@[simp] theorem State.setTile_sprue (s : State) (n : Nat) (t : Tile) : (s.setTile n t).sprue = s.sprue := rfl
@[simp] theorem State.setTile_enghalt (s : State) (n : Nat) (t : Tile) : (s.setTile n t).enghalt = s.enghalt := rfl
@[simp] theorem State.setTile_tear (s : State) (n : Nat) (t : Tile) : (s.setTile n t).tear = s.tear := rfl
@[simp] theorem State.setTile_torn (s : State) (n : Nat) (t : Tile) : (s.setTile n t).torn = s.torn := rfl
@[simp] theorem State.setTile_tbLock (s : State) (n : Nat) (t : Tile) : (s.setTile n t).tbLock = s.tbLock := rfl
@[simp] theorem State.setTile_tbMaster (s : State) (n : Nat) (t : Tile) : (s.setTile n t).tbMaster = s.tbMaster := rfl
@[simp] theorem State.setTile_engStop (s : State) (n : Nat) (t : Tile) : (s.setTile n t).engStop = s.engStop := rfl
@[simp] theorem State.setTile_encTab (s : State) (n : Nat) (t : Tile) : (s.setTile n t).encTab = s.encTab := rfl
@[simp] theorem State.setTile_encs (s : State) (n : Nat) (t : Tile) : (s.setTile n t).encs = s.encs := rfl
@[simp] theorem State.setTile_qm (s : State) (n : Nat) (t : Tile) : (s.setTile n t).qm = s.qm := rfl
@[simp] theorem State.setTile_hib (s : State) (n : Nat) (t : Tile) : (s.setTile n t).hib = s.hib := rfl
@[simp] theorem State.setTile_mgmt (s : State) (n : Nat) (t : Tile) : (s.setTile n t).mgmt = s.mgmt := rfl
@[simp] theorem State.setTile_cur (s : State) (n : Nat) (t : Tile) : (s.setTile n t).cur = s.cur := rfl
@[simp] theorem State.setTile_sel (s : State) (n : Nat) (t : Tile) : (s.setTile n t).sel = s.sel := rfl
@[simp] theorem State.setTile_free (s : State) (n : Nat) (t : Tile) : (s.setTile n t).free = s.free := rfl
@[simp] theorem State.setTile_age (s : State) (n : Nat) (t : Tile) : (s.setTile n t).age = s.age := rfl
@[simp] theorem State.setTile_inputs (s : State) (n : Nat) (t : Tile) : (s.setTile n t).inputs = s.inputs := rfl
@[simp] theorem State.setTile_booted (s : State) (n : Nat) (t : Tile) : (s.setTile n t).booted = s.booted := rfl

/-! ## `setCluster` -/

@[simp] theorem State.setCluster_mem (s : State) (n : Nat) (c : Cluster) : (s.setCluster n c).mem = s.mem := rfl
@[simp] theorem State.setCluster_lost (s : State) (n : Nat) (c : Cluster) : (s.setCluster n c).lost = s.lost := rfl
@[simp] theorem State.setCluster_fe (s : State) (n : Nat) (c : Cluster) : (s.setCluster n c).fe = s.fe := rfl
@[simp] theorem State.setCluster_slots (s : State) (n : Nat) (c : Cluster) : (s.setCluster n c).slots = s.slots := rfl
@[simp] theorem State.setCluster_cores (s : State) (n : Nat) (c : Cluster) : (s.setCluster n c).cores = s.cores := rfl
@[simp] theorem State.setCluster_tiles (s : State) (n : Nat) (c : Cluster) : (s.setCluster n c).tiles = s.tiles := rfl
@[simp] theorem State.setCluster_pools (s : State) (n : Nat) (c : Cluster) : (s.setCluster n c).pools = s.pools := rfl
@[simp] theorem State.setCluster_sfus (s : State) (n : Nat) (c : Cluster) : (s.setCluster n c).sfus = s.sfus := rfl
@[simp] theorem State.setCluster_tmes (s : State) (n : Nat) (c : Cluster) : (s.setCluster n c).tmes = s.tmes := rfl
@[simp] theorem State.setCluster_copies (s : State) (n : Nat) (c : Cluster) : (s.setCluster n c).copies = s.copies := rfl
@[simp] theorem State.setCluster_colls (s : State) (n : Nat) (c : Cluster) : (s.setCluster n c).colls = s.colls := rfl
@[simp] theorem State.setCluster_early (s : State) (n : Nat) (c : Cluster) : (s.setCluster n c).early = s.early := rfl
@[simp] theorem State.setCluster_dies (s : State) (n : Nat) (c : Cluster) : (s.setCluster n c).dies = s.dies := rfl
@[simp] theorem State.setCluster_launches (s : State) (n : Nat) (c : Cluster) : (s.setCluster n c).launches = s.launches := rfl
@[simp] theorem State.setCluster_slices (s : State) (n : Nat) (c : Cluster) : (s.setCluster n c).slices = s.slices := rfl
@[simp] theorem State.setCluster_away (s : State) (n : Nat) (c : Cluster) : (s.setCluster n c).away = s.away := rfl
@[simp] theorem State.setCluster_owed (s : State) (n : Nat) (c : Cluster) : (s.setCluster n c).owed = s.owed := rfl
@[simp] theorem State.setCluster_live (s : State) (n : Nat) (c : Cluster) : (s.setCluster n c).live = s.live := rfl
@[simp] theorem State.setCluster_lineKey (s : State) (n : Nat) (c : Cluster) : (s.setCluster n c).lineKey = s.lineKey := rfl
@[simp] theorem State.setCluster_keys (s : State) (n : Nat) (c : Cluster) : (s.setCluster n c).keys = s.keys := rfl
@[simp] theorem State.setCluster_windows (s : State) (n : Nat) (c : Cluster) : (s.setCluster n c).windows = s.windows := rfl
@[simp] theorem State.setCluster_clen (s : State) (n : Nat) (c : Cluster) : (s.setCluster n c).clen = s.clen := rfl
@[simp] theorem State.setCluster_slcen (s : State) (n : Nat) (c : Cluster) : (s.setCluster n c).slcen = s.slcen := rfl
@[simp] theorem State.setCluster_chen (s : State) (n : Nat) (c : Cluster) : (s.setCluster n c).chen = s.chen := rfl
@[simp] theorem State.setCluster_bxlane (s : State) (n : Nat) (c : Cluster) : (s.setCluster n c).bxlane = s.bxlane := rfl
@[simp] theorem State.setCluster_module (s : State) (n : Nat) (c : Cluster) : (s.setCluster n c).module = s.module := rfl
@[simp] theorem State.setCluster_tb (s : State) (n : Nat) (c : Cluster) : (s.setCluster n c).tb = s.tb := rfl
@[simp] theorem State.setCluster_cc (s : State) (n : Nat) (c : Cluster) : (s.setCluster n c).cc = s.cc := rfl
@[simp] theorem State.setCluster_net (s : State) (n : Nat) (c : Cluster) : (s.setCluster n c).net = s.net := rfl
@[simp] theorem State.setCluster_sprue (s : State) (n : Nat) (c : Cluster) : (s.setCluster n c).sprue = s.sprue := rfl
@[simp] theorem State.setCluster_enghalt (s : State) (n : Nat) (c : Cluster) : (s.setCluster n c).enghalt = s.enghalt := rfl
@[simp] theorem State.setCluster_tear (s : State) (n : Nat) (c : Cluster) : (s.setCluster n c).tear = s.tear := rfl
@[simp] theorem State.setCluster_torn (s : State) (n : Nat) (c : Cluster) : (s.setCluster n c).torn = s.torn := rfl
@[simp] theorem State.setCluster_tbLock (s : State) (n : Nat) (c : Cluster) : (s.setCluster n c).tbLock = s.tbLock := rfl
@[simp] theorem State.setCluster_tbMaster (s : State) (n : Nat) (c : Cluster) : (s.setCluster n c).tbMaster = s.tbMaster := rfl
@[simp] theorem State.setCluster_engStop (s : State) (n : Nat) (c : Cluster) : (s.setCluster n c).engStop = s.engStop := rfl
@[simp] theorem State.setCluster_encTab (s : State) (n : Nat) (c : Cluster) : (s.setCluster n c).encTab = s.encTab := rfl
@[simp] theorem State.setCluster_encs (s : State) (n : Nat) (c : Cluster) : (s.setCluster n c).encs = s.encs := rfl
@[simp] theorem State.setCluster_qm (s : State) (n : Nat) (c : Cluster) : (s.setCluster n c).qm = s.qm := rfl
@[simp] theorem State.setCluster_hib (s : State) (n : Nat) (c : Cluster) : (s.setCluster n c).hib = s.hib := rfl
@[simp] theorem State.setCluster_mgmt (s : State) (n : Nat) (c : Cluster) : (s.setCluster n c).mgmt = s.mgmt := rfl
@[simp] theorem State.setCluster_cur (s : State) (n : Nat) (c : Cluster) : (s.setCluster n c).cur = s.cur := rfl
@[simp] theorem State.setCluster_sel (s : State) (n : Nat) (c : Cluster) : (s.setCluster n c).sel = s.sel := rfl
@[simp] theorem State.setCluster_free (s : State) (n : Nat) (c : Cluster) : (s.setCluster n c).free = s.free := rfl
@[simp] theorem State.setCluster_age (s : State) (n : Nat) (c : Cluster) : (s.setCluster n c).age = s.age := rfl
@[simp] theorem State.setCluster_inputs (s : State) (n : Nat) (c : Cluster) : (s.setCluster n c).inputs = s.inputs := rfl
@[simp] theorem State.setCluster_booted (s : State) (n : Nat) (c : Cluster) : (s.setCluster n c).booted = s.booted := rfl

/-! ## `setDie` -/

@[simp] theorem State.setDie_mem (s : State) (n : Nat) (d : Die) : (s.setDie n d).mem = s.mem := rfl
@[simp] theorem State.setDie_lost (s : State) (n : Nat) (d : Die) : (s.setDie n d).lost = s.lost := rfl
@[simp] theorem State.setDie_fe (s : State) (n : Nat) (d : Die) : (s.setDie n d).fe = s.fe := rfl
@[simp] theorem State.setDie_slots (s : State) (n : Nat) (d : Die) : (s.setDie n d).slots = s.slots := rfl
@[simp] theorem State.setDie_cores (s : State) (n : Nat) (d : Die) : (s.setDie n d).cores = s.cores := rfl
@[simp] theorem State.setDie_tiles (s : State) (n : Nat) (d : Die) : (s.setDie n d).tiles = s.tiles := rfl
@[simp] theorem State.setDie_pools (s : State) (n : Nat) (d : Die) : (s.setDie n d).pools = s.pools := rfl
@[simp] theorem State.setDie_sfus (s : State) (n : Nat) (d : Die) : (s.setDie n d).sfus = s.sfus := rfl
@[simp] theorem State.setDie_tmes (s : State) (n : Nat) (d : Die) : (s.setDie n d).tmes = s.tmes := rfl
@[simp] theorem State.setDie_copies (s : State) (n : Nat) (d : Die) : (s.setDie n d).copies = s.copies := rfl
@[simp] theorem State.setDie_colls (s : State) (n : Nat) (d : Die) : (s.setDie n d).colls = s.colls := rfl
@[simp] theorem State.setDie_early (s : State) (n : Nat) (d : Die) : (s.setDie n d).early = s.early := rfl
@[simp] theorem State.setDie_clusters (s : State) (n : Nat) (d : Die) : (s.setDie n d).clusters = s.clusters := rfl
@[simp] theorem State.setDie_launches (s : State) (n : Nat) (d : Die) : (s.setDie n d).launches = s.launches := rfl
@[simp] theorem State.setDie_slices (s : State) (n : Nat) (d : Die) : (s.setDie n d).slices = s.slices := rfl
@[simp] theorem State.setDie_away (s : State) (n : Nat) (d : Die) : (s.setDie n d).away = s.away := rfl
@[simp] theorem State.setDie_owed (s : State) (n : Nat) (d : Die) : (s.setDie n d).owed = s.owed := rfl
@[simp] theorem State.setDie_live (s : State) (n : Nat) (d : Die) : (s.setDie n d).live = s.live := rfl
@[simp] theorem State.setDie_lineKey (s : State) (n : Nat) (d : Die) : (s.setDie n d).lineKey = s.lineKey := rfl
@[simp] theorem State.setDie_keys (s : State) (n : Nat) (d : Die) : (s.setDie n d).keys = s.keys := rfl
@[simp] theorem State.setDie_windows (s : State) (n : Nat) (d : Die) : (s.setDie n d).windows = s.windows := rfl
@[simp] theorem State.setDie_clen (s : State) (n : Nat) (d : Die) : (s.setDie n d).clen = s.clen := rfl
@[simp] theorem State.setDie_slcen (s : State) (n : Nat) (d : Die) : (s.setDie n d).slcen = s.slcen := rfl
@[simp] theorem State.setDie_chen (s : State) (n : Nat) (d : Die) : (s.setDie n d).chen = s.chen := rfl
@[simp] theorem State.setDie_bxlane (s : State) (n : Nat) (d : Die) : (s.setDie n d).bxlane = s.bxlane := rfl
@[simp] theorem State.setDie_module (s : State) (n : Nat) (d : Die) : (s.setDie n d).module = s.module := rfl
@[simp] theorem State.setDie_tb (s : State) (n : Nat) (d : Die) : (s.setDie n d).tb = s.tb := rfl
@[simp] theorem State.setDie_cc (s : State) (n : Nat) (d : Die) : (s.setDie n d).cc = s.cc := rfl
@[simp] theorem State.setDie_net (s : State) (n : Nat) (d : Die) : (s.setDie n d).net = s.net := rfl
@[simp] theorem State.setDie_sprue (s : State) (n : Nat) (d : Die) : (s.setDie n d).sprue = s.sprue := rfl
@[simp] theorem State.setDie_enghalt (s : State) (n : Nat) (d : Die) : (s.setDie n d).enghalt = s.enghalt := rfl
@[simp] theorem State.setDie_tear (s : State) (n : Nat) (d : Die) : (s.setDie n d).tear = s.tear := rfl
@[simp] theorem State.setDie_torn (s : State) (n : Nat) (d : Die) : (s.setDie n d).torn = s.torn := rfl
@[simp] theorem State.setDie_tbLock (s : State) (n : Nat) (d : Die) : (s.setDie n d).tbLock = s.tbLock := rfl
@[simp] theorem State.setDie_tbMaster (s : State) (n : Nat) (d : Die) : (s.setDie n d).tbMaster = s.tbMaster := rfl
@[simp] theorem State.setDie_engStop (s : State) (n : Nat) (d : Die) : (s.setDie n d).engStop = s.engStop := rfl
@[simp] theorem State.setDie_encTab (s : State) (n : Nat) (d : Die) : (s.setDie n d).encTab = s.encTab := rfl
@[simp] theorem State.setDie_encs (s : State) (n : Nat) (d : Die) : (s.setDie n d).encs = s.encs := rfl
@[simp] theorem State.setDie_qm (s : State) (n : Nat) (d : Die) : (s.setDie n d).qm = s.qm := rfl
@[simp] theorem State.setDie_hib (s : State) (n : Nat) (d : Die) : (s.setDie n d).hib = s.hib := rfl
@[simp] theorem State.setDie_mgmt (s : State) (n : Nat) (d : Die) : (s.setDie n d).mgmt = s.mgmt := rfl
@[simp] theorem State.setDie_cur (s : State) (n : Nat) (d : Die) : (s.setDie n d).cur = s.cur := rfl
@[simp] theorem State.setDie_sel (s : State) (n : Nat) (d : Die) : (s.setDie n d).sel = s.sel := rfl
@[simp] theorem State.setDie_free (s : State) (n : Nat) (d : Die) : (s.setDie n d).free = s.free := rfl
@[simp] theorem State.setDie_age (s : State) (n : Nat) (d : Die) : (s.setDie n d).age = s.age := rfl
@[simp] theorem State.setDie_inputs (s : State) (n : Nat) (d : Die) : (s.setDie n d).inputs = s.inputs := rfl
@[simp] theorem State.setDie_booted (s : State) (n : Nat) (d : Die) : (s.setDie n d).booted = s.booted := rfl

/-! ## `setTme` -/

@[simp] theorem State.setTme_mem (s : State) (n : Nat) (e : Tme) : (s.setTme n e).mem = s.mem := rfl
@[simp] theorem State.setTme_lost (s : State) (n : Nat) (e : Tme) : (s.setTme n e).lost = s.lost := rfl
@[simp] theorem State.setTme_fe (s : State) (n : Nat) (e : Tme) : (s.setTme n e).fe = s.fe := rfl
@[simp] theorem State.setTme_slots (s : State) (n : Nat) (e : Tme) : (s.setTme n e).slots = s.slots := rfl
@[simp] theorem State.setTme_cores (s : State) (n : Nat) (e : Tme) : (s.setTme n e).cores = s.cores := rfl
@[simp] theorem State.setTme_tiles (s : State) (n : Nat) (e : Tme) : (s.setTme n e).tiles = s.tiles := rfl
@[simp] theorem State.setTme_pools (s : State) (n : Nat) (e : Tme) : (s.setTme n e).pools = s.pools := rfl
@[simp] theorem State.setTme_sfus (s : State) (n : Nat) (e : Tme) : (s.setTme n e).sfus = s.sfus := rfl
@[simp] theorem State.setTme_copies (s : State) (n : Nat) (e : Tme) : (s.setTme n e).copies = s.copies := rfl
@[simp] theorem State.setTme_colls (s : State) (n : Nat) (e : Tme) : (s.setTme n e).colls = s.colls := rfl
@[simp] theorem State.setTme_early (s : State) (n : Nat) (e : Tme) : (s.setTme n e).early = s.early := rfl
@[simp] theorem State.setTme_clusters (s : State) (n : Nat) (e : Tme) : (s.setTme n e).clusters = s.clusters := rfl
@[simp] theorem State.setTme_dies (s : State) (n : Nat) (e : Tme) : (s.setTme n e).dies = s.dies := rfl
@[simp] theorem State.setTme_launches (s : State) (n : Nat) (e : Tme) : (s.setTme n e).launches = s.launches := rfl
@[simp] theorem State.setTme_slices (s : State) (n : Nat) (e : Tme) : (s.setTme n e).slices = s.slices := rfl
@[simp] theorem State.setTme_away (s : State) (n : Nat) (e : Tme) : (s.setTme n e).away = s.away := rfl
@[simp] theorem State.setTme_owed (s : State) (n : Nat) (e : Tme) : (s.setTme n e).owed = s.owed := rfl
@[simp] theorem State.setTme_live (s : State) (n : Nat) (e : Tme) : (s.setTme n e).live = s.live := rfl
@[simp] theorem State.setTme_lineKey (s : State) (n : Nat) (e : Tme) : (s.setTme n e).lineKey = s.lineKey := rfl
@[simp] theorem State.setTme_keys (s : State) (n : Nat) (e : Tme) : (s.setTme n e).keys = s.keys := rfl
@[simp] theorem State.setTme_windows (s : State) (n : Nat) (e : Tme) : (s.setTme n e).windows = s.windows := rfl
@[simp] theorem State.setTme_clen (s : State) (n : Nat) (e : Tme) : (s.setTme n e).clen = s.clen := rfl
@[simp] theorem State.setTme_slcen (s : State) (n : Nat) (e : Tme) : (s.setTme n e).slcen = s.slcen := rfl
@[simp] theorem State.setTme_chen (s : State) (n : Nat) (e : Tme) : (s.setTme n e).chen = s.chen := rfl
@[simp] theorem State.setTme_bxlane (s : State) (n : Nat) (e : Tme) : (s.setTme n e).bxlane = s.bxlane := rfl
@[simp] theorem State.setTme_module (s : State) (n : Nat) (e : Tme) : (s.setTme n e).module = s.module := rfl
@[simp] theorem State.setTme_tb (s : State) (n : Nat) (e : Tme) : (s.setTme n e).tb = s.tb := rfl
@[simp] theorem State.setTme_cc (s : State) (n : Nat) (e : Tme) : (s.setTme n e).cc = s.cc := rfl
@[simp] theorem State.setTme_net (s : State) (n : Nat) (e : Tme) : (s.setTme n e).net = s.net := rfl
@[simp] theorem State.setTme_sprue (s : State) (n : Nat) (e : Tme) : (s.setTme n e).sprue = s.sprue := rfl
@[simp] theorem State.setTme_enghalt (s : State) (n : Nat) (e : Tme) : (s.setTme n e).enghalt = s.enghalt := rfl
@[simp] theorem State.setTme_tear (s : State) (n : Nat) (e : Tme) : (s.setTme n e).tear = s.tear := rfl
@[simp] theorem State.setTme_torn (s : State) (n : Nat) (e : Tme) : (s.setTme n e).torn = s.torn := rfl
@[simp] theorem State.setTme_tbLock (s : State) (n : Nat) (e : Tme) : (s.setTme n e).tbLock = s.tbLock := rfl
@[simp] theorem State.setTme_tbMaster (s : State) (n : Nat) (e : Tme) : (s.setTme n e).tbMaster = s.tbMaster := rfl
@[simp] theorem State.setTme_engStop (s : State) (n : Nat) (e : Tme) : (s.setTme n e).engStop = s.engStop := rfl
@[simp] theorem State.setTme_encTab (s : State) (n : Nat) (e : Tme) : (s.setTme n e).encTab = s.encTab := rfl
@[simp] theorem State.setTme_encs (s : State) (n : Nat) (e : Tme) : (s.setTme n e).encs = s.encs := rfl
@[simp] theorem State.setTme_qm (s : State) (n : Nat) (e : Tme) : (s.setTme n e).qm = s.qm := rfl
@[simp] theorem State.setTme_hib (s : State) (n : Nat) (e : Tme) : (s.setTme n e).hib = s.hib := rfl
@[simp] theorem State.setTme_mgmt (s : State) (n : Nat) (e : Tme) : (s.setTme n e).mgmt = s.mgmt := rfl
@[simp] theorem State.setTme_cur (s : State) (n : Nat) (e : Tme) : (s.setTme n e).cur = s.cur := rfl
@[simp] theorem State.setTme_sel (s : State) (n : Nat) (e : Tme) : (s.setTme n e).sel = s.sel := rfl
@[simp] theorem State.setTme_free (s : State) (n : Nat) (e : Tme) : (s.setTme n e).free = s.free := rfl
@[simp] theorem State.setTme_age (s : State) (n : Nat) (e : Tme) : (s.setTme n e).age = s.age := rfl
@[simp] theorem State.setTme_inputs (s : State) (n : Nat) (e : Tme) : (s.setTme n e).inputs = s.inputs := rfl
@[simp] theorem State.setTme_booted (s : State) (n : Nat) (e : Tme) : (s.setTme n e).booted = s.booted := rfl

/-! ## `setCopyEng` -/

@[simp] theorem State.setCopyEng_mem (s : State) (n : Nat) (e : CopyEngine) : (s.setCopyEng n e).mem = s.mem := rfl
@[simp] theorem State.setCopyEng_lost (s : State) (n : Nat) (e : CopyEngine) : (s.setCopyEng n e).lost = s.lost := rfl
@[simp] theorem State.setCopyEng_fe (s : State) (n : Nat) (e : CopyEngine) : (s.setCopyEng n e).fe = s.fe := rfl
@[simp] theorem State.setCopyEng_slots (s : State) (n : Nat) (e : CopyEngine) : (s.setCopyEng n e).slots = s.slots := rfl
@[simp] theorem State.setCopyEng_cores (s : State) (n : Nat) (e : CopyEngine) : (s.setCopyEng n e).cores = s.cores := rfl
@[simp] theorem State.setCopyEng_tiles (s : State) (n : Nat) (e : CopyEngine) : (s.setCopyEng n e).tiles = s.tiles := rfl
@[simp] theorem State.setCopyEng_pools (s : State) (n : Nat) (e : CopyEngine) : (s.setCopyEng n e).pools = s.pools := rfl
@[simp] theorem State.setCopyEng_sfus (s : State) (n : Nat) (e : CopyEngine) : (s.setCopyEng n e).sfus = s.sfus := rfl
@[simp] theorem State.setCopyEng_tmes (s : State) (n : Nat) (e : CopyEngine) : (s.setCopyEng n e).tmes = s.tmes := rfl
@[simp] theorem State.setCopyEng_colls (s : State) (n : Nat) (e : CopyEngine) : (s.setCopyEng n e).colls = s.colls := rfl
@[simp] theorem State.setCopyEng_early (s : State) (n : Nat) (e : CopyEngine) : (s.setCopyEng n e).early = s.early := rfl
@[simp] theorem State.setCopyEng_clusters (s : State) (n : Nat) (e : CopyEngine) : (s.setCopyEng n e).clusters = s.clusters := rfl
@[simp] theorem State.setCopyEng_dies (s : State) (n : Nat) (e : CopyEngine) : (s.setCopyEng n e).dies = s.dies := rfl
@[simp] theorem State.setCopyEng_launches (s : State) (n : Nat) (e : CopyEngine) : (s.setCopyEng n e).launches = s.launches := rfl
@[simp] theorem State.setCopyEng_slices (s : State) (n : Nat) (e : CopyEngine) : (s.setCopyEng n e).slices = s.slices := rfl
@[simp] theorem State.setCopyEng_away (s : State) (n : Nat) (e : CopyEngine) : (s.setCopyEng n e).away = s.away := rfl
@[simp] theorem State.setCopyEng_owed (s : State) (n : Nat) (e : CopyEngine) : (s.setCopyEng n e).owed = s.owed := rfl
@[simp] theorem State.setCopyEng_live (s : State) (n : Nat) (e : CopyEngine) : (s.setCopyEng n e).live = s.live := rfl
@[simp] theorem State.setCopyEng_lineKey (s : State) (n : Nat) (e : CopyEngine) : (s.setCopyEng n e).lineKey = s.lineKey := rfl
@[simp] theorem State.setCopyEng_keys (s : State) (n : Nat) (e : CopyEngine) : (s.setCopyEng n e).keys = s.keys := rfl
@[simp] theorem State.setCopyEng_windows (s : State) (n : Nat) (e : CopyEngine) : (s.setCopyEng n e).windows = s.windows := rfl
@[simp] theorem State.setCopyEng_clen (s : State) (n : Nat) (e : CopyEngine) : (s.setCopyEng n e).clen = s.clen := rfl
@[simp] theorem State.setCopyEng_slcen (s : State) (n : Nat) (e : CopyEngine) : (s.setCopyEng n e).slcen = s.slcen := rfl
@[simp] theorem State.setCopyEng_chen (s : State) (n : Nat) (e : CopyEngine) : (s.setCopyEng n e).chen = s.chen := rfl
@[simp] theorem State.setCopyEng_bxlane (s : State) (n : Nat) (e : CopyEngine) : (s.setCopyEng n e).bxlane = s.bxlane := rfl
@[simp] theorem State.setCopyEng_module (s : State) (n : Nat) (e : CopyEngine) : (s.setCopyEng n e).module = s.module := rfl
@[simp] theorem State.setCopyEng_tb (s : State) (n : Nat) (e : CopyEngine) : (s.setCopyEng n e).tb = s.tb := rfl
@[simp] theorem State.setCopyEng_cc (s : State) (n : Nat) (e : CopyEngine) : (s.setCopyEng n e).cc = s.cc := rfl
@[simp] theorem State.setCopyEng_net (s : State) (n : Nat) (e : CopyEngine) : (s.setCopyEng n e).net = s.net := rfl
@[simp] theorem State.setCopyEng_sprue (s : State) (n : Nat) (e : CopyEngine) : (s.setCopyEng n e).sprue = s.sprue := rfl
@[simp] theorem State.setCopyEng_enghalt (s : State) (n : Nat) (e : CopyEngine) : (s.setCopyEng n e).enghalt = s.enghalt := rfl
@[simp] theorem State.setCopyEng_tear (s : State) (n : Nat) (e : CopyEngine) : (s.setCopyEng n e).tear = s.tear := rfl
@[simp] theorem State.setCopyEng_torn (s : State) (n : Nat) (e : CopyEngine) : (s.setCopyEng n e).torn = s.torn := rfl
@[simp] theorem State.setCopyEng_tbLock (s : State) (n : Nat) (e : CopyEngine) : (s.setCopyEng n e).tbLock = s.tbLock := rfl
@[simp] theorem State.setCopyEng_tbMaster (s : State) (n : Nat) (e : CopyEngine) : (s.setCopyEng n e).tbMaster = s.tbMaster := rfl
@[simp] theorem State.setCopyEng_engStop (s : State) (n : Nat) (e : CopyEngine) : (s.setCopyEng n e).engStop = s.engStop := rfl
@[simp] theorem State.setCopyEng_encTab (s : State) (n : Nat) (e : CopyEngine) : (s.setCopyEng n e).encTab = s.encTab := rfl
@[simp] theorem State.setCopyEng_encs (s : State) (n : Nat) (e : CopyEngine) : (s.setCopyEng n e).encs = s.encs := rfl
@[simp] theorem State.setCopyEng_qm (s : State) (n : Nat) (e : CopyEngine) : (s.setCopyEng n e).qm = s.qm := rfl
@[simp] theorem State.setCopyEng_hib (s : State) (n : Nat) (e : CopyEngine) : (s.setCopyEng n e).hib = s.hib := rfl
@[simp] theorem State.setCopyEng_mgmt (s : State) (n : Nat) (e : CopyEngine) : (s.setCopyEng n e).mgmt = s.mgmt := rfl
@[simp] theorem State.setCopyEng_cur (s : State) (n : Nat) (e : CopyEngine) : (s.setCopyEng n e).cur = s.cur := rfl
@[simp] theorem State.setCopyEng_sel (s : State) (n : Nat) (e : CopyEngine) : (s.setCopyEng n e).sel = s.sel := rfl
@[simp] theorem State.setCopyEng_free (s : State) (n : Nat) (e : CopyEngine) : (s.setCopyEng n e).free = s.free := rfl
@[simp] theorem State.setCopyEng_age (s : State) (n : Nat) (e : CopyEngine) : (s.setCopyEng n e).age = s.age := rfl
@[simp] theorem State.setCopyEng_inputs (s : State) (n : Nat) (e : CopyEngine) : (s.setCopyEng n e).inputs = s.inputs := rfl
@[simp] theorem State.setCopyEng_booted (s : State) (n : Nat) (e : CopyEngine) : (s.setCopyEng n e).booted = s.booted := rfl

/-! ## `setLaunch` -/

@[simp] theorem State.setLaunch_mem (s : State) (u : Nat) (l : Launch) : (s.setLaunch u l).mem = s.mem := rfl
@[simp] theorem State.setLaunch_lost (s : State) (u : Nat) (l : Launch) : (s.setLaunch u l).lost = s.lost := rfl
@[simp] theorem State.setLaunch_fe (s : State) (u : Nat) (l : Launch) : (s.setLaunch u l).fe = s.fe := rfl
@[simp] theorem State.setLaunch_slots (s : State) (u : Nat) (l : Launch) : (s.setLaunch u l).slots = s.slots := rfl
@[simp] theorem State.setLaunch_cores (s : State) (u : Nat) (l : Launch) : (s.setLaunch u l).cores = s.cores := rfl
@[simp] theorem State.setLaunch_tiles (s : State) (u : Nat) (l : Launch) : (s.setLaunch u l).tiles = s.tiles := rfl
@[simp] theorem State.setLaunch_pools (s : State) (u : Nat) (l : Launch) : (s.setLaunch u l).pools = s.pools := rfl
@[simp] theorem State.setLaunch_sfus (s : State) (u : Nat) (l : Launch) : (s.setLaunch u l).sfus = s.sfus := rfl
@[simp] theorem State.setLaunch_tmes (s : State) (u : Nat) (l : Launch) : (s.setLaunch u l).tmes = s.tmes := rfl
@[simp] theorem State.setLaunch_copies (s : State) (u : Nat) (l : Launch) : (s.setLaunch u l).copies = s.copies := rfl
@[simp] theorem State.setLaunch_colls (s : State) (u : Nat) (l : Launch) : (s.setLaunch u l).colls = s.colls := rfl
@[simp] theorem State.setLaunch_early (s : State) (u : Nat) (l : Launch) : (s.setLaunch u l).early = s.early := rfl
@[simp] theorem State.setLaunch_clusters (s : State) (u : Nat) (l : Launch) : (s.setLaunch u l).clusters = s.clusters := rfl
@[simp] theorem State.setLaunch_dies (s : State) (u : Nat) (l : Launch) : (s.setLaunch u l).dies = s.dies := rfl
@[simp] theorem State.setLaunch_slices (s : State) (u : Nat) (l : Launch) : (s.setLaunch u l).slices = s.slices := rfl
@[simp] theorem State.setLaunch_away (s : State) (u : Nat) (l : Launch) : (s.setLaunch u l).away = s.away := rfl
@[simp] theorem State.setLaunch_owed (s : State) (u : Nat) (l : Launch) : (s.setLaunch u l).owed = s.owed := rfl
@[simp] theorem State.setLaunch_live (s : State) (u : Nat) (l : Launch) : (s.setLaunch u l).live = s.live := rfl
@[simp] theorem State.setLaunch_lineKey (s : State) (u : Nat) (l : Launch) : (s.setLaunch u l).lineKey = s.lineKey := rfl
@[simp] theorem State.setLaunch_keys (s : State) (u : Nat) (l : Launch) : (s.setLaunch u l).keys = s.keys := rfl
@[simp] theorem State.setLaunch_windows (s : State) (u : Nat) (l : Launch) : (s.setLaunch u l).windows = s.windows := rfl
@[simp] theorem State.setLaunch_clen (s : State) (u : Nat) (l : Launch) : (s.setLaunch u l).clen = s.clen := rfl
@[simp] theorem State.setLaunch_slcen (s : State) (u : Nat) (l : Launch) : (s.setLaunch u l).slcen = s.slcen := rfl
@[simp] theorem State.setLaunch_chen (s : State) (u : Nat) (l : Launch) : (s.setLaunch u l).chen = s.chen := rfl
@[simp] theorem State.setLaunch_bxlane (s : State) (u : Nat) (l : Launch) : (s.setLaunch u l).bxlane = s.bxlane := rfl
@[simp] theorem State.setLaunch_module (s : State) (u : Nat) (l : Launch) : (s.setLaunch u l).module = s.module := rfl
@[simp] theorem State.setLaunch_tb (s : State) (u : Nat) (l : Launch) : (s.setLaunch u l).tb = s.tb := rfl
@[simp] theorem State.setLaunch_cc (s : State) (u : Nat) (l : Launch) : (s.setLaunch u l).cc = s.cc := rfl
@[simp] theorem State.setLaunch_net (s : State) (u : Nat) (l : Launch) : (s.setLaunch u l).net = s.net := rfl
@[simp] theorem State.setLaunch_sprue (s : State) (u : Nat) (l : Launch) : (s.setLaunch u l).sprue = s.sprue := rfl
@[simp] theorem State.setLaunch_enghalt (s : State) (u : Nat) (l : Launch) : (s.setLaunch u l).enghalt = s.enghalt := rfl
@[simp] theorem State.setLaunch_tear (s : State) (u : Nat) (l : Launch) : (s.setLaunch u l).tear = s.tear := rfl
@[simp] theorem State.setLaunch_torn (s : State) (u : Nat) (l : Launch) : (s.setLaunch u l).torn = s.torn := rfl
@[simp] theorem State.setLaunch_tbLock (s : State) (u : Nat) (l : Launch) : (s.setLaunch u l).tbLock = s.tbLock := rfl
@[simp] theorem State.setLaunch_tbMaster (s : State) (u : Nat) (l : Launch) : (s.setLaunch u l).tbMaster = s.tbMaster := rfl
@[simp] theorem State.setLaunch_engStop (s : State) (u : Nat) (l : Launch) : (s.setLaunch u l).engStop = s.engStop := rfl
@[simp] theorem State.setLaunch_encTab (s : State) (u : Nat) (l : Launch) : (s.setLaunch u l).encTab = s.encTab := rfl
@[simp] theorem State.setLaunch_encs (s : State) (u : Nat) (l : Launch) : (s.setLaunch u l).encs = s.encs := rfl
@[simp] theorem State.setLaunch_qm (s : State) (u : Nat) (l : Launch) : (s.setLaunch u l).qm = s.qm := rfl
@[simp] theorem State.setLaunch_hib (s : State) (u : Nat) (l : Launch) : (s.setLaunch u l).hib = s.hib := rfl
@[simp] theorem State.setLaunch_mgmt (s : State) (u : Nat) (l : Launch) : (s.setLaunch u l).mgmt = s.mgmt := rfl
@[simp] theorem State.setLaunch_cur (s : State) (u : Nat) (l : Launch) : (s.setLaunch u l).cur = s.cur := rfl
@[simp] theorem State.setLaunch_sel (s : State) (u : Nat) (l : Launch) : (s.setLaunch u l).sel = s.sel := rfl
@[simp] theorem State.setLaunch_free (s : State) (u : Nat) (l : Launch) : (s.setLaunch u l).free = s.free := rfl
@[simp] theorem State.setLaunch_age (s : State) (u : Nat) (l : Launch) : (s.setLaunch u l).age = s.age := rfl
@[simp] theorem State.setLaunch_inputs (s : State) (u : Nat) (l : Launch) : (s.setLaunch u l).inputs = s.inputs := rfl
@[simp] theorem State.setLaunch_booted (s : State) (u : Nat) (l : Launch) : (s.setLaunch u l).booted = s.booted := rfl

/-! ## `noteWrite` -/

@[simp] theorem State.noteWrite_mem (s : State) (k n : Nat) : (s.noteWrite k n).mem = s.mem := rfl
@[simp] theorem State.noteWrite_lost (s : State) (k n : Nat) : (s.noteWrite k n).lost = s.lost := rfl
@[simp] theorem State.noteWrite_fe (s : State) (k n : Nat) : (s.noteWrite k n).fe = s.fe := rfl
@[simp] theorem State.noteWrite_cores (s : State) (k n : Nat) : (s.noteWrite k n).cores = s.cores := rfl
@[simp] theorem State.noteWrite_tiles (s : State) (k n : Nat) : (s.noteWrite k n).tiles = s.tiles := rfl
@[simp] theorem State.noteWrite_pools (s : State) (k n : Nat) : (s.noteWrite k n).pools = s.pools := rfl
@[simp] theorem State.noteWrite_sfus (s : State) (k n : Nat) : (s.noteWrite k n).sfus = s.sfus := rfl
@[simp] theorem State.noteWrite_tmes (s : State) (k n : Nat) : (s.noteWrite k n).tmes = s.tmes := rfl
@[simp] theorem State.noteWrite_copies (s : State) (k n : Nat) : (s.noteWrite k n).copies = s.copies := rfl
@[simp] theorem State.noteWrite_colls (s : State) (k n : Nat) : (s.noteWrite k n).colls = s.colls := rfl
@[simp] theorem State.noteWrite_early (s : State) (k n : Nat) : (s.noteWrite k n).early = s.early := rfl
@[simp] theorem State.noteWrite_clusters (s : State) (k n : Nat) : (s.noteWrite k n).clusters = s.clusters := rfl
@[simp] theorem State.noteWrite_dies (s : State) (k n : Nat) : (s.noteWrite k n).dies = s.dies := rfl
@[simp] theorem State.noteWrite_launches (s : State) (k n : Nat) : (s.noteWrite k n).launches = s.launches := rfl
@[simp] theorem State.noteWrite_slices (s : State) (k n : Nat) : (s.noteWrite k n).slices = s.slices := rfl
@[simp] theorem State.noteWrite_away (s : State) (k n : Nat) : (s.noteWrite k n).away = s.away := rfl
@[simp] theorem State.noteWrite_owed (s : State) (k n : Nat) : (s.noteWrite k n).owed = s.owed := rfl
@[simp] theorem State.noteWrite_live (s : State) (k n : Nat) : (s.noteWrite k n).live = s.live := rfl
@[simp] theorem State.noteWrite_lineKey (s : State) (k n : Nat) : (s.noteWrite k n).lineKey = s.lineKey := rfl
@[simp] theorem State.noteWrite_keys (s : State) (k n : Nat) : (s.noteWrite k n).keys = s.keys := rfl
@[simp] theorem State.noteWrite_windows (s : State) (k n : Nat) : (s.noteWrite k n).windows = s.windows := rfl
@[simp] theorem State.noteWrite_clen (s : State) (k n : Nat) : (s.noteWrite k n).clen = s.clen := rfl
@[simp] theorem State.noteWrite_slcen (s : State) (k n : Nat) : (s.noteWrite k n).slcen = s.slcen := rfl
@[simp] theorem State.noteWrite_chen (s : State) (k n : Nat) : (s.noteWrite k n).chen = s.chen := rfl
@[simp] theorem State.noteWrite_bxlane (s : State) (k n : Nat) : (s.noteWrite k n).bxlane = s.bxlane := rfl
@[simp] theorem State.noteWrite_module (s : State) (k n : Nat) : (s.noteWrite k n).module = s.module := rfl
@[simp] theorem State.noteWrite_tb (s : State) (k n : Nat) : (s.noteWrite k n).tb = s.tb := rfl
@[simp] theorem State.noteWrite_cc (s : State) (k n : Nat) : (s.noteWrite k n).cc = s.cc := rfl
@[simp] theorem State.noteWrite_net (s : State) (k n : Nat) : (s.noteWrite k n).net = s.net := rfl
@[simp] theorem State.noteWrite_sprue (s : State) (k n : Nat) : (s.noteWrite k n).sprue = s.sprue := rfl
@[simp] theorem State.noteWrite_enghalt (s : State) (k n : Nat) : (s.noteWrite k n).enghalt = s.enghalt := rfl
@[simp] theorem State.noteWrite_tear (s : State) (k n : Nat) : (s.noteWrite k n).tear = s.tear := rfl
@[simp] theorem State.noteWrite_torn (s : State) (k n : Nat) : (s.noteWrite k n).torn = s.torn := rfl
@[simp] theorem State.noteWrite_tbLock (s : State) (k n : Nat) : (s.noteWrite k n).tbLock = s.tbLock := rfl
@[simp] theorem State.noteWrite_tbMaster (s : State) (k n : Nat) : (s.noteWrite k n).tbMaster = s.tbMaster := rfl
@[simp] theorem State.noteWrite_engStop (s : State) (k n : Nat) : (s.noteWrite k n).engStop = s.engStop := rfl
@[simp] theorem State.noteWrite_encTab (s : State) (k n : Nat) : (s.noteWrite k n).encTab = s.encTab := rfl
@[simp] theorem State.noteWrite_encs (s : State) (k n : Nat) : (s.noteWrite k n).encs = s.encs := rfl
@[simp] theorem State.noteWrite_qm (s : State) (k n : Nat) : (s.noteWrite k n).qm = s.qm := rfl
@[simp] theorem State.noteWrite_hib (s : State) (k n : Nat) : (s.noteWrite k n).hib = s.hib := rfl
@[simp] theorem State.noteWrite_mgmt (s : State) (k n : Nat) : (s.noteWrite k n).mgmt = s.mgmt := rfl
@[simp] theorem State.noteWrite_cur (s : State) (k n : Nat) : (s.noteWrite k n).cur = s.cur := rfl
@[simp] theorem State.noteWrite_sel (s : State) (k n : Nat) : (s.noteWrite k n).sel = s.sel := rfl
@[simp] theorem State.noteWrite_free (s : State) (k n : Nat) : (s.noteWrite k n).free = s.free := rfl
@[simp] theorem State.noteWrite_age (s : State) (k n : Nat) : (s.noteWrite k n).age = s.age := rfl
@[simp] theorem State.noteWrite_inputs (s : State) (k n : Nat) : (s.noteWrite k n).inputs = s.inputs := rfl
@[simp] theorem State.noteWrite_booted (s : State) (k n : Nat) : (s.noteWrite k n).booted = s.booted := rfl

/-! ## `write` -/

@[simp] theorem State.write_fe (s : State) (k : Nat) (bs : List Byte) : (s.write k bs).fe = s.fe := rfl
@[simp] theorem State.write_cores (s : State) (k : Nat) (bs : List Byte) : (s.write k bs).cores = s.cores := rfl
@[simp] theorem State.write_tiles (s : State) (k : Nat) (bs : List Byte) : (s.write k bs).tiles = s.tiles := rfl
@[simp] theorem State.write_pools (s : State) (k : Nat) (bs : List Byte) : (s.write k bs).pools = s.pools := rfl
@[simp] theorem State.write_sfus (s : State) (k : Nat) (bs : List Byte) : (s.write k bs).sfus = s.sfus := rfl
@[simp] theorem State.write_tmes (s : State) (k : Nat) (bs : List Byte) : (s.write k bs).tmes = s.tmes := rfl
@[simp] theorem State.write_copies (s : State) (k : Nat) (bs : List Byte) : (s.write k bs).copies = s.copies := rfl
@[simp] theorem State.write_colls (s : State) (k : Nat) (bs : List Byte) : (s.write k bs).colls = s.colls := rfl
@[simp] theorem State.write_early (s : State) (k : Nat) (bs : List Byte) : (s.write k bs).early = s.early := rfl
@[simp] theorem State.write_clusters (s : State) (k : Nat) (bs : List Byte) : (s.write k bs).clusters = s.clusters := rfl
@[simp] theorem State.write_dies (s : State) (k : Nat) (bs : List Byte) : (s.write k bs).dies = s.dies := rfl
@[simp] theorem State.write_launches (s : State) (k : Nat) (bs : List Byte) : (s.write k bs).launches = s.launches := rfl
@[simp] theorem State.write_slices (s : State) (k : Nat) (bs : List Byte) : (s.write k bs).slices = s.slices := rfl
@[simp] theorem State.write_away (s : State) (k : Nat) (bs : List Byte) : (s.write k bs).away = s.away := rfl
@[simp] theorem State.write_owed (s : State) (k : Nat) (bs : List Byte) : (s.write k bs).owed = s.owed := rfl
@[simp] theorem State.write_live (s : State) (k : Nat) (bs : List Byte) : (s.write k bs).live = s.live := rfl
@[simp] theorem State.write_lineKey (s : State) (k : Nat) (bs : List Byte) : (s.write k bs).lineKey = s.lineKey := rfl
@[simp] theorem State.write_keys (s : State) (k : Nat) (bs : List Byte) : (s.write k bs).keys = s.keys := rfl
@[simp] theorem State.write_windows (s : State) (k : Nat) (bs : List Byte) : (s.write k bs).windows = s.windows := rfl
@[simp] theorem State.write_clen (s : State) (k : Nat) (bs : List Byte) : (s.write k bs).clen = s.clen := rfl
@[simp] theorem State.write_slcen (s : State) (k : Nat) (bs : List Byte) : (s.write k bs).slcen = s.slcen := rfl
@[simp] theorem State.write_chen (s : State) (k : Nat) (bs : List Byte) : (s.write k bs).chen = s.chen := rfl
@[simp] theorem State.write_bxlane (s : State) (k : Nat) (bs : List Byte) : (s.write k bs).bxlane = s.bxlane := rfl
@[simp] theorem State.write_module (s : State) (k : Nat) (bs : List Byte) : (s.write k bs).module = s.module := rfl
@[simp] theorem State.write_tb (s : State) (k : Nat) (bs : List Byte) : (s.write k bs).tb = s.tb := rfl
@[simp] theorem State.write_cc (s : State) (k : Nat) (bs : List Byte) : (s.write k bs).cc = s.cc := rfl
@[simp] theorem State.write_net (s : State) (k : Nat) (bs : List Byte) : (s.write k bs).net = s.net := rfl
@[simp] theorem State.write_sprue (s : State) (k : Nat) (bs : List Byte) : (s.write k bs).sprue = s.sprue := rfl
@[simp] theorem State.write_enghalt (s : State) (k : Nat) (bs : List Byte) : (s.write k bs).enghalt = s.enghalt := rfl
@[simp] theorem State.write_tear (s : State) (k : Nat) (bs : List Byte) : (s.write k bs).tear = s.tear := rfl
@[simp] theorem State.write_torn (s : State) (k : Nat) (bs : List Byte) : (s.write k bs).torn = s.torn := rfl
@[simp] theorem State.write_tbLock (s : State) (k : Nat) (bs : List Byte) : (s.write k bs).tbLock = s.tbLock := rfl
@[simp] theorem State.write_tbMaster (s : State) (k : Nat) (bs : List Byte) : (s.write k bs).tbMaster = s.tbMaster := rfl
@[simp] theorem State.write_engStop (s : State) (k : Nat) (bs : List Byte) : (s.write k bs).engStop = s.engStop := rfl
@[simp] theorem State.write_encTab (s : State) (k : Nat) (bs : List Byte) : (s.write k bs).encTab = s.encTab := rfl
@[simp] theorem State.write_encs (s : State) (k : Nat) (bs : List Byte) : (s.write k bs).encs = s.encs := rfl
@[simp] theorem State.write_qm (s : State) (k : Nat) (bs : List Byte) : (s.write k bs).qm = s.qm := rfl
@[simp] theorem State.write_hib (s : State) (k : Nat) (bs : List Byte) : (s.write k bs).hib = s.hib := rfl
@[simp] theorem State.write_mgmt (s : State) (k : Nat) (bs : List Byte) : (s.write k bs).mgmt = s.mgmt := rfl
@[simp] theorem State.write_cur (s : State) (k : Nat) (bs : List Byte) : (s.write k bs).cur = s.cur := rfl
@[simp] theorem State.write_sel (s : State) (k : Nat) (bs : List Byte) : (s.write k bs).sel = s.sel := rfl
@[simp] theorem State.write_free (s : State) (k : Nat) (bs : List Byte) : (s.write k bs).free = s.free := rfl
@[simp] theorem State.write_age (s : State) (k : Nat) (bs : List Byte) : (s.write k bs).age = s.age := rfl
@[simp] theorem State.write_inputs (s : State) (k : Nat) (bs : List Byte) : (s.write k bs).inputs = s.inputs := rfl
@[simp] theorem State.write_booted (s : State) (k : Nat) (bs : List Byte) : (s.write k bs).booted = s.booted := rfl

/-! ## `setFe` -/

@[simp] theorem State.setFe_mem (s : State) (k : Nat) (b : FeBits) : (s.setFe k b).mem = s.mem := rfl
@[simp] theorem State.setFe_lost (s : State) (k : Nat) (b : FeBits) : (s.setFe k b).lost = s.lost := rfl
@[simp] theorem State.setFe_slots (s : State) (k : Nat) (b : FeBits) : (s.setFe k b).slots = s.slots := rfl
@[simp] theorem State.setFe_cores (s : State) (k : Nat) (b : FeBits) : (s.setFe k b).cores = s.cores := rfl
@[simp] theorem State.setFe_tiles (s : State) (k : Nat) (b : FeBits) : (s.setFe k b).tiles = s.tiles := rfl
@[simp] theorem State.setFe_pools (s : State) (k : Nat) (b : FeBits) : (s.setFe k b).pools = s.pools := rfl
@[simp] theorem State.setFe_sfus (s : State) (k : Nat) (b : FeBits) : (s.setFe k b).sfus = s.sfus := rfl
@[simp] theorem State.setFe_tmes (s : State) (k : Nat) (b : FeBits) : (s.setFe k b).tmes = s.tmes := rfl
@[simp] theorem State.setFe_copies (s : State) (k : Nat) (b : FeBits) : (s.setFe k b).copies = s.copies := rfl
@[simp] theorem State.setFe_colls (s : State) (k : Nat) (b : FeBits) : (s.setFe k b).colls = s.colls := rfl
@[simp] theorem State.setFe_early (s : State) (k : Nat) (b : FeBits) : (s.setFe k b).early = s.early := rfl
@[simp] theorem State.setFe_clusters (s : State) (k : Nat) (b : FeBits) : (s.setFe k b).clusters = s.clusters := rfl
@[simp] theorem State.setFe_dies (s : State) (k : Nat) (b : FeBits) : (s.setFe k b).dies = s.dies := rfl
@[simp] theorem State.setFe_launches (s : State) (k : Nat) (b : FeBits) : (s.setFe k b).launches = s.launches := rfl
@[simp] theorem State.setFe_slices (s : State) (k : Nat) (b : FeBits) : (s.setFe k b).slices = s.slices := rfl
@[simp] theorem State.setFe_away (s : State) (k : Nat) (b : FeBits) : (s.setFe k b).away = s.away := rfl
@[simp] theorem State.setFe_owed (s : State) (k : Nat) (b : FeBits) : (s.setFe k b).owed = s.owed := rfl
@[simp] theorem State.setFe_live (s : State) (k : Nat) (b : FeBits) : (s.setFe k b).live = s.live := rfl
@[simp] theorem State.setFe_lineKey (s : State) (k : Nat) (b : FeBits) : (s.setFe k b).lineKey = s.lineKey := rfl
@[simp] theorem State.setFe_keys (s : State) (k : Nat) (b : FeBits) : (s.setFe k b).keys = s.keys := rfl
@[simp] theorem State.setFe_windows (s : State) (k : Nat) (b : FeBits) : (s.setFe k b).windows = s.windows := rfl
@[simp] theorem State.setFe_clen (s : State) (k : Nat) (b : FeBits) : (s.setFe k b).clen = s.clen := rfl
@[simp] theorem State.setFe_slcen (s : State) (k : Nat) (b : FeBits) : (s.setFe k b).slcen = s.slcen := rfl
@[simp] theorem State.setFe_chen (s : State) (k : Nat) (b : FeBits) : (s.setFe k b).chen = s.chen := rfl
@[simp] theorem State.setFe_bxlane (s : State) (k : Nat) (b : FeBits) : (s.setFe k b).bxlane = s.bxlane := rfl
@[simp] theorem State.setFe_module (s : State) (k : Nat) (b : FeBits) : (s.setFe k b).module = s.module := rfl
@[simp] theorem State.setFe_tb (s : State) (k : Nat) (b : FeBits) : (s.setFe k b).tb = s.tb := rfl
@[simp] theorem State.setFe_cc (s : State) (k : Nat) (b : FeBits) : (s.setFe k b).cc = s.cc := rfl
@[simp] theorem State.setFe_net (s : State) (k : Nat) (b : FeBits) : (s.setFe k b).net = s.net := rfl
@[simp] theorem State.setFe_sprue (s : State) (k : Nat) (b : FeBits) : (s.setFe k b).sprue = s.sprue := rfl
@[simp] theorem State.setFe_enghalt (s : State) (k : Nat) (b : FeBits) : (s.setFe k b).enghalt = s.enghalt := rfl
@[simp] theorem State.setFe_tear (s : State) (k : Nat) (b : FeBits) : (s.setFe k b).tear = s.tear := rfl
@[simp] theorem State.setFe_torn (s : State) (k : Nat) (b : FeBits) : (s.setFe k b).torn = s.torn := rfl
@[simp] theorem State.setFe_tbLock (s : State) (k : Nat) (b : FeBits) : (s.setFe k b).tbLock = s.tbLock := rfl
@[simp] theorem State.setFe_tbMaster (s : State) (k : Nat) (b : FeBits) : (s.setFe k b).tbMaster = s.tbMaster := rfl
@[simp] theorem State.setFe_engStop (s : State) (k : Nat) (b : FeBits) : (s.setFe k b).engStop = s.engStop := rfl
@[simp] theorem State.setFe_encTab (s : State) (k : Nat) (b : FeBits) : (s.setFe k b).encTab = s.encTab := rfl
@[simp] theorem State.setFe_encs (s : State) (k : Nat) (b : FeBits) : (s.setFe k b).encs = s.encs := rfl
@[simp] theorem State.setFe_qm (s : State) (k : Nat) (b : FeBits) : (s.setFe k b).qm = s.qm := rfl
@[simp] theorem State.setFe_hib (s : State) (k : Nat) (b : FeBits) : (s.setFe k b).hib = s.hib := rfl
@[simp] theorem State.setFe_mgmt (s : State) (k : Nat) (b : FeBits) : (s.setFe k b).mgmt = s.mgmt := rfl
@[simp] theorem State.setFe_cur (s : State) (k : Nat) (b : FeBits) : (s.setFe k b).cur = s.cur := rfl
@[simp] theorem State.setFe_sel (s : State) (k : Nat) (b : FeBits) : (s.setFe k b).sel = s.sel := rfl
@[simp] theorem State.setFe_free (s : State) (k : Nat) (b : FeBits) : (s.setFe k b).free = s.free := rfl
@[simp] theorem State.setFe_age (s : State) (k : Nat) (b : FeBits) : (s.setFe k b).age = s.age := rfl
@[simp] theorem State.setFe_inputs (s : State) (k : Nat) (b : FeBits) : (s.setFe k b).inputs = s.inputs := rfl
@[simp] theorem State.setFe_booted (s : State) (k : Nat) (b : FeBits) : (s.setFe k b).booted = s.booted := rfl

/-! ## `draw` -/

@[simp] theorem State.draw_mem (s : State) : (s.draw).mem = s.mem := rfl
@[simp] theorem State.draw_lost (s : State) : (s.draw).lost = s.lost := rfl
@[simp] theorem State.draw_fe (s : State) : (s.draw).fe = s.fe := rfl
@[simp] theorem State.draw_slots (s : State) : (s.draw).slots = s.slots := rfl
@[simp] theorem State.draw_cores (s : State) : (s.draw).cores = s.cores := rfl
@[simp] theorem State.draw_tiles (s : State) : (s.draw).tiles = s.tiles := rfl
@[simp] theorem State.draw_pools (s : State) : (s.draw).pools = s.pools := rfl
@[simp] theorem State.draw_sfus (s : State) : (s.draw).sfus = s.sfus := rfl
@[simp] theorem State.draw_tmes (s : State) : (s.draw).tmes = s.tmes := rfl
@[simp] theorem State.draw_copies (s : State) : (s.draw).copies = s.copies := rfl
@[simp] theorem State.draw_colls (s : State) : (s.draw).colls = s.colls := rfl
@[simp] theorem State.draw_early (s : State) : (s.draw).early = s.early := rfl
@[simp] theorem State.draw_clusters (s : State) : (s.draw).clusters = s.clusters := rfl
@[simp] theorem State.draw_dies (s : State) : (s.draw).dies = s.dies := rfl
@[simp] theorem State.draw_launches (s : State) : (s.draw).launches = s.launches := rfl
@[simp] theorem State.draw_slices (s : State) : (s.draw).slices = s.slices := rfl
@[simp] theorem State.draw_away (s : State) : (s.draw).away = s.away := rfl
@[simp] theorem State.draw_owed (s : State) : (s.draw).owed = s.owed := rfl
@[simp] theorem State.draw_live (s : State) : (s.draw).live = s.live := rfl
@[simp] theorem State.draw_lineKey (s : State) : (s.draw).lineKey = s.lineKey := rfl
@[simp] theorem State.draw_keys (s : State) : (s.draw).keys = s.keys := rfl
@[simp] theorem State.draw_windows (s : State) : (s.draw).windows = s.windows := rfl
@[simp] theorem State.draw_clen (s : State) : (s.draw).clen = s.clen := rfl
@[simp] theorem State.draw_slcen (s : State) : (s.draw).slcen = s.slcen := rfl
@[simp] theorem State.draw_chen (s : State) : (s.draw).chen = s.chen := rfl
@[simp] theorem State.draw_bxlane (s : State) : (s.draw).bxlane = s.bxlane := rfl
@[simp] theorem State.draw_module (s : State) : (s.draw).module = s.module := rfl
@[simp] theorem State.draw_tb (s : State) : (s.draw).tb = s.tb := rfl
@[simp] theorem State.draw_cc (s : State) : (s.draw).cc = s.cc := rfl
@[simp] theorem State.draw_net (s : State) : (s.draw).net = s.net := rfl
@[simp] theorem State.draw_sprue (s : State) : (s.draw).sprue = s.sprue := rfl
@[simp] theorem State.draw_enghalt (s : State) : (s.draw).enghalt = s.enghalt := rfl
@[simp] theorem State.draw_tear (s : State) : (s.draw).tear = s.tear := rfl
@[simp] theorem State.draw_torn (s : State) : (s.draw).torn = s.torn := rfl
@[simp] theorem State.draw_tbLock (s : State) : (s.draw).tbLock = s.tbLock := rfl
@[simp] theorem State.draw_tbMaster (s : State) : (s.draw).tbMaster = s.tbMaster := rfl
@[simp] theorem State.draw_engStop (s : State) : (s.draw).engStop = s.engStop := rfl
@[simp] theorem State.draw_encTab (s : State) : (s.draw).encTab = s.encTab := rfl
@[simp] theorem State.draw_encs (s : State) : (s.draw).encs = s.encs := rfl
@[simp] theorem State.draw_qm (s : State) : (s.draw).qm = s.qm := rfl
@[simp] theorem State.draw_hib (s : State) : (s.draw).hib = s.hib := rfl
@[simp] theorem State.draw_mgmt (s : State) : (s.draw).mgmt = s.mgmt := rfl
@[simp] theorem State.draw_cur (s : State) : (s.draw).cur = s.cur := rfl
@[simp] theorem State.draw_sel (s : State) : (s.draw).sel = s.sel := rfl
@[simp] theorem State.draw_age (s : State) : (s.draw).age = s.age := rfl
@[simp] theorem State.draw_inputs (s : State) : (s.draw).inputs = s.inputs := rfl
@[simp] theorem State.draw_booted (s : State) : (s.draw).booted = s.booted := rfl

/-! ## `older` -/

@[simp] theorem State.older_mem (s : State) : (s.older).mem = s.mem := rfl
@[simp] theorem State.older_lost (s : State) : (s.older).lost = s.lost := rfl
@[simp] theorem State.older_fe (s : State) : (s.older).fe = s.fe := rfl
@[simp] theorem State.older_slots (s : State) : (s.older).slots = s.slots := rfl
@[simp] theorem State.older_cores (s : State) : (s.older).cores = s.cores := rfl
@[simp] theorem State.older_tiles (s : State) : (s.older).tiles = s.tiles := rfl
@[simp] theorem State.older_pools (s : State) : (s.older).pools = s.pools := rfl
@[simp] theorem State.older_sfus (s : State) : (s.older).sfus = s.sfus := rfl
@[simp] theorem State.older_tmes (s : State) : (s.older).tmes = s.tmes := rfl
@[simp] theorem State.older_copies (s : State) : (s.older).copies = s.copies := rfl
@[simp] theorem State.older_colls (s : State) : (s.older).colls = s.colls := rfl
@[simp] theorem State.older_early (s : State) : (s.older).early = s.early := rfl
@[simp] theorem State.older_clusters (s : State) : (s.older).clusters = s.clusters := rfl
@[simp] theorem State.older_dies (s : State) : (s.older).dies = s.dies := rfl
@[simp] theorem State.older_launches (s : State) : (s.older).launches = s.launches := rfl
@[simp] theorem State.older_slices (s : State) : (s.older).slices = s.slices := rfl
@[simp] theorem State.older_away (s : State) : (s.older).away = s.away := rfl
@[simp] theorem State.older_owed (s : State) : (s.older).owed = s.owed := rfl
@[simp] theorem State.older_live (s : State) : (s.older).live = s.live := rfl
@[simp] theorem State.older_lineKey (s : State) : (s.older).lineKey = s.lineKey := rfl
@[simp] theorem State.older_keys (s : State) : (s.older).keys = s.keys := rfl
@[simp] theorem State.older_windows (s : State) : (s.older).windows = s.windows := rfl
@[simp] theorem State.older_clen (s : State) : (s.older).clen = s.clen := rfl
@[simp] theorem State.older_slcen (s : State) : (s.older).slcen = s.slcen := rfl
@[simp] theorem State.older_chen (s : State) : (s.older).chen = s.chen := rfl
@[simp] theorem State.older_bxlane (s : State) : (s.older).bxlane = s.bxlane := rfl
@[simp] theorem State.older_module (s : State) : (s.older).module = s.module := rfl
@[simp] theorem State.older_tb (s : State) : (s.older).tb = s.tb := rfl
@[simp] theorem State.older_cc (s : State) : (s.older).cc = s.cc := rfl
@[simp] theorem State.older_net (s : State) : (s.older).net = s.net := rfl
@[simp] theorem State.older_sprue (s : State) : (s.older).sprue = s.sprue := rfl
@[simp] theorem State.older_enghalt (s : State) : (s.older).enghalt = s.enghalt := rfl
@[simp] theorem State.older_tear (s : State) : (s.older).tear = s.tear := rfl
@[simp] theorem State.older_torn (s : State) : (s.older).torn = s.torn := rfl
@[simp] theorem State.older_tbLock (s : State) : (s.older).tbLock = s.tbLock := rfl
@[simp] theorem State.older_tbMaster (s : State) : (s.older).tbMaster = s.tbMaster := rfl
@[simp] theorem State.older_engStop (s : State) : (s.older).engStop = s.engStop := rfl
@[simp] theorem State.older_encTab (s : State) : (s.older).encTab = s.encTab := rfl
@[simp] theorem State.older_encs (s : State) : (s.older).encs = s.encs := rfl
@[simp] theorem State.older_qm (s : State) : (s.older).qm = s.qm := rfl
@[simp] theorem State.older_hib (s : State) : (s.older).hib = s.hib := rfl
@[simp] theorem State.older_mgmt (s : State) : (s.older).mgmt = s.mgmt := rfl
@[simp] theorem State.older_cur (s : State) : (s.older).cur = s.cur := rfl
@[simp] theorem State.older_sel (s : State) : (s.older).sel = s.sel := rfl
@[simp] theorem State.older_free (s : State) : (s.older).free = s.free := rfl
@[simp] theorem State.older_inputs (s : State) : (s.older).inputs = s.inputs := rfl
@[simp] theorem State.older_booted (s : State) : (s.older).booted = s.booted := rfl

/-! ## Units read back -/

@[simp] theorem State.setSlot_slot_same (s : State) (n : Nat) (x : Slot) : (s.setSlot n x).slot n = x := tget_tset_same _ _ _ _

@[simp] theorem State.setSlot_slot_other (s : State) {n m : Nat} (x : Slot) (h : m ≠ n) : (s.setSlot n x).slot m = s.slot m := tget_tset_other _ _ _ h

@[simp] theorem State.setSlot_twice (s : State) (n : Nat) (x y : Slot) : (s.setSlot n x).setSlot n y = s.setSlot n y := by
  simp [State.setSlot]

@[simp] theorem State.setCore_core_same (s : State) (n : Nat) (x : CoreSt) : (s.setCore n x).core n = x := tget_tset_same _ _ _ _

@[simp] theorem State.setCore_core_other (s : State) {n m : Nat} (x : CoreSt) (h : m ≠ n) : (s.setCore n x).core m = s.core m := tget_tset_other _ _ _ h

@[simp] theorem State.setCore_twice (s : State) (n : Nat) (x y : CoreSt) : (s.setCore n x).setCore n y = s.setCore n y := by
  simp [State.setCore]

@[simp] theorem State.setTile_tile_same (s : State) (n : Nat) (x : Tile) : (s.setTile n x).tile n = x := tget_tset_same _ _ _ _

@[simp] theorem State.setTile_tile_other (s : State) {n m : Nat} (x : Tile) (h : m ≠ n) : (s.setTile n x).tile m = s.tile m := tget_tset_other _ _ _ h

@[simp] theorem State.setTile_twice (s : State) (n : Nat) (x y : Tile) : (s.setTile n x).setTile n y = s.setTile n y := by
  simp [State.setTile]

@[simp] theorem State.setCluster_cluster_same (s : State) (n : Nat) (x : Cluster) : (s.setCluster n x).cluster n = x := tget_tset_same _ _ _ _

@[simp] theorem State.setCluster_cluster_other (s : State) {n m : Nat} (x : Cluster) (h : m ≠ n) : (s.setCluster n x).cluster m = s.cluster m := tget_tset_other _ _ _ h

@[simp] theorem State.setCluster_twice (s : State) (n : Nat) (x y : Cluster) : (s.setCluster n x).setCluster n y = s.setCluster n y := by
  simp [State.setCluster]

@[simp] theorem State.setDie_die_same (s : State) (n : Nat) (x : Die) : (s.setDie n x).die n = x := tget_tset_same _ _ _ _

@[simp] theorem State.setDie_die_other (s : State) {n m : Nat} (x : Die) (h : m ≠ n) : (s.setDie n x).die m = s.die m := tget_tset_other _ _ _ h

@[simp] theorem State.setDie_twice (s : State) (n : Nat) (x y : Die) : (s.setDie n x).setDie n y = s.setDie n y := by
  simp [State.setDie]

@[simp] theorem State.setTme_tme_same (s : State) (n : Nat) (x : Tme) : (s.setTme n x).tme n = x := tget_tset_same _ _ _ _

@[simp] theorem State.setTme_tme_other (s : State) {n m : Nat} (x : Tme) (h : m ≠ n) : (s.setTme n x).tme m = s.tme m := tget_tset_other _ _ _ h

@[simp] theorem State.setTme_twice (s : State) (n : Nat) (x y : Tme) : (s.setTme n x).setTme n y = s.setTme n y := by
  simp [State.setTme]

@[simp] theorem State.setCopyEng_copyEng_same (s : State) (n : Nat) (x : CopyEngine) : (s.setCopyEng n x).copyEng n = x := tget_tset_same _ _ _ _

@[simp] theorem State.setCopyEng_copyEng_other (s : State) {n m : Nat} (x : CopyEngine) (h : m ≠ n) : (s.setCopyEng n x).copyEng m = s.copyEng m := tget_tset_other _ _ _ h

@[simp] theorem State.setCopyEng_twice (s : State) (n : Nat) (x y : CopyEngine) : (s.setCopyEng n x).setCopyEng n y = s.setCopyEng n y := by
  simp [State.setCopyEng]

/-! ## Units under the update of another -/

@[simp] theorem State.setSlot_core (s : State) (n : Nat) (l : Slot) (j : Nat) : (s.setSlot n l).core j = s.core j := rfl
@[simp] theorem State.setSlot_tile (s : State) (n : Nat) (l : Slot) (j : Nat) : (s.setSlot n l).tile j = s.tile j := rfl
@[simp] theorem State.setSlot_cluster (s : State) (n : Nat) (l : Slot) (j : Nat) : (s.setSlot n l).cluster j = s.cluster j := rfl
@[simp] theorem State.setSlot_die (s : State) (n : Nat) (l : Slot) (j : Nat) : (s.setSlot n l).die j = s.die j := rfl
@[simp] theorem State.setSlot_tme (s : State) (n : Nat) (l : Slot) (j : Nat) : (s.setSlot n l).tme j = s.tme j := rfl
@[simp] theorem State.setSlot_copyEng (s : State) (n : Nat) (l : Slot) (j : Nat) : (s.setSlot n l).copyEng j = s.copyEng j := rfl
@[simp] theorem State.setCore_slot (s : State) (n : Nat) (c : CoreSt) (j : Nat) : (s.setCore n c).slot j = s.slot j := rfl
@[simp] theorem State.setCore_tile (s : State) (n : Nat) (c : CoreSt) (j : Nat) : (s.setCore n c).tile j = s.tile j := rfl
@[simp] theorem State.setCore_cluster (s : State) (n : Nat) (c : CoreSt) (j : Nat) : (s.setCore n c).cluster j = s.cluster j := rfl
@[simp] theorem State.setCore_die (s : State) (n : Nat) (c : CoreSt) (j : Nat) : (s.setCore n c).die j = s.die j := rfl
@[simp] theorem State.setCore_tme (s : State) (n : Nat) (c : CoreSt) (j : Nat) : (s.setCore n c).tme j = s.tme j := rfl
@[simp] theorem State.setCore_copyEng (s : State) (n : Nat) (c : CoreSt) (j : Nat) : (s.setCore n c).copyEng j = s.copyEng j := rfl
@[simp] theorem State.setTile_slot (s : State) (n : Nat) (t : Tile) (j : Nat) : (s.setTile n t).slot j = s.slot j := rfl
@[simp] theorem State.setTile_core (s : State) (n : Nat) (t : Tile) (j : Nat) : (s.setTile n t).core j = s.core j := rfl
@[simp] theorem State.setTile_cluster (s : State) (n : Nat) (t : Tile) (j : Nat) : (s.setTile n t).cluster j = s.cluster j := rfl
@[simp] theorem State.setTile_die (s : State) (n : Nat) (t : Tile) (j : Nat) : (s.setTile n t).die j = s.die j := rfl
@[simp] theorem State.setTile_tme (s : State) (n : Nat) (t : Tile) (j : Nat) : (s.setTile n t).tme j = s.tme j := rfl
@[simp] theorem State.setTile_copyEng (s : State) (n : Nat) (t : Tile) (j : Nat) : (s.setTile n t).copyEng j = s.copyEng j := rfl
@[simp] theorem State.setCluster_slot (s : State) (n : Nat) (c : Cluster) (j : Nat) : (s.setCluster n c).slot j = s.slot j := rfl
@[simp] theorem State.setCluster_core (s : State) (n : Nat) (c : Cluster) (j : Nat) : (s.setCluster n c).core j = s.core j := rfl
@[simp] theorem State.setCluster_tile (s : State) (n : Nat) (c : Cluster) (j : Nat) : (s.setCluster n c).tile j = s.tile j := rfl
@[simp] theorem State.setCluster_die (s : State) (n : Nat) (c : Cluster) (j : Nat) : (s.setCluster n c).die j = s.die j := rfl
@[simp] theorem State.setCluster_tme (s : State) (n : Nat) (c : Cluster) (j : Nat) : (s.setCluster n c).tme j = s.tme j := rfl
@[simp] theorem State.setCluster_copyEng (s : State) (n : Nat) (c : Cluster) (j : Nat) : (s.setCluster n c).copyEng j = s.copyEng j := rfl
@[simp] theorem State.setDie_slot (s : State) (n : Nat) (d : Die) (j : Nat) : (s.setDie n d).slot j = s.slot j := rfl
@[simp] theorem State.setDie_core (s : State) (n : Nat) (d : Die) (j : Nat) : (s.setDie n d).core j = s.core j := rfl
@[simp] theorem State.setDie_tile (s : State) (n : Nat) (d : Die) (j : Nat) : (s.setDie n d).tile j = s.tile j := rfl
@[simp] theorem State.setDie_cluster (s : State) (n : Nat) (d : Die) (j : Nat) : (s.setDie n d).cluster j = s.cluster j := rfl
@[simp] theorem State.setDie_tme (s : State) (n : Nat) (d : Die) (j : Nat) : (s.setDie n d).tme j = s.tme j := rfl
@[simp] theorem State.setDie_copyEng (s : State) (n : Nat) (d : Die) (j : Nat) : (s.setDie n d).copyEng j = s.copyEng j := rfl
@[simp] theorem State.setTme_slot (s : State) (n : Nat) (e : Tme) (j : Nat) : (s.setTme n e).slot j = s.slot j := rfl
@[simp] theorem State.setTme_core (s : State) (n : Nat) (e : Tme) (j : Nat) : (s.setTme n e).core j = s.core j := rfl
@[simp] theorem State.setTme_tile (s : State) (n : Nat) (e : Tme) (j : Nat) : (s.setTme n e).tile j = s.tile j := rfl
@[simp] theorem State.setTme_cluster (s : State) (n : Nat) (e : Tme) (j : Nat) : (s.setTme n e).cluster j = s.cluster j := rfl
@[simp] theorem State.setTme_die (s : State) (n : Nat) (e : Tme) (j : Nat) : (s.setTme n e).die j = s.die j := rfl
@[simp] theorem State.setTme_copyEng (s : State) (n : Nat) (e : Tme) (j : Nat) : (s.setTme n e).copyEng j = s.copyEng j := rfl
@[simp] theorem State.setCopyEng_slot (s : State) (n : Nat) (e : CopyEngine) (j : Nat) : (s.setCopyEng n e).slot j = s.slot j := rfl
@[simp] theorem State.setCopyEng_core (s : State) (n : Nat) (e : CopyEngine) (j : Nat) : (s.setCopyEng n e).core j = s.core j := rfl
@[simp] theorem State.setCopyEng_tile (s : State) (n : Nat) (e : CopyEngine) (j : Nat) : (s.setCopyEng n e).tile j = s.tile j := rfl
@[simp] theorem State.setCopyEng_cluster (s : State) (n : Nat) (e : CopyEngine) (j : Nat) : (s.setCopyEng n e).cluster j = s.cluster j := rfl
@[simp] theorem State.setCopyEng_die (s : State) (n : Nat) (e : CopyEngine) (j : Nat) : (s.setCopyEng n e).die j = s.die j := rfl
@[simp] theorem State.setCopyEng_tme (s : State) (n : Nat) (e : CopyEngine) (j : Nat) : (s.setCopyEng n e).tme j = s.tme j := rfl
@[simp] theorem State.setLaunch_slot (s : State) (u : Nat) (l : Launch) (j : Nat) : (s.setLaunch u l).slot j = s.slot j := rfl
@[simp] theorem State.setLaunch_core (s : State) (u : Nat) (l : Launch) (j : Nat) : (s.setLaunch u l).core j = s.core j := rfl
@[simp] theorem State.setLaunch_tile (s : State) (u : Nat) (l : Launch) (j : Nat) : (s.setLaunch u l).tile j = s.tile j := rfl
@[simp] theorem State.setLaunch_cluster (s : State) (u : Nat) (l : Launch) (j : Nat) : (s.setLaunch u l).cluster j = s.cluster j := rfl
@[simp] theorem State.setLaunch_die (s : State) (u : Nat) (l : Launch) (j : Nat) : (s.setLaunch u l).die j = s.die j := rfl
@[simp] theorem State.setLaunch_tme (s : State) (u : Nat) (l : Launch) (j : Nat) : (s.setLaunch u l).tme j = s.tme j := rfl
@[simp] theorem State.setLaunch_copyEng (s : State) (u : Nat) (l : Launch) (j : Nat) : (s.setLaunch u l).copyEng j = s.copyEng j := rfl
@[simp] theorem State.noteWrite_core (s : State) (k n : Nat) (j : Nat) : (s.noteWrite k n).core j = s.core j := rfl
@[simp] theorem State.noteWrite_tile (s : State) (k n : Nat) (j : Nat) : (s.noteWrite k n).tile j = s.tile j := rfl
@[simp] theorem State.noteWrite_cluster (s : State) (k n : Nat) (j : Nat) : (s.noteWrite k n).cluster j = s.cluster j := rfl
@[simp] theorem State.noteWrite_die (s : State) (k n : Nat) (j : Nat) : (s.noteWrite k n).die j = s.die j := rfl
@[simp] theorem State.noteWrite_tme (s : State) (k n : Nat) (j : Nat) : (s.noteWrite k n).tme j = s.tme j := rfl
@[simp] theorem State.noteWrite_copyEng (s : State) (k n : Nat) (j : Nat) : (s.noteWrite k n).copyEng j = s.copyEng j := rfl
@[simp] theorem State.write_core (s : State) (k : Nat) (bs : List Byte) (j : Nat) : (s.write k bs).core j = s.core j := rfl
@[simp] theorem State.write_tile (s : State) (k : Nat) (bs : List Byte) (j : Nat) : (s.write k bs).tile j = s.tile j := rfl
@[simp] theorem State.write_cluster (s : State) (k : Nat) (bs : List Byte) (j : Nat) : (s.write k bs).cluster j = s.cluster j := rfl
@[simp] theorem State.write_die (s : State) (k : Nat) (bs : List Byte) (j : Nat) : (s.write k bs).die j = s.die j := rfl
@[simp] theorem State.write_tme (s : State) (k : Nat) (bs : List Byte) (j : Nat) : (s.write k bs).tme j = s.tme j := rfl
@[simp] theorem State.write_copyEng (s : State) (k : Nat) (bs : List Byte) (j : Nat) : (s.write k bs).copyEng j = s.copyEng j := rfl
@[simp] theorem State.setFe_slot (s : State) (k : Nat) (b : FeBits) (j : Nat) : (s.setFe k b).slot j = s.slot j := rfl
@[simp] theorem State.setFe_core (s : State) (k : Nat) (b : FeBits) (j : Nat) : (s.setFe k b).core j = s.core j := rfl
@[simp] theorem State.setFe_tile (s : State) (k : Nat) (b : FeBits) (j : Nat) : (s.setFe k b).tile j = s.tile j := rfl
@[simp] theorem State.setFe_cluster (s : State) (k : Nat) (b : FeBits) (j : Nat) : (s.setFe k b).cluster j = s.cluster j := rfl
@[simp] theorem State.setFe_die (s : State) (k : Nat) (b : FeBits) (j : Nat) : (s.setFe k b).die j = s.die j := rfl
@[simp] theorem State.setFe_tme (s : State) (k : Nat) (b : FeBits) (j : Nat) : (s.setFe k b).tme j = s.tme j := rfl
@[simp] theorem State.setFe_copyEng (s : State) (k : Nat) (b : FeBits) (j : Nat) : (s.setFe k b).copyEng j = s.copyEng j := rfl
@[simp] theorem State.draw_slot (s : State) (j : Nat) : (s.draw).slot j = s.slot j := rfl
@[simp] theorem State.draw_core (s : State) (j : Nat) : (s.draw).core j = s.core j := rfl
@[simp] theorem State.draw_tile (s : State) (j : Nat) : (s.draw).tile j = s.tile j := rfl
@[simp] theorem State.draw_cluster (s : State) (j : Nat) : (s.draw).cluster j = s.cluster j := rfl
@[simp] theorem State.draw_die (s : State) (j : Nat) : (s.draw).die j = s.die j := rfl
@[simp] theorem State.draw_tme (s : State) (j : Nat) : (s.draw).tme j = s.tme j := rfl
@[simp] theorem State.draw_copyEng (s : State) (j : Nat) : (s.draw).copyEng j = s.copyEng j := rfl
@[simp] theorem State.older_slot (s : State) (j : Nat) : (s.older).slot j = s.slot j := rfl
@[simp] theorem State.older_core (s : State) (j : Nat) : (s.older).core j = s.core j := rfl
@[simp] theorem State.older_tile (s : State) (j : Nat) : (s.older).tile j = s.tile j := rfl
@[simp] theorem State.older_cluster (s : State) (j : Nat) : (s.older).cluster j = s.cluster j := rfl
@[simp] theorem State.older_die (s : State) (j : Nat) : (s.older).die j = s.die j := rfl
@[simp] theorem State.older_tme (s : State) (j : Nat) : (s.older).tme j = s.tme j := rfl
@[simp] theorem State.older_copyEng (s : State) (j : Nat) : (s.older).copyEng j = s.copyEng j := rfl

/-! ## The executing slot -/

@[simp] theorem State.setSl_sl (s : State) (l : Slot) : (s.setSl l).sl = l := tget_tset_same _ _ _ _

@[simp] theorem State.setSl_twice (s : State) (l m : Slot) : (s.setSl l).setSl m = s.setSl m := by
  simp [State.setSl]

/-- s0 reads zero (R124). -/
@[simp] theorem State.getS_zero (s : State) : s.getS 0 = 0 := rfl

/-- A write to s0 is discarded (R124). -/
@[simp] theorem State.setS_zero (s : State) (v : Word) : s.setS 0 v = s := rfl

/-- A register that has just been written reads back. -/
theorem State.setS_getS_same (s : State) {r : Reg} (h : r ≠ 0) (v : Word) : (s.setS r v).getS r = v := by
  simp [State.setS, State.getS, h]

/-- Writing a register leaves every other register alone. -/
theorem State.setS_getS_other (s : State) {r q : Reg} (h : q ≠ r) (v : Word) : (s.setS r v).getS q = s.getS q := by
  by_cases e : r = 0
  · simp [State.setS, e]
  · have hv : r.val ≠ q.val := fun x => h (Fin.ext x.symm)
    simp [State.setS, State.getS, e, Vector.getElem_set_ne, hv]

end Sys2Proof.Machine
end

