-- ==== Sys2Proof/Laws/Heads.lean ====
section
/-!
SUPPORT. What the issue of a head does: a head that issues runs its body and ends as the body says; one whose guard is false only retires; the forms of
order 7 and 8 trap.
-/

namespace Sys2Proof.Machine

/-! ## The parcels of a head -/

/-- A form without a mode, a role or parcels issues wherever its guard is true. -/
theorem formTrap_plain (s : State) : formTrap s {} = none := by simp [formTrap]

/-- A privileged form traps in user mode (R73). -/
theorem formTrap_user {s : State} {f : Form} (hf : f.priv = true) (h : s.sl.priv = false) : formTrap s f = some (trapI 3 0 0) := by
  simp [formTrap, hf, h]

/-- A privileged form that is no matrix form passes in privileged mode. -/
theorem formTrap_priv {s : State} {f : Form} (hm : f.matrix = false) (h : s.sl.priv = true) : formTrap s f = none := by
  simp [formTrap, hm, h]

/-- A head without wait parcel runs its body where its guard is true. -/
theorem issue_body {s : State} {f : Form} {body : State → Eff} (hf : formTrap s f = none) (he : f.eng = none) :
    issue s f true body = runBody s f body := by
  simp [issue, hf, he]

/-- A head with a wait parcel that is met runs its body in the state that the parcel leaves. -/
theorem issue_body_eng {s : State} {f : Form} {e : Eng} {body : State → Eff} (hf : formTrap s f = none) (he : f.eng = some e)
    (hw : (waitParcel s e).2 = true) : issue s f true body = runBody (issuedAt s e) f body := by
  simp [issue, hf, he, hw, issuedAt]

/-- A head whose guard is false performs its signal and retires (R74, R249). -/
theorem issue_false {s : State} {f : Form} {body : State → Eff} (hf : formTrap s f = none) :
    issue s f false body = ended s (signalParcel s f.eng) .seq := by
  simp [issue, hf, ended]

/-- A head that orders 7 or 8 refuse traps. -/
theorem issue_trap {s : State} {f : Form} {a : Bool} {body : State → Eff} {t : Trap} (hf : formTrap s f = some t) :
    issue s f a body = headTrap (barrelMoved s) s.cur t := by
  simp [issue, hf]

/-! ## The end of a body -/

/-- A body without parcels that completes. -/
theorem runBody_retire {s t : State} {f : Form} {body : State → Eff} {nx : Next} (he : f.eng = none) (h : body s = .retire t nx) :
    runBody s f body = ended s t nx := by
  simp [runBody, h, he, ended, signalParcel]

/-- A body whose signal another performs, or that has a signal parcel, completes. -/
theorem runBody_retire_sig {s t : State} {f : Form} {body : State → Eff} {nx : Next} (h : body s = .retire t nx) :
    runBody s f body = ended s (if f.sig then signalParcel t f.eng else t) nx := by
  simp [runBody, h, ended]

/-- A body that completes and then traps. -/
theorem runBody_post {s t : State} {f : Form} {body : State → Eff} {x : Trap} (he : f.eng = none) (h : body s = .post t x) :
    runBody s f body = endedTrap s t x := by
  simp [runBody, h, he, endedTrap, signalParcel]

/-- A body that raises a precise trap. -/
theorem runBody_trap {s t : State} {f : Form} {body : State → Eff} {x : Trap} (h : body s = .trap t x) :
    runBody s f body = headTrap (barrelMoved t) t.cur x := by
  simp [runBody, h]

/-- A body that blocks or waits. -/
theorem runBody_wait {s t : State} {f : Form} {body : State → Eff} {w : Wait} (h : body s = .wait t w) : runBody s f body = blocked t w := by
  simp [runBody, h, blocked]

/-- A body that ends the activation. -/
theorem runBody_over {s t : State} {f : Form} {body : State → Eff} (h : body s = .over t) : runBody s f body = barrelMoved t := by
  simp [runBody, h]

/-! ## Heads without parcels -/

/-- A scalar head whose guard is true. -/
theorem head_body {s : State} {g : Guard} {body : State → Eff} (hg : s.guardTrue g = true) :
    head s g {} body = .next (runBody s {} body) := by
  rw [head, hg, issue_body (formTrap_plain s) rfl]

/-- A privileged head whose guard is true, in privileged mode. -/
theorem head_priv {s : State} {g : Guard} {body : State → Eff} (hg : s.guardTrue g = true) (hp : s.sl.priv = true) :
    head s g { priv := true } body = .next (runBody s { priv := true } body) := by
  rw [head, hg, issue_body (formTrap_priv rfl hp) rfl]

/-- A scalar head that always completes, whose guard is true. -/
theorem plain_body {s : State} {g : Guard} {f : State → State} (hg : s.guardTrue g = true) : plain s g f = .next (ended s (f s) .seq) := by
  rw [plain, head_body hg, runBody_retire rfl rfl]

/-- A two-source form whose guard is true. -/
theorem two_body {s : State} {g : Guard} {d a b : Reg} {f : Word → Word → Word} (hg : s.guardTrue g = true) :
    two g d a b f s = .next (ended s (s.setS d (f (s.getS a) (s.getS b))) .seq) := plain_body hg

/-- A one-source form whose guard is true. -/
theorem one_body {s : State} {g : Guard} {d a : Reg} {f : Word → Word} (hg : s.guardTrue g = true) :
    one g d a f s = .next (ended s (s.setS d (f (s.getS a))) .seq) := plain_body hg

end Sys2Proof.Machine
end

