-- ==== Sys2Proof/Laws/Memory.lean ====
section
/-!
SUPPORT. Memory: a byte that is written reads back, every other byte is left alone, and every write keeps the canonical form.
-/

namespace Sys2Proof.Machine

/-- Keys at or above `k`, rising, and no byte zero. -/
def Memory.from' (k : Nat) : Memory → Prop
  | [] => True
  | (i, b) :: m => k ≤ i ∧ b ≠ 0#8 ∧ Memory.from' (i + 1) m

theorem Memory.from'_mono {k j : Nat} (h : j ≤ k) : {m : Memory} → Memory.from' k m → Memory.from' j m
  | [], _ => trivial
  | (_, _) :: _, hm => ⟨Nat.le_trans h hm.1, hm.2.1, hm.2.2⟩

/-- The canonical form, by its tails. -/
theorem Memory.wf_cons {i : Nat} {b : Byte} {m : Memory} : Memory.wf ((i, b) :: m) = true ↔ b ≠ 0#8 ∧ Memory.from' (i + 1) m := by
  induction m generalizing i b with
  | nil => simp [Memory.wf, Memory.from']
  | cons p m ih =>
    obtain ⟨j, c⟩ := p
    simp only [Memory.wf, Bool.and_eq_true, decide_eq_true_eq, bne_iff_ne, ne_eq, ih, Memory.from']
    constructor
    · rintro ⟨⟨h, hb⟩, hc, hm⟩; exact ⟨hb, h, hc, hm⟩
    · rintro ⟨hb, h, hc, hm⟩; exact ⟨⟨h, hb⟩, hc, hm⟩

theorem Memory.wf_iff {m : Memory} : m.wf = true ↔ Memory.from' 0 m := by
  cases m with
  | nil => simp [Memory.wf, Memory.from']
  | cons p m => obtain ⟨i, b⟩ := p; simp [Memory.wf_cons, Memory.from']

theorem Memory.get_below {k : Nat} : {m : Memory} → Memory.from' (k + 1) m → m.get k = 0#8
  | [], _ => rfl
  | (i, b) :: m, h => by
    have hi : i ≠ k := by have := h.1; omega
    simp only [Memory.get, hi, if_false]
    exact Memory.get_below (Memory.from'_mono (by have := h.1; omega) h.2.2)

/-- A byte that is written reads back, in a canonical memory. -/
theorem Memory.get_put_same {k j : Nat} {b : Byte} : {m : Memory} → Memory.from' j m → (m.put k b).get k = b
  | [], _ => by by_cases h : b = 0#8 <;> simp [Memory.put, Memory.get, h]
  | (i, c) :: m, h => by
    by_cases hk : k < i
    · by_cases hb : b = 0#8
      · simp only [Memory.put, hk, hb, if_true]
        exact Memory.get_below (m := (i, c) :: m) ⟨hk, h.2.1, h.2.2⟩
      · simp [Memory.put, Memory.get, hk, hb]
    · by_cases e : i = k
      · subst e
        by_cases hb : b = 0#8
        · simp only [Memory.put, hk, hb, if_true, if_false]
          exact Memory.get_below h.2.2
        · simp [Memory.put, Memory.get, hb]
      · simp only [Memory.put, hk, e, if_false, Memory.get]
        exact Memory.get_put_same h.2.2

/-- Writing a byte leaves every other byte alone. -/
theorem Memory.get_put_other {k j : Nat} (b : Byte) (n : j ≠ k) : (m : Memory) → (m.put k b).get j = m.get j
  | [] => by by_cases h : b = 0#8 <;> simp [Memory.put, Memory.get, h, Ne.symm n]
  | (i, c) :: m => by
    by_cases hk : k < i
    · by_cases hb : b = 0#8 <;> simp [Memory.put, Memory.get, hk, hb, Ne.symm n]
    · by_cases e : i = k
      · subst e
        by_cases hb : b = 0#8 <;> simp [Memory.put, Memory.get, hb, Ne.symm n]
      · simp only [Memory.put, hk, e, if_false, Memory.get]
        rw [Memory.get_put_other b n m]

theorem Memory.put_from {j k : Nat} (b : Byte) (h : j ≤ k) : {m : Memory} → Memory.from' j m → Memory.from' j (m.put k b)
  | [], _ => by
    by_cases hb : b = 0#8
    · simp [Memory.put, hb, Memory.from']
    · simp [Memory.put, hb, Memory.from', h]
  | (i, c) :: m, hm => by
    obtain ⟨h1, h2, h3⟩ := hm
    by_cases hk : k < i
    · by_cases hb : b = 0#8
      · simp only [Memory.put, hk, hb, if_true]
        exact ⟨h1, h2, h3⟩
      · simp only [Memory.put, hk, hb, if_true, if_false]
        exact ⟨h, hb, hk, h2, h3⟩
    · by_cases e : i = k
      · subst e
        by_cases hb : b = 0#8
        · simp only [Memory.put, hk, hb, if_true, if_false]
          exact Memory.from'_mono (by omega) h3
        · simp only [Memory.put, hk, hb, if_true, if_false]
          exact ⟨h1, hb, h3⟩
      · simp only [Memory.put, hk, e, if_false]
        exact ⟨h1, h2, Memory.put_from b (by omega) h3⟩

/-- A write of a byte keeps the canonical form. -/
theorem Memory.put_wf {m : Memory} (k : Nat) (b : Byte) (h : m.wf = true) : (m.put k b).wf = true :=
  Memory.wf_iff.2 (Memory.put_from b (Nat.zero_le _) (Memory.wf_iff.1 h))

/-- A write of bytes keeps the canonical form. -/
theorem Memory.puts_wf {m : Memory} (k : Nat) (bs : List Byte) (h : m.wf = true) : (m.puts k bs).wf = true := by
  induction bs generalizing m k with
  | nil => exact h
  | cons b bs ih => exact ih (k + 1) (Memory.put_wf k b h)

/-- Writing bytes leaves every byte outside them alone. -/
theorem Memory.get_puts_other {j : Nat} (bs : List Byte) {k : Nat} (n : j < k ∨ k + bs.length ≤ j) (m : Memory) :
    (m.puts k bs).get j = m.get j := by
  induction bs generalizing m k with
  | nil => rfl
  | cons b bs ih =>
    simp only [List.length_cons] at n
    rw [Memory.puts, ih (by omega), Memory.get_put_other b (by omega)]

/-- Bytes that are written read back, in a canonical memory. -/
theorem Memory.get_puts_same (bs : List Byte) {k i : Nat} (hi : i < bs.length) {m : Memory} (h : m.wf = true) :
    (m.puts k bs).get (k + i) = bs[i] := by
  induction bs generalizing m k i with
  | nil => simp at hi
  | cons b bs ih =>
    cases i with
    | zero =>
      rw [Memory.puts, Memory.get_puts_other bs (by omega)]
      exact Memory.get_put_same (Memory.wf_iff.1 h)
    | succ i =>
      rw [Memory.puts, show k + (i + 1) = (k + 1) + i by omega]
      simpa using ih (by simpa using hi) (Memory.put_wf k b h)

/-! ## Memory of the module -/

/-- A write of the module keeps its memory canonical. -/
theorem State.write_memOk {s : State} (k : Nat) (bs : List Byte) (h : s.mem.wf = true) : (s.write k bs).mem.wf = true :=
  Memory.puts_wf k bs h

/-- A write leaves every byte outside it alone. -/
theorem State.write_other {s : State} {j k : Nat} (bs : List Byte) (n : j < k ∨ k + bs.length ≤ j) :
    (s.write k bs).mem.get j = s.mem.get j := Memory.get_puts_other bs n s.mem

/-- A write reads back. -/
theorem State.write_same {s : State} {k i : Nat} {bs : List Byte} (hi : i < bs.length) (h : s.mem.wf = true) :
    (s.write k bs).mem.get (k + i) = bs[i] := Memory.get_puts_same bs hi h

end Sys2Proof.Machine
end

