-- ==== Sys2Proof/Laws/PerInstr.lean ====
section
/-!
SUPPORT. One lemma per instruction: a well-formed instruction that has words is what its words decode to.
-/

namespace Sys2Proof.Laws

/-- A well-formed instruction with words is what its words decode to; an event has no words. -/
def RoundTrip.Statement (i : Instr) : Prop :=
  i.wf = true → ∀ h t, encode i = h :: t → decodeParcels h t = .ok i

/-- An event has no words. -/
theorem RoundTrip.no_words {i : Instr} (h : encode i = []) : RoundTrip.Statement i := fun _ _ _ e => nomatch h.symm.trans e

/-- The numbers that a plain `csrr` does not name. -/
theorem csrReadable_ne {n : Nat} (h : csrReadable n = true) : (n = 1 ↔ False) ∧ (n / 4 = 0x42 ↔ False) := by
  simp only [csrReadable, csrIsQport, Bool.and_eq_true, bne_iff_ne, Bool.not_eq_true', Bool.and_eq_false_iff, decide_eq_false_iff_not,
    ne_eq] at h
  grind

/-- The numbers that a plain `csrw`, `csrs` or `csrc` does not name. -/
theorem csrWritable_ne {n : Nat} (h : csrWritable n = true) :
    (n = 1 ↔ False) ∧ (n = 0x105 ↔ False) ∧ (n = 0x208 ↔ False) ∧ (n / 4 = 0x42 ↔ False) := by
  simp only [csrWritable, csrIsQport, Bool.and_eq_true, bne_iff_ne, Bool.not_eq_true', Bool.and_eq_false_iff, decide_eq_false_iff_not,
    ne_eq] at h
  grind

theorem RoundTrip.hret (g : Guard) : RoundTrip.Statement (.hret g) := by
  intro hw h t e
  obtain ⟨rfl, rfl⟩ := List.cons.inj e
  exact decode_words (b := build1) (by decide) (by decide) (n := 0) (by decide) rfl rfl rfl rfl (rfl) hw rfl

theorem RoundTrip.hpost (g : Guard) (a b : Reg) (ch : BitVec 6) (dec : BitVec 10) : RoundTrip.Statement (.hpost g a b ch dec) := by
  intro hw h t e
  obtain ⟨rfl, rfl⟩ := List.cons.inj e
  exact decode_words (b := build1) (by decide) (by decide) (n := 2) (by decide) rfl rfl rfl rfl (Eq.mpr (Instr.hpost.injEq _ _ _ _ _ _ _ _ _ _) ⟨rfl, pA_reg (by omega) (by omega), pB_reg (by omega), fV_par (by omega), fV_par (by omega)⟩) hw rfl

theorem RoundTrip.harm (g : Guard) (d a b : Reg) (keep : Bool) (ch : BitVec 6) : RoundTrip.Statement (.harm g d a b keep ch) := by
  intro hw h t e
  obtain ⟨rfl, rfl⟩ := List.cons.inj e
  have := Bool.toNat_lt keep
  exact decode_words (b := build1) (by decide) (by decide) (n := 2) (by decide) rfl rfl rfl rfl (Eq.mpr (Instr.harm.injEq _ _ _ _ _ _ _ _ _ _ _ _) ⟨rfl, pD_reg (by omega) (by omega) (by omega), pA_reg (by omega) (by omega), pB_reg (by omega), fB_par (by omega), fV_par (by omega)⟩) hw rfl

theorem RoundTrip.hen (g : Guard) (d a : Reg) (usech : Bool) (ch : BitVec 6) : RoundTrip.Statement (.hen g d a usech ch) := by
  intro hw h t e
  obtain ⟨rfl, rfl⟩ := List.cons.inj e
  have := Bool.toNat_lt usech
  exact decode_words (b := build1) (by decide) (by decide) (n := 2) (by decide) rfl rfl rfl rfl (Eq.mpr (Instr.hen.injEq _ _ _ _ _ _ _ _ _ _) ⟨rfl, pD_reg (by omega) (by omega) (by omega), pA_reg (by omega) (by omega), fB_par (by omega), fV_par (by omega)⟩) hw rfl

theorem RoundTrip.hdis (g : Guard) (d a : Reg) (usech : Bool) (ch : BitVec 6) : RoundTrip.Statement (.hdis g d a usech ch) := by
  intro hw h t e
  obtain ⟨rfl, rfl⟩ := List.cons.inj e
  have := Bool.toNat_lt usech
  exact decode_words (b := build2) (by decide) (by decide) (n := 2) (by decide) rfl rfl rfl rfl (Eq.mpr (Instr.hdis.injEq _ _ _ _ _ _ _ _ _ _) ⟨rfl, pD_reg (by omega) (by omega) (by omega), pA_reg (by omega) (by omega), fB_par (by omega), fV_par (by omega)⟩) hw rfl

theorem RoundTrip.hpclr (g : Guard) (d a : Reg) (usech : Bool) (ch : BitVec 6) : RoundTrip.Statement (.hpclr g d a usech ch) := by
  intro hw h t e
  obtain ⟨rfl, rfl⟩ := List.cons.inj e
  have := Bool.toNat_lt usech
  exact decode_words (b := build2) (by decide) (by decide) (n := 2) (by decide) rfl rfl rfl rfl (Eq.mpr (Instr.hpclr.injEq _ _ _ _ _ _ _ _ _ _) ⟨rfl, pD_reg (by omega) (by omega) (by omega), pA_reg (by omega) (by omega), fB_par (by omega), fV_par (by omega)⟩) hw rfl

theorem RoundTrip.hprio (g : Guard) (d : Reg) (p : BitVec 3) (ch : BitVec 6) : RoundTrip.Statement (.hprio g d p ch) := by
  intro hw h t e
  obtain ⟨rfl, rfl⟩ := List.cons.inj e
  exact decode_words (b := build2) (by decide) (by decide) (n := 2) (by decide) rfl rfl rfl rfl (Eq.mpr (Instr.hprio.injEq _ _ _ _ _ _ _ _) ⟨rfl, pD_reg (by omega) (by omega) (by omega), fV_par (by omega), fV_par (by omega)⟩) hw rfl

theorem RoundTrip.tsread (g : Guard) (d : Reg) : RoundTrip.Statement (.tsread g d) := by
  intro hw h t e
  obtain ⟨rfl, rfl⟩ := List.cons.inj e
  exact decode_words (b := build2) (by decide) (by decide) (n := 1) (by decide) rfl rfl rfl rfl (Eq.mpr (Instr.tsread.injEq _ _ _ _) ⟨rfl, pD_reg (by omega) (by omega) (by omega)⟩) hw rfl

theorem RoundTrip.dsync (g : Guard) (d : Reg) (mask : BitVec 4) : RoundTrip.Statement (.dsync g d mask) := by
  intro hw h t e
  obtain ⟨rfl, rfl⟩ := List.cons.inj e
  exact decode_words (b := build3) (by decide) (by decide) (n := 2) (by decide) rfl rfl rfl rfl (Eq.mpr (Instr.dsync.injEq _ _ _ _ _ _) ⟨rfl, pD_reg (by omega) (by omega) (by omega), fV_par (by omega)⟩) hw rfl

theorem RoundTrip.falign (g : Guard) : RoundTrip.Statement (.falign g) := by
  intro hw h t e
  obtain ⟨rfl, rfl⟩ := List.cons.inj e
  exact decode_words (b := build3) (by decide) (by decide) (n := 0) (by decide) rfl rfl rfl rfl (rfl) hw rfl

theorem RoundTrip.rtake (g : Guard) (d b : Reg) (obj : BitVec 4) : RoundTrip.Statement (.rtake g d b obj) := by
  intro hw h t e
  obtain ⟨rfl, rfl⟩ := List.cons.inj e
  exact decode_words (b := build3) (by decide) (by decide) (n := 2) (by decide) rfl rfl rfl rfl (Eq.mpr (Instr.rtake.injEq _ _ _ _ _ _ _ _) ⟨rfl, pD_reg (by omega) (by omega) (by omega), pB_reg (by omega), fV_par (by omega)⟩) hw rfl

theorem RoundTrip.lnch (g : Guard) (d a b : Reg) : RoundTrip.Statement (.lnch g d a b) := by
  intro hw h t e
  obtain ⟨rfl, rfl⟩ := List.cons.inj e
  exact decode_words (b := build3) (by decide) (by decide) (n := 1) (by decide) rfl rfl rfl rfl (Eq.mpr (Instr.lnch.injEq _ _ _ _ _ _ _ _) ⟨rfl, pD_reg (by omega) (by omega) (by omega), pA_reg (by omega) (by omega), pB_reg (by omega)⟩) hw rfl

theorem RoundTrip.add (g : Guard) (d a b : Reg) : RoundTrip.Statement (.add g d a b) := by
  intro hw h t e
  obtain ⟨rfl, rfl⟩ := List.cons.inj e
  exact decode_words (b := build4) (by decide) (by decide) (n := 1) (by decide) rfl rfl rfl rfl (Eq.mpr (Instr.add.injEq _ _ _ _ _ _ _ _) ⟨rfl, pD_reg (by omega) (by omega) (by omega), pA_reg (by omega) (by omega), pB_reg (by omega)⟩) hw rfl

theorem RoundTrip.sub (g : Guard) (d a b : Reg) : RoundTrip.Statement (.sub g d a b) := by
  intro hw h t e
  obtain ⟨rfl, rfl⟩ := List.cons.inj e
  exact decode_words (b := build4) (by decide) (by decide) (n := 1) (by decide) rfl rfl rfl rfl (Eq.mpr (Instr.sub.injEq _ _ _ _ _ _ _ _) ⟨rfl, pD_reg (by omega) (by omega) (by omega), pA_reg (by omega) (by omega), pB_reg (by omega)⟩) hw rfl

theorem RoundTrip.and (g : Guard) (d a b : Reg) : RoundTrip.Statement (.and g d a b) := by
  intro hw h t e
  obtain ⟨rfl, rfl⟩ := List.cons.inj e
  exact decode_words (b := build4) (by decide) (by decide) (n := 1) (by decide) rfl rfl rfl rfl (Eq.mpr (Instr.and.injEq _ _ _ _ _ _ _ _) ⟨rfl, pD_reg (by omega) (by omega) (by omega), pA_reg (by omega) (by omega), pB_reg (by omega)⟩) hw rfl

theorem RoundTrip.or (g : Guard) (d a b : Reg) : RoundTrip.Statement (.or g d a b) := by
  intro hw h t e
  obtain ⟨rfl, rfl⟩ := List.cons.inj e
  exact decode_words (b := build4) (by decide) (by decide) (n := 1) (by decide) rfl rfl rfl rfl (Eq.mpr (Instr.or.injEq _ _ _ _ _ _ _ _) ⟨rfl, pD_reg (by omega) (by omega) (by omega), pA_reg (by omega) (by omega), pB_reg (by omega)⟩) hw rfl

theorem RoundTrip.xor (g : Guard) (d a b : Reg) : RoundTrip.Statement (.xor g d a b) := by
  intro hw h t e
  obtain ⟨rfl, rfl⟩ := List.cons.inj e
  exact decode_words (b := build5) (by decide) (by decide) (n := 1) (by decide) rfl rfl rfl rfl (Eq.mpr (Instr.xor.injEq _ _ _ _ _ _ _ _) ⟨rfl, pD_reg (by omega) (by omega) (by omega), pA_reg (by omega) (by omega), pB_reg (by omega)⟩) hw rfl

theorem RoundTrip.andn (g : Guard) (d a b : Reg) : RoundTrip.Statement (.andn g d a b) := by
  intro hw h t e
  obtain ⟨rfl, rfl⟩ := List.cons.inj e
  exact decode_words (b := build5) (by decide) (by decide) (n := 1) (by decide) rfl rfl rfl rfl (Eq.mpr (Instr.andn.injEq _ _ _ _ _ _ _ _) ⟨rfl, pD_reg (by omega) (by omega) (by omega), pA_reg (by omega) (by omega), pB_reg (by omega)⟩) hw rfl

theorem RoundTrip.orn (g : Guard) (d a b : Reg) : RoundTrip.Statement (.orn g d a b) := by
  intro hw h t e
  obtain ⟨rfl, rfl⟩ := List.cons.inj e
  exact decode_words (b := build5) (by decide) (by decide) (n := 1) (by decide) rfl rfl rfl rfl (Eq.mpr (Instr.orn.injEq _ _ _ _ _ _ _ _) ⟨rfl, pD_reg (by omega) (by omega) (by omega), pA_reg (by omega) (by omega), pB_reg (by omega)⟩) hw rfl

theorem RoundTrip.mov (g : Guard) (d a : Reg) : RoundTrip.Statement (.mov g d a) := by
  intro hw h t e
  obtain ⟨rfl, rfl⟩ := List.cons.inj e
  exact decode_words (b := build5) (by decide) (by decide) (n := 1) (by decide) rfl rfl rfl rfl (Eq.mpr (Instr.mov.injEq _ _ _ _ _ _) ⟨rfl, pD_reg (by omega) (by omega) (by omega), pA_reg (by omega) (by omega)⟩) hw rfl

theorem RoundTrip.mul (g : Guard) (d a b : Reg) : RoundTrip.Statement (.mul g d a b) := by
  intro hw h t e
  obtain ⟨rfl, rfl⟩ := List.cons.inj e
  exact decode_words (b := build6) (by decide) (by decide) (n := 1) (by decide) rfl rfl rfl rfl (Eq.mpr (Instr.mul.injEq _ _ _ _ _ _ _ _) ⟨rfl, pD_reg (by omega) (by omega) (by omega), pA_reg (by omega) (by omega), pB_reg (by omega)⟩) hw rfl

theorem RoundTrip.mulh (g : Guard) (d a b : Reg) : RoundTrip.Statement (.mulh g d a b) := by
  intro hw h t e
  obtain ⟨rfl, rfl⟩ := List.cons.inj e
  exact decode_words (b := build6) (by decide) (by decide) (n := 1) (by decide) rfl rfl rfl rfl (Eq.mpr (Instr.mulh.injEq _ _ _ _ _ _ _ _) ⟨rfl, pD_reg (by omega) (by omega) (by omega), pA_reg (by omega) (by omega), pB_reg (by omega)⟩) hw rfl

theorem RoundTrip.mulhn (g : Guard) (d a b : Reg) : RoundTrip.Statement (.mulhn g d a b) := by
  intro hw h t e
  obtain ⟨rfl, rfl⟩ := List.cons.inj e
  exact decode_words (b := build6) (by decide) (by decide) (n := 1) (by decide) rfl rfl rfl rfl (Eq.mpr (Instr.mulhn.injEq _ _ _ _ _ _ _ _) ⟨rfl, pD_reg (by omega) (by omega) (by omega), pA_reg (by omega) (by omega), pB_reg (by omega)⟩) hw rfl

theorem RoundTrip.sel (g : Guard) (d a b : Reg) : RoundTrip.Statement (.sel g d a b) := by
  intro hw h t e
  obtain ⟨rfl, rfl⟩ := List.cons.inj e
  exact decode_words (b := build6) (by decide) (by decide) (n := 1) (by decide) rfl rfl rfl rfl (Eq.mpr (Instr.sel.injEq _ _ _ _ _ _ _ _) ⟨rfl, pD_reg (by omega) (by omega) (by omega), pA_reg (by omega) (by omega), pB_reg (by omega)⟩) hw rfl

theorem RoundTrip.div (g : Guard) (d a b : Reg) : RoundTrip.Statement (.div g d a b) := by
  intro hw h t e
  obtain ⟨rfl, rfl⟩ := List.cons.inj e
  exact decode_words (b := build7) (by decide) (by decide) (n := 1) (by decide) rfl rfl rfl rfl (Eq.mpr (Instr.div.injEq _ _ _ _ _ _ _ _) ⟨rfl, pD_reg (by omega) (by omega) (by omega), pA_reg (by omega) (by omega), pB_reg (by omega)⟩) hw rfl

theorem RoundTrip.divn (g : Guard) (d a b : Reg) : RoundTrip.Statement (.divn g d a b) := by
  intro hw h t e
  obtain ⟨rfl, rfl⟩ := List.cons.inj e
  exact decode_words (b := build7) (by decide) (by decide) (n := 1) (by decide) rfl rfl rfl rfl (Eq.mpr (Instr.divn.injEq _ _ _ _ _ _ _ _) ⟨rfl, pD_reg (by omega) (by omega) (by omega), pA_reg (by omega) (by omega), pB_reg (by omega)⟩) hw rfl

theorem RoundTrip.rem (g : Guard) (d a b : Reg) : RoundTrip.Statement (.rem g d a b) := by
  intro hw h t e
  obtain ⟨rfl, rfl⟩ := List.cons.inj e
  exact decode_words (b := build7) (by decide) (by decide) (n := 1) (by decide) rfl rfl rfl rfl (Eq.mpr (Instr.rem.injEq _ _ _ _ _ _ _ _) ⟨rfl, pD_reg (by omega) (by omega) (by omega), pA_reg (by omega) (by omega), pB_reg (by omega)⟩) hw rfl

theorem RoundTrip.remn (g : Guard) (d a b : Reg) : RoundTrip.Statement (.remn g d a b) := by
  intro hw h t e
  obtain ⟨rfl, rfl⟩ := List.cons.inj e
  exact decode_words (b := build7) (by decide) (by decide) (n := 1) (by decide) rfl rfl rfl rfl (Eq.mpr (Instr.remn.injEq _ _ _ _ _ _ _ _) ⟨rfl, pD_reg (by omega) (by omega) (by omega), pA_reg (by omega) (by omega), pB_reg (by omega)⟩) hw rfl

theorem RoundTrip.shl (g : Guard) (d a b : Reg) : RoundTrip.Statement (.shl g d a b) := by
  intro hw h t e
  obtain ⟨rfl, rfl⟩ := List.cons.inj e
  exact decode_words (b := build8) (by decide) (by decide) (n := 1) (by decide) rfl rfl rfl rfl (Eq.mpr (Instr.shl.injEq _ _ _ _ _ _ _ _) ⟨rfl, pD_reg (by omega) (by omega) (by omega), pA_reg (by omega) (by omega), pB_reg (by omega)⟩) hw rfl

theorem RoundTrip.shr (g : Guard) (d a b : Reg) : RoundTrip.Statement (.shr g d a b) := by
  intro hw h t e
  obtain ⟨rfl, rfl⟩ := List.cons.inj e
  exact decode_words (b := build8) (by decide) (by decide) (n := 1) (by decide) rfl rfl rfl rfl (Eq.mpr (Instr.shr.injEq _ _ _ _ _ _ _ _) ⟨rfl, pD_reg (by omega) (by omega) (by omega), pA_reg (by omega) (by omega), pB_reg (by omega)⟩) hw rfl

theorem RoundTrip.sar (g : Guard) (d a b : Reg) : RoundTrip.Statement (.sar g d a b) := by
  intro hw h t e
  obtain ⟨rfl, rfl⟩ := List.cons.inj e
  exact decode_words (b := build8) (by decide) (by decide) (n := 1) (by decide) rfl rfl rfl rfl (Eq.mpr (Instr.sar.injEq _ _ _ _ _ _ _ _) ⟨rfl, pD_reg (by omega) (by omega) (by omega), pA_reg (by omega) (by omega), pB_reg (by omega)⟩) hw rfl

theorem RoundTrip.rotl (g : Guard) (d a b : Reg) : RoundTrip.Statement (.rotl g d a b) := by
  intro hw h t e
  obtain ⟨rfl, rfl⟩ := List.cons.inj e
  exact decode_words (b := build8) (by decide) (by decide) (n := 1) (by decide) rfl rfl rfl rfl (Eq.mpr (Instr.rotl.injEq _ _ _ _ _ _ _ _) ⟨rfl, pD_reg (by omega) (by omega) (by omega), pA_reg (by omega) (by omega), pB_reg (by omega)⟩) hw rfl

theorem RoundTrip.min (g : Guard) (d a b : Reg) : RoundTrip.Statement (.min g d a b) := by
  intro hw h t e
  obtain ⟨rfl, rfl⟩ := List.cons.inj e
  exact decode_words (b := build9) (by decide) (by decide) (n := 1) (by decide) rfl rfl rfl rfl (Eq.mpr (Instr.min.injEq _ _ _ _ _ _ _ _) ⟨rfl, pD_reg (by omega) (by omega) (by omega), pA_reg (by omega) (by omega), pB_reg (by omega)⟩) hw rfl

theorem RoundTrip.max (g : Guard) (d a b : Reg) : RoundTrip.Statement (.max g d a b) := by
  intro hw h t e
  obtain ⟨rfl, rfl⟩ := List.cons.inj e
  exact decode_words (b := build9) (by decide) (by decide) (n := 1) (by decide) rfl rfl rfl rfl (Eq.mpr (Instr.max.injEq _ _ _ _ _ _ _ _) ⟨rfl, pD_reg (by omega) (by omega) (by omega), pA_reg (by omega) (by omega), pB_reg (by omega)⟩) hw rfl

theorem RoundTrip.minn (g : Guard) (d a b : Reg) : RoundTrip.Statement (.minn g d a b) := by
  intro hw h t e
  obtain ⟨rfl, rfl⟩ := List.cons.inj e
  exact decode_words (b := build9) (by decide) (by decide) (n := 1) (by decide) rfl rfl rfl rfl (Eq.mpr (Instr.minn.injEq _ _ _ _ _ _ _ _) ⟨rfl, pD_reg (by omega) (by omega) (by omega), pA_reg (by omega) (by omega), pB_reg (by omega)⟩) hw rfl

theorem RoundTrip.maxn (g : Guard) (d a b : Reg) : RoundTrip.Statement (.maxn g d a b) := by
  intro hw h t e
  obtain ⟨rfl, rfl⟩ := List.cons.inj e
  exact decode_words (b := build9) (by decide) (by decide) (n := 1) (by decide) rfl rfl rfl rfl (Eq.mpr (Instr.maxn.injEq _ _ _ _ _ _ _ _) ⟨rfl, pD_reg (by omega) (by omega) (by omega), pA_reg (by omega) (by omega), pB_reg (by omega)⟩) hw rfl

theorem RoundTrip.addi (g : Guard) (d a : Reg) (imm : BitVec 16) : RoundTrip.Statement (.addi g d a imm) := by
  intro hw h t e
  obtain ⟨rfl, rfl⟩ := List.cons.inj e
  exact decode_words (b := build10) (by decide) (by decide) (n := 2) (by decide) rfl rfl rfl rfl (Eq.mpr (Instr.addi.injEq _ _ _ _ _ _ _ _) ⟨rfl, pD_reg (by omega) (by omega) (by omega), pA_reg (by omega) (by omega), fV_par (by omega)⟩) hw rfl

theorem RoundTrip.shli (g : Guard) (d a : Reg) (n : BitVec 6) : RoundTrip.Statement (.shli g d a n) := by
  intro hw h t e
  obtain ⟨rfl, rfl⟩ := List.cons.inj e
  exact decode_words (b := build10) (by decide) (by decide) (n := 2) (by decide) rfl rfl rfl rfl (Eq.mpr (Instr.shli.injEq _ _ _ _ _ _ _ _) ⟨rfl, pD_reg (by omega) (by omega) (by omega), pA_reg (by omega) (by omega), fV_par (by omega)⟩) hw rfl

theorem RoundTrip.shri (g : Guard) (d a : Reg) (n : BitVec 6) : RoundTrip.Statement (.shri g d a n) := by
  intro hw h t e
  obtain ⟨rfl, rfl⟩ := List.cons.inj e
  exact decode_words (b := build10) (by decide) (by decide) (n := 2) (by decide) rfl rfl rfl rfl (Eq.mpr (Instr.shri.injEq _ _ _ _ _ _ _ _) ⟨rfl, pD_reg (by omega) (by omega) (by omega), pA_reg (by omega) (by omega), fV_par (by omega)⟩) hw rfl

theorem RoundTrip.sari (g : Guard) (d a : Reg) (n : BitVec 6) : RoundTrip.Statement (.sari g d a n) := by
  intro hw h t e
  obtain ⟨rfl, rfl⟩ := List.cons.inj e
  exact decode_words (b := build10) (by decide) (by decide) (n := 2) (by decide) rfl rfl rfl rfl (Eq.mpr (Instr.sari.injEq _ _ _ _ _ _ _ _) ⟨rfl, pD_reg (by omega) (by omega) (by omega), pA_reg (by omega) (by omega), fV_par (by omega)⟩) hw rfl

theorem RoundTrip.addpc (g : Guard) (d : Reg) (t : BitVec 32) : RoundTrip.Statement (.addpc g d t) := by
  intro hw h t e
  obtain ⟨rfl, rfl⟩ := List.cons.inj e
  exact decode_words (b := build11) (by decide) (by decide) (n := 3) (by decide) rfl rfl rfl rfl (Eq.mpr (Instr.addpc.injEq _ _ _ _ _ _) ⟨rfl, pD_reg (by omega) (by omega) (by omega), fV_imm2 (by omega) (by omega)⟩) hw rfl

theorem RoundTrip.lui (g : Guard) (d : Reg) (imm : BitVec 16) : RoundTrip.Statement (.lui g d imm) := by
  intro hw h t e
  obtain ⟨rfl, rfl⟩ := List.cons.inj e
  exact decode_words (b := build11) (by decide) (by decide) (n := 2) (by decide) rfl rfl rfl rfl (Eq.mpr (Instr.lui.injEq _ _ _ _ _ _) ⟨rfl, pD_reg (by omega) (by omega) (by omega), fV_par (by omega)⟩) hw rfl

theorem RoundTrip.lim (g : Guard) (d : Reg) (v : BitVec 64) : RoundTrip.Statement (.lim g d v) := by
  intro hw h t e
  obtain ⟨rfl, rfl⟩ := List.cons.inj e
  exact decode_words (b := build11) (by decide) (by decide) (n := 5) (by decide) rfl rfl rfl rfl (Eq.mpr (Instr.lim.injEq _ _ _ _ _ _) ⟨rfl, pD_reg (by omega) (by omega) (by omega), fV_imm4 (by omega) (by omega)⟩) hw rfl

theorem RoundTrip.cmpi (g : Guard) (j : Fin 4) (a : Reg) (unsig : Bool) (imm : BitVec 16) : RoundTrip.Statement (.cmpi g j a unsig imm) := by
  intro hw h t e
  obtain ⟨rfl, rfl⟩ := List.cons.inj e
  have := Bool.toNat_lt unsig
  exact decode_words (b := build11) (by decide) (by decide) (n := 2) (by decide) rfl rfl rfl rfl (Eq.mpr (Instr.cmpi.injEq _ _ _ _ _ _ _ _ _ _) ⟨rfl, pD_fin (by omega) (by omega) (by omega) (by omega), pA_reg (by omega) (by omega), pX_bit, fV_par (by omega)⟩) hw rfl

theorem RoundTrip.clz (g : Guard) (d a : Reg) : RoundTrip.Statement (.clz g d a) := by
  intro hw h t e
  obtain ⟨rfl, rfl⟩ := List.cons.inj e
  exact decode_words (b := build12) (by decide) (by decide) (n := 1) (by decide) rfl rfl rfl rfl (Eq.mpr (Instr.clz.injEq _ _ _ _ _ _) ⟨rfl, pD_reg (by omega) (by omega) (by omega), pA_reg (by omega) (by omega)⟩) hw rfl

theorem RoundTrip.ctz (g : Guard) (d a : Reg) : RoundTrip.Statement (.ctz g d a) := by
  intro hw h t e
  obtain ⟨rfl, rfl⟩ := List.cons.inj e
  exact decode_words (b := build12) (by decide) (by decide) (n := 1) (by decide) rfl rfl rfl rfl (Eq.mpr (Instr.ctz.injEq _ _ _ _ _ _) ⟨rfl, pD_reg (by omega) (by omega) (by omega), pA_reg (by omega) (by omega)⟩) hw rfl

theorem RoundTrip.popc (g : Guard) (d a : Reg) : RoundTrip.Statement (.popc g d a) := by
  intro hw h t e
  obtain ⟨rfl, rfl⟩ := List.cons.inj e
  exact decode_words (b := build12) (by decide) (by decide) (n := 1) (by decide) rfl rfl rfl rfl (Eq.mpr (Instr.popc.injEq _ _ _ _ _ _) ⟨rfl, pD_reg (by omega) (by omega) (by omega), pA_reg (by omega) (by omega)⟩) hw rfl

theorem RoundTrip.bswap (g : Guard) (d a : Reg) : RoundTrip.Statement (.bswap g d a) := by
  intro hw h t e
  obtain ⟨rfl, rfl⟩ := List.cons.inj e
  exact decode_words (b := build12) (by decide) (by decide) (n := 1) (by decide) rfl rfl rfl rfl (Eq.mpr (Instr.bswap.injEq _ _ _ _ _ _) ⟨rfl, pD_reg (by omega) (by omega) (by omega), pA_reg (by omega) (by omega)⟩) hw rfl

theorem RoundTrip.ext (g : Guard) (d a : Reg) (w1 p : BitVec 6) : RoundTrip.Statement (.ext g d a w1 p) := by
  intro hw h t e
  obtain ⟨rfl, rfl⟩ := List.cons.inj e
  exact decode_words (b := build13) (by decide) (by decide) (n := 2) (by decide) rfl rfl rfl rfl (Eq.mpr (Instr.ext.injEq _ _ _ _ _ _ _ _ _ _) ⟨rfl, pD_reg (by omega) (by omega) (by omega), pA_reg (by omega) (by omega), fV_par (by omega), fV_par (by omega)⟩) hw rfl

theorem RoundTrip.extn (g : Guard) (d a : Reg) (w1 p : BitVec 6) : RoundTrip.Statement (.extn g d a w1 p) := by
  intro hw h t e
  obtain ⟨rfl, rfl⟩ := List.cons.inj e
  exact decode_words (b := build13) (by decide) (by decide) (n := 2) (by decide) rfl rfl rfl rfl (Eq.mpr (Instr.extn.injEq _ _ _ _ _ _ _ _ _ _) ⟨rfl, pD_reg (by omega) (by omega) (by omega), pA_reg (by omega) (by omega), fV_par (by omega), fV_par (by omega)⟩) hw rfl

theorem RoundTrip.ins (g : Guard) (d a : Reg) (w1 p : BitVec 6) : RoundTrip.Statement (.ins g d a w1 p) := by
  intro hw h t e
  obtain ⟨rfl, rfl⟩ := List.cons.inj e
  exact decode_words (b := build13) (by decide) (by decide) (n := 2) (by decide) rfl rfl rfl rfl (Eq.mpr (Instr.ins.injEq _ _ _ _ _ _ _ _ _ _) ⟨rfl, pD_reg (by omega) (by omega) (by omega), pA_reg (by omega) (by omega), fV_par (by omega), fV_par (by omega)⟩) hw rfl

theorem RoundTrip.sext (g : Guard) (d a : Reg) (n1 : BitVec 6) : RoundTrip.Statement (.sext g d a n1) := by
  intro hw h t e
  obtain ⟨rfl, rfl⟩ := List.cons.inj e
  exact decode_words (b := build13) (by decide) (by decide) (n := 2) (by decide) rfl rfl rfl rfl (Eq.mpr (Instr.sext.injEq _ _ _ _ _ _ _ _) ⟨rfl, pD_reg (by omega) (by omega) (by omega), pA_reg (by omega) (by omega), fV_par (by omega)⟩) hw rfl

theorem RoundTrip.zext (g : Guard) (d a : Reg) (n1 : BitVec 6) : RoundTrip.Statement (.zext g d a n1) := by
  intro hw h t e
  obtain ⟨rfl, rfl⟩ := List.cons.inj e
  exact decode_words (b := build14) (by decide) (by decide) (n := 2) (by decide) rfl rfl rfl rfl (Eq.mpr (Instr.zext.injEq _ _ _ _ _ _ _ _) ⟨rfl, pD_reg (by omega) (by omega) (by omega), pA_reg (by omega) (by omega), fV_par (by omega)⟩) hw rfl

theorem RoundTrip.cmp (g : Guard) (j : Fin 4) (a b : Reg) (unsig : Bool) : RoundTrip.Statement (.cmp g j a b unsig) := by
  intro hw h t e
  obtain ⟨rfl, rfl⟩ := List.cons.inj e
  have := Bool.toNat_lt unsig
  exact decode_words (b := build14) (by decide) (by decide) (n := 1) (by decide) rfl rfl rfl rfl (Eq.mpr (Instr.cmp.injEq _ _ _ _ _ _ _ _ _ _) ⟨rfl, pD_fin (by omega) (by omega) (by omega) (by omega), pA_reg (by omega) (by omega), pB_reg (by omega), pX_bit⟩) hw rfl

theorem RoundTrip.gop (g : Guard) (op : GopOp) (gd : Fin 8) (na : Bool) (ga : Fin 8) (nb : Bool) (gb : Fin 8) : RoundTrip.Statement (.gop g op gd na ga nb gb) := by
  intro hw h t e
  obtain ⟨rfl, rfl⟩ := List.cons.inj e
  have := GopOp.code_lt op
  have := Bool.toNat_lt na
  have := Bool.toNat_lt nb
  exact decode_words (b := build14) (by decide) (by decide) (n := 1) (by decide) rfl rfl rfl rfl (Eq.mpr (Instr.gop.injEq _ _ _ _ _ _ _ _ _ _ _ _ _ _) ⟨rfl, GopOp.ofCode_of (fN_par (by omega)), fF_par (by omega), fB_par (by omega), fF_par (by omega), fB_par (by omega), fF_par (by omega)⟩) hw rfl

theorem RoundTrip.nop (g : Guard) : RoundTrip.Statement (.nop g) := by
  intro hw h t e
  obtain ⟨rfl, rfl⟩ := List.cons.inj e
  exact decode_words (b := build14) (by decide) (by decide) (n := 0) (by decide) rfl rfl rfl rfl (rfl) hw rfl

theorem RoundTrip.br (g : Guard) (t : BitVec 32) : RoundTrip.Statement (.br g t) := by
  intro hw h t e
  obtain ⟨rfl, rfl⟩ := List.cons.inj e
  exact decode_words (b := build15) (by decide) (by decide) (n := 2) (by decide) rfl rfl rfl rfl (Eq.mpr (Instr.br.injEq _ _ _ _) ⟨rfl, fV_imm2 (by omega) (by omega)⟩) hw rfl

theorem RoundTrip.jl (g : Guard) (t : BitVec 32) : RoundTrip.Statement (.jl g t) := by
  intro hw h t e
  obtain ⟨rfl, rfl⟩ := List.cons.inj e
  exact decode_words (b := build15) (by decide) (by decide) (n := 2) (by decide) rfl rfl rfl rfl (Eq.mpr (Instr.jl.injEq _ _ _ _) ⟨rfl, fV_imm2 (by omega) (by omega)⟩) hw rfl

theorem RoundTrip.jlr (g : Guard) (d a : Reg) : RoundTrip.Statement (.jlr g d a) := by
  intro hw h t e
  obtain ⟨rfl, rfl⟩ := List.cons.inj e
  exact decode_words (b := build15) (by decide) (by decide) (n := 1) (by decide) rfl rfl rfl rfl (Eq.mpr (Instr.jlr.injEq _ _ _ _ _ _) ⟨rfl, pD_reg (by omega) (by omega) (by omega), pA_reg (by omega) (by omega)⟩) hw rfl

theorem RoundTrip.trap (g : Guard) (code : BitVec 16) : RoundTrip.Statement (.trap g code) := by
  intro hw h t e
  obtain ⟨rfl, rfl⟩ := List.cons.inj e
  exact decode_words (b := build15) (by decide) (by decide) (n := 1) (by decide) rfl rfl rfl rfl (Eq.mpr (Instr.trap.injEq _ _ _ _) ⟨rfl, fV_par (by omega)⟩) hw rfl

theorem RoundTrip.lpset (g : Guard) (count u : BitVec 16) : RoundTrip.Statement (.lpset g count u) := by
  intro hw h t e
  obtain ⟨rfl, rfl⟩ := List.cons.inj e
  exact decode_words (b := build16) (by decide) (by decide) (n := 2) (by decide) rfl rfl rfl rfl (Eq.mpr (Instr.lpset.injEq _ _ _ _ _ _) ⟨rfl, fV_imm2 (by omega) (by omega), fV_imm2 (by omega) (by omega)⟩) hw rfl

theorem RoundTrip.lpsetr (g : Guard) (a : Reg) (u : BitVec 16) : RoundTrip.Statement (.lpsetr g a u) := by
  intro hw h t e
  obtain ⟨rfl, rfl⟩ := List.cons.inj e
  exact decode_words (b := build16) (by decide) (by decide) (n := 2) (by decide) rfl rfl rfl rfl (Eq.mpr (Instr.lpsetr.injEq _ _ _ _ _ _) ⟨rfl, pA_reg (by omega) (by omega), fV_par (by omega)⟩) hw rfl

theorem RoundTrip.lpbrk (g : Guard) : RoundTrip.Statement (.lpbrk g) := by
  intro hw h t e
  obtain ⟨rfl, rfl⟩ := List.cons.inj e
  exact decode_words (b := build16) (by decide) (by decide) (n := 0) (by decide) rfl rfl rfl rfl (rfl) hw rfl

theorem RoundTrip.eret (g : Guard) : RoundTrip.Statement (.eret g) := by
  intro hw h t e
  obtain ⟨rfl, rfl⟩ := List.cons.inj e
  exact decode_words (b := build16) (by decide) (by decide) (n := 0) (by decide) rfl rfl rfl rfl (rfl) hw rfl

theorem RoundTrip.csrr (g : Guard) (d : Reg) (csr : BitVec 12) : RoundTrip.Statement (.csrr g d csr) := by
  intro hw h t e
  obtain ⟨rfl, rfl⟩ := List.cons.inj e
  refine decode_words (b := build17) (by decide) (by decide) (n := 2) (by decide) rfl rfl rfl rfl ?_ hw rfl
  obtain ⟨h1, h5⟩ := csrReadable_ne hw
  have hc : (par csr.toNat 0).toNat = csr.toNat := by rw [par_toNat]; omega
  simp only [build17, tk, List.getD_cons_zero, List.getD_cons_succ, hc, h1, h5, if_false, false_and, ne_eq, and_false, not_true_eq_false]
  exact Eq.mpr (Instr.csrr.injEq _ _ _ _ _ _) ⟨rfl, pD_reg (by omega) (by omega) (by omega), fV_of (by omega)⟩

theorem RoundTrip.csrw (g : Guard) (d a : Reg) (csr : BitVec 12) : RoundTrip.Statement (.csrw g d a csr) := by
  intro hw h t e
  obtain ⟨rfl, rfl⟩ := List.cons.inj e
  refine decode_words (b := build17) (by decide) (by decide) (n := 2) (by decide) rfl rfl rfl rfl ?_ hw rfl
  obtain ⟨h1, h2, h3, h5⟩ := csrWritable_ne hw
  have hc : (par csr.toNat 0).toNat = csr.toNat := by rw [par_toNat]; omega
  simp only [build17, tk, List.getD_cons_zero, List.getD_cons_succ, hc, h1, h2, h3, h5, if_false, false_and, ne_eq]
  exact Eq.mpr (Instr.csrw.injEq _ _ _ _ _ _ _ _) ⟨rfl, pD_reg (by omega) (by omega) (by omega), pA_reg (by omega) (by omega), fV_of (by omega)⟩

theorem RoundTrip.csrs (g : Guard) (d a : Reg) (csr : BitVec 12) : RoundTrip.Statement (.csrs g d a csr) := by
  intro hw h t e
  obtain ⟨rfl, rfl⟩ := List.cons.inj e
  refine decode_words (b := build17) (by decide) (by decide) (n := 2) (by decide) rfl rfl rfl rfl ?_ hw rfl
  obtain ⟨h1, h2, h3, h5⟩ := csrWritable_ne hw
  have hc : (par csr.toNat 0).toNat = csr.toNat := by rw [par_toNat]; omega
  simp only [build17, tk, List.getD_cons_zero, List.getD_cons_succ, hc, h1, h2, h3, h5, if_false, false_and, ne_eq]
  exact Eq.mpr (Instr.csrs.injEq _ _ _ _ _ _ _ _) ⟨rfl, pD_reg (by omega) (by omega) (by omega), pA_reg (by omega) (by omega), fV_of (by omega)⟩

theorem RoundTrip.csrc (g : Guard) (d a : Reg) (csr : BitVec 12) : RoundTrip.Statement (.csrc g d a csr) := by
  intro hw h t e
  obtain ⟨rfl, rfl⟩ := List.cons.inj e
  refine decode_words (b := build17) (by decide) (by decide) (n := 2) (by decide) rfl rfl rfl rfl ?_ hw rfl
  obtain ⟨h1, h2, h3, h5⟩ := csrWritable_ne hw
  have hc : (par csr.toNat 0).toNat = csr.toNat := by rw [par_toNat]; omega
  simp only [build17, tk, List.getD_cons_zero, List.getD_cons_succ, hc, h1, h2, h3, h5, if_false, false_and, ne_eq]
  exact Eq.mpr (Instr.csrc.injEq _ _ _ _ _ _ _ _) ⟨rfl, pD_reg (by omega) (by omega) (by omega), pA_reg (by omega) (by omega), fV_of (by omega)⟩

theorem RoundTrip.fpstatAccess (g : Guard) (op : CsrOp) (d a : Reg) : RoundTrip.Statement (.fpstatAccess g op d a) := by
  intro hw h t e
  cases op
  · obtain ⟨rfl, rfl⟩ := List.cons.inj e
    exact decode_words (b := build17) (by decide) (by decide) (n := 2) (by decide) rfl rfl rfl rfl (Eq.mpr (Instr.fpstatAccess.injEq _ _ _ _ _ _ _ _) ⟨rfl, rfl, pD_reg (by omega) (by omega) (by omega), pA_reg (by omega) (by omega)⟩) hw rfl
  · obtain ⟨rfl, rfl⟩ := List.cons.inj e
    exact decode_words (b := build17) (by decide) (by decide) (n := 2) (by decide) rfl rfl rfl rfl (Eq.mpr (Instr.fpstatAccess.injEq _ _ _ _ _ _ _ _) ⟨rfl, rfl, pD_reg (by omega) (by omega) (by omega), pA_reg (by omega) (by omega)⟩) hw rfl
  · obtain ⟨rfl, rfl⟩ := List.cons.inj e
    exact decode_words (b := build17) (by decide) (by decide) (n := 2) (by decide) rfl rfl rfl rfl (Eq.mpr (Instr.fpstatAccess.injEq _ _ _ _ _ _ _ _) ⟨rfl, rfl, pD_reg (by omega) (by omega) (by omega), pA_reg (by omega) (by omega)⟩) hw rfl
  · obtain ⟨rfl, rfl⟩ := List.cons.inj e
    exact decode_words (b := build17) (by decide) (by decide) (n := 2) (by decide) rfl rfl rfl rfl (Eq.mpr (Instr.fpstatAccess.injEq _ _ _ _ _ _ _ _) ⟨rfl, rfl, pD_reg (by omega) (by omega) (by omega), pA_reg (by omega) (by omega)⟩) hw rfl

theorem RoundTrip.qportRead (g : Guard) (d : Reg) (q : Fin 4) : RoundTrip.Statement (.qportRead g d q) := by
  intro hw h t e
  obtain ⟨rfl, rfl⟩ := List.cons.inj e
  have hc : (par (0x108 + q.val) 0).toNat = 0x108 + q.val := by rw [par_toNat]; omega
  refine decode_words (b := build17) (by decide) (by decide) (n := 2) (by decide) rfl rfl rfl rfl ?_ hw rfl
  simp only [build17, tk, List.getD_cons_zero, List.getD_cons_succ, hc]
  rw [if_neg (by omega), if_neg (by omega), if_neg (by omega), if_pos ⟨by omega, trivial⟩]
  exact Eq.mpr (Instr.qportRead.injEq _ _ _ _ _ _) ⟨rfl, pD_reg (by omega) (by omega) (by omega), Fin.ext (by show (0x108 + q.val) % 4 = q.val; omega)⟩

theorem RoundTrip.qportWrite (g : Guard) (d a : Reg) (q : Fin 4) : RoundTrip.Statement (.qportWrite g d a q) := by
  intro hw h t e
  obtain ⟨rfl, rfl⟩ := List.cons.inj e
  have hc : (par (0x108 + q.val) 0).toNat = 0x108 + q.val := by rw [par_toNat]; omega
  refine decode_words (b := build17) (by decide) (by decide) (n := 2) (by decide) rfl rfl rfl rfl ?_ hw rfl
  simp only [build17, tk, List.getD_cons_zero, List.getD_cons_succ, hc]
  rw [if_neg (by omega), if_neg (by omega), if_neg (by omega), if_neg (by omega), if_pos ⟨by omega, trivial⟩]
  exact Eq.mpr (Instr.qportWrite.injEq _ _ _ _ _ _ _ _) ⟨rfl, pD_reg (by omega) (by omega) (by omega), pA_reg (by omega) (by omega), Fin.ext (by show (0x108 + q.val) % 4 = q.val; omega)⟩

theorem RoundTrip.lhstRet (g : Guard) (op : CsrOp) (d a : Reg) : RoundTrip.Statement (.lhstRet g op d a) := by
  intro hw h t e
  cases op
  · exact absurd (show false = true from hw) (by decide)
  · obtain ⟨rfl, rfl⟩ := List.cons.inj e
    exact decode_words (b := build17) (by decide) (by decide) (n := 2) (by decide) rfl rfl rfl rfl (Eq.mpr (Instr.lhstRet.injEq _ _ _ _ _ _ _ _) ⟨rfl, rfl, pD_reg (by omega) (by omega) (by omega), pA_reg (by omega) (by omega)⟩) hw rfl
  · obtain ⟨rfl, rfl⟩ := List.cons.inj e
    exact decode_words (b := build17) (by decide) (by decide) (n := 2) (by decide) rfl rfl rfl rfl (Eq.mpr (Instr.lhstRet.injEq _ _ _ _ _ _ _ _) ⟨rfl, rfl, pD_reg (by omega) (by omega) (by omega), pA_reg (by omega) (by omega)⟩) hw rfl
  · obtain ⟨rfl, rfl⟩ := List.cons.inj e
    exact decode_words (b := build17) (by decide) (by decide) (n := 2) (by decide) rfl rfl rfl rfl (Eq.mpr (Instr.lhstRet.injEq _ _ _ _ _ _ _ _) ⟨rfl, rfl, pD_reg (by omega) (by omega) (by omega), pA_reg (by omega) (by omega)⟩) hw rfl

theorem RoundTrip.ld (g : Guard) (z : Size) (d a : Reg) (imm : BitVec 16) (sync : Option Eng) : RoundTrip.Statement (.ld g z d a imm sync) := by
  intro hw h t e
  cases sync <;> cases z
  · obtain ⟨rfl, rfl⟩ := List.cons.inj e
    exact decode_words (b := build18) (by decide) (by decide) (n := 2) (by decide) rfl rfl rfl (lengthOf_sync (x := false)).symm
      (Eq.mpr (Instr.ld.injEq _ _ _ _ _ _ _ _ _ _ _ _) ⟨rfl, rfl, pD_reg (by omega) (by omega) (Bool.toNat_lt _), pA_reg (by omega) (Bool.toNat_lt _), fV_par (by omega), syncOf_none⟩) hw rfl
  · obtain ⟨rfl, rfl⟩ := List.cons.inj e
    exact decode_words (b := build18) (by decide) (by decide) (n := 2) (by decide) rfl rfl rfl (lengthOf_sync (x := false)).symm
      (Eq.mpr (Instr.ld.injEq _ _ _ _ _ _ _ _ _ _ _ _) ⟨rfl, rfl, pD_reg (by omega) (by omega) (Bool.toNat_lt _), pA_reg (by omega) (Bool.toNat_lt _), fV_par (by omega), syncOf_none⟩) hw rfl
  · obtain ⟨rfl, rfl⟩ := List.cons.inj e
    exact decode_words (b := build18) (by decide) (by decide) (n := 2) (by decide) rfl rfl rfl (lengthOf_sync (x := false)).symm
      (Eq.mpr (Instr.ld.injEq _ _ _ _ _ _ _ _ _ _ _ _) ⟨rfl, rfl, pD_reg (by omega) (by omega) (Bool.toNat_lt _), pA_reg (by omega) (Bool.toNat_lt _), fV_par (by omega), syncOf_none⟩) hw rfl
  · obtain ⟨rfl, rfl⟩ := List.cons.inj e
    exact decode_words (b := build18) (by decide) (by decide) (n := 2) (by decide) rfl rfl rfl (lengthOf_sync (x := false)).symm
      (Eq.mpr (Instr.ld.injEq _ _ _ _ _ _ _ _ _ _ _ _) ⟨rfl, rfl, pD_reg (by omega) (by omega) (Bool.toNat_lt _), pA_reg (by omega) (Bool.toNat_lt _), fV_par (by omega), syncOf_none⟩) hw rfl
  · obtain ⟨rfl, rfl⟩ := List.cons.inj e
    exact decode_words (b := build18) (by decide) (by decide) (n := 4) (by decide) rfl rfl rfl (lengthOf_sync (x := true)).symm
      (Eq.mpr (Instr.ld.injEq _ _ _ _ _ _ _ _ _ _ _ _) ⟨rfl, rfl, pD_reg (by omega) (by omega) (Bool.toNat_lt _), pA_reg (by omega) (Bool.toNat_lt _), fV_par (by omega), syncOf_some⟩) hw rfl
  · obtain ⟨rfl, rfl⟩ := List.cons.inj e
    exact decode_words (b := build18) (by decide) (by decide) (n := 4) (by decide) rfl rfl rfl (lengthOf_sync (x := true)).symm
      (Eq.mpr (Instr.ld.injEq _ _ _ _ _ _ _ _ _ _ _ _) ⟨rfl, rfl, pD_reg (by omega) (by omega) (Bool.toNat_lt _), pA_reg (by omega) (Bool.toNat_lt _), fV_par (by omega), syncOf_some⟩) hw rfl
  · obtain ⟨rfl, rfl⟩ := List.cons.inj e
    exact decode_words (b := build18) (by decide) (by decide) (n := 4) (by decide) rfl rfl rfl (lengthOf_sync (x := true)).symm
      (Eq.mpr (Instr.ld.injEq _ _ _ _ _ _ _ _ _ _ _ _) ⟨rfl, rfl, pD_reg (by omega) (by omega) (Bool.toNat_lt _), pA_reg (by omega) (Bool.toNat_lt _), fV_par (by omega), syncOf_some⟩) hw rfl
  · obtain ⟨rfl, rfl⟩ := List.cons.inj e
    exact decode_words (b := build18) (by decide) (by decide) (n := 4) (by decide) rfl rfl rfl (lengthOf_sync (x := true)).symm
      (Eq.mpr (Instr.ld.injEq _ _ _ _ _ _ _ _ _ _ _ _) ⟨rfl, rfl, pD_reg (by omega) (by omega) (Bool.toNat_lt _), pA_reg (by omega) (Bool.toNat_lt _), fV_par (by omega), syncOf_some⟩) hw rfl

theorem RoundTrip.ldn (g : Guard) (z : Size) (d a : Reg) (imm : BitVec 16) (sync : Option Eng) : RoundTrip.Statement (.ldn g z d a imm sync) := by
  intro hw h t e
  cases sync <;> cases z
  · obtain ⟨rfl, rfl⟩ := List.cons.inj e
    exact decode_words (b := build19) (by decide) (by decide) (n := 2) (by decide) rfl rfl rfl (lengthOf_sync (x := false)).symm
      (Eq.mpr (Instr.ldn.injEq _ _ _ _ _ _ _ _ _ _ _ _) ⟨rfl, rfl, pD_reg (by omega) (by omega) (Bool.toNat_lt _), pA_reg (by omega) (Bool.toNat_lt _), fV_par (by omega), syncOf_none⟩) hw rfl
  · obtain ⟨rfl, rfl⟩ := List.cons.inj e
    exact decode_words (b := build19) (by decide) (by decide) (n := 2) (by decide) rfl rfl rfl (lengthOf_sync (x := false)).symm
      (Eq.mpr (Instr.ldn.injEq _ _ _ _ _ _ _ _ _ _ _ _) ⟨rfl, rfl, pD_reg (by omega) (by omega) (Bool.toNat_lt _), pA_reg (by omega) (Bool.toNat_lt _), fV_par (by omega), syncOf_none⟩) hw rfl
  · obtain ⟨rfl, rfl⟩ := List.cons.inj e
    exact decode_words (b := build19) (by decide) (by decide) (n := 2) (by decide) rfl rfl rfl (lengthOf_sync (x := false)).symm
      (Eq.mpr (Instr.ldn.injEq _ _ _ _ _ _ _ _ _ _ _ _) ⟨rfl, rfl, pD_reg (by omega) (by omega) (Bool.toNat_lt _), pA_reg (by omega) (Bool.toNat_lt _), fV_par (by omega), syncOf_none⟩) hw rfl
  · obtain ⟨rfl, rfl⟩ := List.cons.inj e
    exact decode_words (b := build19) (by decide) (by decide) (n := 2) (by decide) rfl rfl rfl (lengthOf_sync (x := false)).symm
      (Eq.mpr (Instr.ldn.injEq _ _ _ _ _ _ _ _ _ _ _ _) ⟨rfl, rfl, pD_reg (by omega) (by omega) (Bool.toNat_lt _), pA_reg (by omega) (Bool.toNat_lt _), fV_par (by omega), syncOf_none⟩) hw rfl
  · obtain ⟨rfl, rfl⟩ := List.cons.inj e
    exact decode_words (b := build19) (by decide) (by decide) (n := 4) (by decide) rfl rfl rfl (lengthOf_sync (x := true)).symm
      (Eq.mpr (Instr.ldn.injEq _ _ _ _ _ _ _ _ _ _ _ _) ⟨rfl, rfl, pD_reg (by omega) (by omega) (Bool.toNat_lt _), pA_reg (by omega) (Bool.toNat_lt _), fV_par (by omega), syncOf_some⟩) hw rfl
  · obtain ⟨rfl, rfl⟩ := List.cons.inj e
    exact decode_words (b := build19) (by decide) (by decide) (n := 4) (by decide) rfl rfl rfl (lengthOf_sync (x := true)).symm
      (Eq.mpr (Instr.ldn.injEq _ _ _ _ _ _ _ _ _ _ _ _) ⟨rfl, rfl, pD_reg (by omega) (by omega) (Bool.toNat_lt _), pA_reg (by omega) (Bool.toNat_lt _), fV_par (by omega), syncOf_some⟩) hw rfl
  · obtain ⟨rfl, rfl⟩ := List.cons.inj e
    exact decode_words (b := build19) (by decide) (by decide) (n := 4) (by decide) rfl rfl rfl (lengthOf_sync (x := true)).symm
      (Eq.mpr (Instr.ldn.injEq _ _ _ _ _ _ _ _ _ _ _ _) ⟨rfl, rfl, pD_reg (by omega) (by omega) (Bool.toNat_lt _), pA_reg (by omega) (Bool.toNat_lt _), fV_par (by omega), syncOf_some⟩) hw rfl
  · obtain ⟨rfl, rfl⟩ := List.cons.inj e
    exact decode_words (b := build19) (by decide) (by decide) (n := 4) (by decide) rfl rfl rfl (lengthOf_sync (x := true)).symm
      (Eq.mpr (Instr.ldn.injEq _ _ _ _ _ _ _ _ _ _ _ _) ⟨rfl, rfl, pD_reg (by omega) (by omega) (Bool.toNat_lt _), pA_reg (by omega) (Bool.toNat_lt _), fV_par (by omega), syncOf_some⟩) hw rfl

theorem RoundTrip.st (g : Guard) (z : Size) (d a : Reg) (imm : BitVec 16) (sync : Option Eng) : RoundTrip.Statement (.st g z d a imm sync) := by
  intro hw h t e
  cases sync <;> cases z
  · obtain ⟨rfl, rfl⟩ := List.cons.inj e
    exact decode_words (b := build20) (by decide) (by decide) (n := 2) (by decide) rfl rfl rfl (lengthOf_sync (x := false)).symm
      (Eq.mpr (Instr.st.injEq _ _ _ _ _ _ _ _ _ _ _ _) ⟨rfl, rfl, pD_reg (by omega) (by omega) (Bool.toNat_lt _), pA_reg (by omega) (Bool.toNat_lt _), fV_par (by omega), syncOf_none⟩) hw rfl
  · obtain ⟨rfl, rfl⟩ := List.cons.inj e
    exact decode_words (b := build20) (by decide) (by decide) (n := 2) (by decide) rfl rfl rfl (lengthOf_sync (x := false)).symm
      (Eq.mpr (Instr.st.injEq _ _ _ _ _ _ _ _ _ _ _ _) ⟨rfl, rfl, pD_reg (by omega) (by omega) (Bool.toNat_lt _), pA_reg (by omega) (Bool.toNat_lt _), fV_par (by omega), syncOf_none⟩) hw rfl
  · obtain ⟨rfl, rfl⟩ := List.cons.inj e
    exact decode_words (b := build20) (by decide) (by decide) (n := 2) (by decide) rfl rfl rfl (lengthOf_sync (x := false)).symm
      (Eq.mpr (Instr.st.injEq _ _ _ _ _ _ _ _ _ _ _ _) ⟨rfl, rfl, pD_reg (by omega) (by omega) (Bool.toNat_lt _), pA_reg (by omega) (Bool.toNat_lt _), fV_par (by omega), syncOf_none⟩) hw rfl
  · obtain ⟨rfl, rfl⟩ := List.cons.inj e
    exact decode_words (b := build20) (by decide) (by decide) (n := 2) (by decide) rfl rfl rfl (lengthOf_sync (x := false)).symm
      (Eq.mpr (Instr.st.injEq _ _ _ _ _ _ _ _ _ _ _ _) ⟨rfl, rfl, pD_reg (by omega) (by omega) (Bool.toNat_lt _), pA_reg (by omega) (Bool.toNat_lt _), fV_par (by omega), syncOf_none⟩) hw rfl
  · obtain ⟨rfl, rfl⟩ := List.cons.inj e
    exact decode_words (b := build20) (by decide) (by decide) (n := 4) (by decide) rfl rfl rfl (lengthOf_sync (x := true)).symm
      (Eq.mpr (Instr.st.injEq _ _ _ _ _ _ _ _ _ _ _ _) ⟨rfl, rfl, pD_reg (by omega) (by omega) (Bool.toNat_lt _), pA_reg (by omega) (Bool.toNat_lt _), fV_par (by omega), syncOf_some⟩) hw rfl
  · obtain ⟨rfl, rfl⟩ := List.cons.inj e
    exact decode_words (b := build20) (by decide) (by decide) (n := 4) (by decide) rfl rfl rfl (lengthOf_sync (x := true)).symm
      (Eq.mpr (Instr.st.injEq _ _ _ _ _ _ _ _ _ _ _ _) ⟨rfl, rfl, pD_reg (by omega) (by omega) (Bool.toNat_lt _), pA_reg (by omega) (Bool.toNat_lt _), fV_par (by omega), syncOf_some⟩) hw rfl
  · obtain ⟨rfl, rfl⟩ := List.cons.inj e
    exact decode_words (b := build20) (by decide) (by decide) (n := 4) (by decide) rfl rfl rfl (lengthOf_sync (x := true)).symm
      (Eq.mpr (Instr.st.injEq _ _ _ _ _ _ _ _ _ _ _ _) ⟨rfl, rfl, pD_reg (by omega) (by omega) (Bool.toNat_lt _), pA_reg (by omega) (Bool.toNat_lt _), fV_par (by omega), syncOf_some⟩) hw rfl
  · obtain ⟨rfl, rfl⟩ := List.cons.inj e
    exact decode_words (b := build20) (by decide) (by decide) (n := 4) (by decide) rfl rfl rfl (lengthOf_sync (x := true)).symm
      (Eq.mpr (Instr.st.injEq _ _ _ _ _ _ _ _ _ _ _ _) ⟨rfl, rfl, pD_reg (by omega) (by omega) (Bool.toNat_lt _), pA_reg (by omega) (Bool.toNat_lt _), fV_par (by omega), syncOf_some⟩) hw rfl

theorem RoundTrip.ldx (g : Guard) (z : Size) (d a b : Reg) : RoundTrip.Statement (.ldx g z d a b) := by
  intro hw h t e
  cases z
  · obtain ⟨rfl, rfl⟩ := List.cons.inj e
    have hx : pX (rparcel d.val a.val b.val 0) = false := pX_bit (x := false)
    refine decode_words (b := build21) (by decide) (by decide) (n := 1) (by decide) rfl rfl rfl (lengthOf_sync (x := false)).symm ?_ hw rfl
    refine (if_neg (by rw [show tk _ 0 = rparcel d.val a.val b.val 0 from rfl, hx]; decide)).trans ?_
    exact Eq.mpr (Instr.ldx.injEq _ _ _ _ _ _ _ _ _ _) ⟨rfl, rfl, pD_reg (by omega) (by omega) (by omega), pA_reg (by omega) (by omega), pB_reg (by omega)⟩
  · obtain ⟨rfl, rfl⟩ := List.cons.inj e
    have hx : pX (rparcel d.val a.val b.val 0) = false := pX_bit (x := false)
    refine decode_words (b := build21) (by decide) (by decide) (n := 1) (by decide) rfl rfl rfl (lengthOf_sync (x := false)).symm ?_ hw rfl
    refine (if_neg (by rw [show tk _ 0 = rparcel d.val a.val b.val 0 from rfl, hx]; decide)).trans ?_
    exact Eq.mpr (Instr.ldx.injEq _ _ _ _ _ _ _ _ _ _) ⟨rfl, rfl, pD_reg (by omega) (by omega) (by omega), pA_reg (by omega) (by omega), pB_reg (by omega)⟩
  · obtain ⟨rfl, rfl⟩ := List.cons.inj e
    have hx : pX (rparcel d.val a.val b.val 0) = false := pX_bit (x := false)
    refine decode_words (b := build21) (by decide) (by decide) (n := 1) (by decide) rfl rfl rfl (lengthOf_sync (x := false)).symm ?_ hw rfl
    refine (if_neg (by rw [show tk _ 0 = rparcel d.val a.val b.val 0 from rfl, hx]; decide)).trans ?_
    exact Eq.mpr (Instr.ldx.injEq _ _ _ _ _ _ _ _ _ _) ⟨rfl, rfl, pD_reg (by omega) (by omega) (by omega), pA_reg (by omega) (by omega), pB_reg (by omega)⟩
  · obtain ⟨rfl, rfl⟩ := List.cons.inj e
    have hx : pX (rparcel d.val a.val b.val 0) = false := pX_bit (x := false)
    refine decode_words (b := build21) (by decide) (by decide) (n := 1) (by decide) rfl rfl rfl (lengthOf_sync (x := false)).symm ?_ hw rfl
    refine (if_neg (by rw [show tk _ 0 = rparcel d.val a.val b.val 0 from rfl, hx]; decide)).trans ?_
    exact Eq.mpr (Instr.ldx.injEq _ _ _ _ _ _ _ _ _ _) ⟨rfl, rfl, pD_reg (by omega) (by omega) (by omega), pA_reg (by omega) (by omega), pB_reg (by omega)⟩

theorem RoundTrip.ldxSync (g : Guard) (z : Size) (d a b : Reg) (eng : Eng) : RoundTrip.Statement (.ldxSync g z d a b eng) := by
  intro hw h t e
  cases z
  · obtain ⟨rfl, rfl⟩ := List.cons.inj e
    have hx : pX (rparcel d.val a.val b.val 1) = true := pX_bit (x := true)
    refine decode_words (b := build21) (by decide) (by decide) (n := 3) (by decide) rfl rfl rfl (lengthOf_sync (x := true)).symm ?_ hw rfl
    refine (if_pos hx).trans ?_
    exact Eq.mpr (Instr.ldxSync.injEq _ _ _ _ _ _ _ _ _ _ _ _) ⟨rfl, rfl, pD_reg (by omega) (by omega) (by omega), pA_reg (by omega) (by omega), pB_reg (by omega), engOf_parcels _⟩
  · obtain ⟨rfl, rfl⟩ := List.cons.inj e
    have hx : pX (rparcel d.val a.val b.val 1) = true := pX_bit (x := true)
    refine decode_words (b := build21) (by decide) (by decide) (n := 3) (by decide) rfl rfl rfl (lengthOf_sync (x := true)).symm ?_ hw rfl
    refine (if_pos hx).trans ?_
    exact Eq.mpr (Instr.ldxSync.injEq _ _ _ _ _ _ _ _ _ _ _ _) ⟨rfl, rfl, pD_reg (by omega) (by omega) (by omega), pA_reg (by omega) (by omega), pB_reg (by omega), engOf_parcels _⟩
  · obtain ⟨rfl, rfl⟩ := List.cons.inj e
    have hx : pX (rparcel d.val a.val b.val 1) = true := pX_bit (x := true)
    refine decode_words (b := build21) (by decide) (by decide) (n := 3) (by decide) rfl rfl rfl (lengthOf_sync (x := true)).symm ?_ hw rfl
    refine (if_pos hx).trans ?_
    exact Eq.mpr (Instr.ldxSync.injEq _ _ _ _ _ _ _ _ _ _ _ _) ⟨rfl, rfl, pD_reg (by omega) (by omega) (by omega), pA_reg (by omega) (by omega), pB_reg (by omega), engOf_parcels _⟩
  · obtain ⟨rfl, rfl⟩ := List.cons.inj e
    have hx : pX (rparcel d.val a.val b.val 1) = true := pX_bit (x := true)
    refine decode_words (b := build21) (by decide) (by decide) (n := 3) (by decide) rfl rfl rfl (lengthOf_sync (x := true)).symm ?_ hw rfl
    refine (if_pos hx).trans ?_
    exact Eq.mpr (Instr.ldxSync.injEq _ _ _ _ _ _ _ _ _ _ _ _) ⟨rfl, rfl, pD_reg (by omega) (by omega) (by omega), pA_reg (by omega) (by omega), pB_reg (by omega), engOf_parcels _⟩

theorem RoundTrip.stx (g : Guard) (z : Size) (d a b : Reg) : RoundTrip.Statement (.stx g z d a b) := by
  intro hw h t e
  cases z
  · obtain ⟨rfl, rfl⟩ := List.cons.inj e
    have hx : pX (rparcel d.val a.val b.val 0) = false := pX_bit (x := false)
    refine decode_words (b := build22) (by decide) (by decide) (n := 1) (by decide) rfl rfl rfl (lengthOf_sync (x := false)).symm ?_ hw rfl
    refine (if_neg (by rw [show tk _ 0 = rparcel d.val a.val b.val 0 from rfl, hx]; decide)).trans ?_
    exact Eq.mpr (Instr.stx.injEq _ _ _ _ _ _ _ _ _ _) ⟨rfl, rfl, pD_reg (by omega) (by omega) (by omega), pA_reg (by omega) (by omega), pB_reg (by omega)⟩
  · obtain ⟨rfl, rfl⟩ := List.cons.inj e
    have hx : pX (rparcel d.val a.val b.val 0) = false := pX_bit (x := false)
    refine decode_words (b := build22) (by decide) (by decide) (n := 1) (by decide) rfl rfl rfl (lengthOf_sync (x := false)).symm ?_ hw rfl
    refine (if_neg (by rw [show tk _ 0 = rparcel d.val a.val b.val 0 from rfl, hx]; decide)).trans ?_
    exact Eq.mpr (Instr.stx.injEq _ _ _ _ _ _ _ _ _ _) ⟨rfl, rfl, pD_reg (by omega) (by omega) (by omega), pA_reg (by omega) (by omega), pB_reg (by omega)⟩
  · obtain ⟨rfl, rfl⟩ := List.cons.inj e
    have hx : pX (rparcel d.val a.val b.val 0) = false := pX_bit (x := false)
    refine decode_words (b := build22) (by decide) (by decide) (n := 1) (by decide) rfl rfl rfl (lengthOf_sync (x := false)).symm ?_ hw rfl
    refine (if_neg (by rw [show tk _ 0 = rparcel d.val a.val b.val 0 from rfl, hx]; decide)).trans ?_
    exact Eq.mpr (Instr.stx.injEq _ _ _ _ _ _ _ _ _ _) ⟨rfl, rfl, pD_reg (by omega) (by omega) (by omega), pA_reg (by omega) (by omega), pB_reg (by omega)⟩
  · obtain ⟨rfl, rfl⟩ := List.cons.inj e
    have hx : pX (rparcel d.val a.val b.val 0) = false := pX_bit (x := false)
    refine decode_words (b := build22) (by decide) (by decide) (n := 1) (by decide) rfl rfl rfl (lengthOf_sync (x := false)).symm ?_ hw rfl
    refine (if_neg (by rw [show tk _ 0 = rparcel d.val a.val b.val 0 from rfl, hx]; decide)).trans ?_
    exact Eq.mpr (Instr.stx.injEq _ _ _ _ _ _ _ _ _ _) ⟨rfl, rfl, pD_reg (by omega) (by omega) (by omega), pA_reg (by omega) (by omega), pB_reg (by omega)⟩

theorem RoundTrip.stxSync (g : Guard) (z : Size) (d a b : Reg) (eng : Eng) : RoundTrip.Statement (.stxSync g z d a b eng) := by
  intro hw h t e
  cases z
  · obtain ⟨rfl, rfl⟩ := List.cons.inj e
    have hx : pX (rparcel d.val a.val b.val 1) = true := pX_bit (x := true)
    refine decode_words (b := build22) (by decide) (by decide) (n := 3) (by decide) rfl rfl rfl (lengthOf_sync (x := true)).symm ?_ hw rfl
    refine (if_pos hx).trans ?_
    exact Eq.mpr (Instr.stxSync.injEq _ _ _ _ _ _ _ _ _ _ _ _) ⟨rfl, rfl, pD_reg (by omega) (by omega) (by omega), pA_reg (by omega) (by omega), pB_reg (by omega), engOf_parcels _⟩
  · obtain ⟨rfl, rfl⟩ := List.cons.inj e
    have hx : pX (rparcel d.val a.val b.val 1) = true := pX_bit (x := true)
    refine decode_words (b := build22) (by decide) (by decide) (n := 3) (by decide) rfl rfl rfl (lengthOf_sync (x := true)).symm ?_ hw rfl
    refine (if_pos hx).trans ?_
    exact Eq.mpr (Instr.stxSync.injEq _ _ _ _ _ _ _ _ _ _ _ _) ⟨rfl, rfl, pD_reg (by omega) (by omega) (by omega), pA_reg (by omega) (by omega), pB_reg (by omega), engOf_parcels _⟩
  · obtain ⟨rfl, rfl⟩ := List.cons.inj e
    have hx : pX (rparcel d.val a.val b.val 1) = true := pX_bit (x := true)
    refine decode_words (b := build22) (by decide) (by decide) (n := 3) (by decide) rfl rfl rfl (lengthOf_sync (x := true)).symm ?_ hw rfl
    refine (if_pos hx).trans ?_
    exact Eq.mpr (Instr.stxSync.injEq _ _ _ _ _ _ _ _ _ _ _ _) ⟨rfl, rfl, pD_reg (by omega) (by omega) (by omega), pA_reg (by omega) (by omega), pB_reg (by omega), engOf_parcels _⟩
  · obtain ⟨rfl, rfl⟩ := List.cons.inj e
    have hx : pX (rparcel d.val a.val b.val 1) = true := pX_bit (x := true)
    refine decode_words (b := build22) (by decide) (by decide) (n := 3) (by decide) rfl rfl rfl (lengthOf_sync (x := true)).symm ?_ hw rfl
    refine (if_pos hx).trans ?_
    exact Eq.mpr (Instr.stxSync.injEq _ _ _ _ _ _ _ _ _ _ _ _) ⟨rfl, rfl, pD_reg (by omega) (by omega) (by omega), pA_reg (by omega) (by omega), pB_reg (by omega), engOf_parcels _⟩

theorem RoundTrip.amo (g : Guard) (dbl : Bool) (d a b : Reg) (op : AmoOp) (ord : MemOrd) (scope : Scope) : RoundTrip.Statement (.amo g dbl d a b op ord scope) := by
  intro hw h t e
  cases dbl
  · obtain ⟨rfl, rfl⟩ := List.cons.inj e
    have := AmoOp.code_lt op
    have := MemOrd.code_lt ord
    have := Scope.code_lt scope
    exact decode_words (b := build23) (by decide) (by decide) (n := 2) (by decide) rfl rfl rfl rfl (Eq.mpr (Instr.amo.injEq _ _ _ _ _ _ _ _ _ _ _ _ _ _ _ _) ⟨rfl, rfl, pD_reg (by omega) (by omega) (by omega), pA_reg (by omega) (by omega), pB_reg (by omega), AmoOp.ofCode_of (fN_par (by omega)), MemOrd.ofCode_of (fN_par (by omega)), Scope.ofCode_of (fN_par (by omega))⟩) hw rfl
  · obtain ⟨rfl, rfl⟩ := List.cons.inj e
    have := AmoOp.code_lt op
    have := MemOrd.code_lt ord
    have := Scope.code_lt scope
    exact decode_words (b := build23) (by decide) (by decide) (n := 2) (by decide) rfl rfl rfl rfl (Eq.mpr (Instr.amo.injEq _ _ _ _ _ _ _ _ _ _ _ _ _ _ _ _) ⟨rfl, rfl, pD_reg (by omega) (by omega) (by omega), pA_reg (by omega) (by omega), pB_reg (by omega), AmoOp.ofCode_of (fN_par (by omega)), MemOrd.ofCode_of (fN_par (by omega)), Scope.ofCode_of (fN_par (by omega))⟩) hw rfl

theorem RoundTrip.amocas (g : Guard) (dbl : Bool) (d a b : Reg) (ar : Bool) : RoundTrip.Statement (.amocas g dbl d a b ar) := by
  intro hw h t e
  cases dbl
  · obtain ⟨rfl, rfl⟩ := List.cons.inj e
    have := Bool.toNat_lt ar
    exact decode_words (b := build23) (by decide) (by decide) (n := 1) (by decide) rfl rfl rfl rfl (Eq.mpr (Instr.amocas.injEq _ _ _ _ _ _ _ _ _ _ _ _) ⟨rfl, rfl, pD_reg (by omega) (by omega) (by omega), pA_reg (by omega) (by omega), pB_reg (by omega), pX_bit⟩) hw rfl
  · obtain ⟨rfl, rfl⟩ := List.cons.inj e
    have := Bool.toNat_lt ar
    exact decode_words (b := build23) (by decide) (by decide) (n := 1) (by decide) rfl rfl rfl rfl (Eq.mpr (Instr.amocas.injEq _ _ _ _ _ _ _ _ _ _ _ _) ⟨rfl, rfl, pD_reg (by omega) (by omega) (by omega), pA_reg (by omega) (by omega), pB_reg (by omega), pX_bit⟩) hw rfl

theorem RoundTrip.ldfe (g : Guard) (d a b : Reg) (imm : BitVec 16) : RoundTrip.Statement (.ldfe g d a b imm) := by
  intro hw h t e
  obtain ⟨rfl, rfl⟩ := List.cons.inj e
  exact decode_words (b := build24) (by decide) (by decide) (n := 2) (by decide) rfl rfl rfl rfl (Eq.mpr (Instr.ldfe.injEq _ _ _ _ _ _ _ _ _ _) ⟨rfl, pD_reg (by omega) (by omega) (by omega), pA_reg (by omega) (by omega), pB_reg (by omega), fV_par (by omega)⟩) hw rfl

theorem RoundTrip.stfe (g : Guard) (d a b : Reg) (imm : BitVec 16) : RoundTrip.Statement (.stfe g d a b imm) := by
  intro hw h t e
  obtain ⟨rfl, rfl⟩ := List.cons.inj e
  exact decode_words (b := build24) (by decide) (by decide) (n := 2) (by decide) rfl rfl rfl rfl (Eq.mpr (Instr.stfe.injEq _ _ _ _ _ _ _ _ _ _) ⟨rfl, pD_reg (by omega) (by omega) (by omega), pA_reg (by omega) (by omega), pB_reg (by omega), fV_par (by omega)⟩) hw rfl

theorem RoundTrip.ldff (g : Guard) (d a b : Reg) (imm : BitVec 16) : RoundTrip.Statement (.ldff g d a b imm) := by
  intro hw h t e
  obtain ⟨rfl, rfl⟩ := List.cons.inj e
  exact decode_words (b := build24) (by decide) (by decide) (n := 2) (by decide) rfl rfl rfl rfl (Eq.mpr (Instr.ldff.injEq _ _ _ _ _ _ _ _ _ _) ⟨rfl, pD_reg (by omega) (by omega) (by omega), pA_reg (by omega) (by omega), pB_reg (by omega), fV_par (by omega)⟩) hw rfl

theorem RoundTrip.ldre (g : Guard) (d a b : Reg) (imm : BitVec 16) : RoundTrip.Statement (.ldre g d a b imm) := by
  intro hw h t e
  obtain ⟨rfl, rfl⟩ := List.cons.inj e
  exact decode_words (b := build24) (by decide) (by decide) (n := 2) (by decide) rfl rfl rfl rfl (Eq.mpr (Instr.ldre.injEq _ _ _ _ _ _ _ _ _ _) ⟨rfl, pD_reg (by omega) (by omega) (by omega), pA_reg (by omega) (by omega), pB_reg (by omega), fV_par (by omega)⟩) hw rfl

theorem RoundTrip.stsf (g : Guard) (d a b : Reg) (imm : BitVec 16) : RoundTrip.Statement (.stsf g d a b imm) := by
  intro hw h t e
  obtain ⟨rfl, rfl⟩ := List.cons.inj e
  exact decode_words (b := build25) (by decide) (by decide) (n := 2) (by decide) rfl rfl rfl rfl (Eq.mpr (Instr.stsf.injEq _ _ _ _ _ _ _ _ _ _) ⟨rfl, pD_reg (by omega) (by omega) (by omega), pA_reg (by omega) (by omega), pB_reg (by omega), fV_par (by omega)⟩) hw rfl

theorem RoundTrip.mon (g : Guard) (a : Reg) : RoundTrip.Statement (.mon g a) := by
  intro hw h t e
  obtain ⟨rfl, rfl⟩ := List.cons.inj e
  exact decode_words (b := build25) (by decide) (by decide) (n := 1) (by decide) rfl rfl rfl rfl (Eq.mpr (Instr.mon.injEq _ _ _ _) ⟨rfl, pA_reg (by omega) (by omega)⟩) hw rfl

theorem RoundTrip.mwait (g : Guard) (d a : Reg) : RoundTrip.Statement (.mwait g d a) := by
  intro hw h t e
  obtain ⟨rfl, rfl⟩ := List.cons.inj e
  exact decode_words (b := build25) (by decide) (by decide) (n := 1) (by decide) rfl rfl rfl rfl (Eq.mpr (Instr.mwait.injEq _ _ _ _ _ _) ⟨rfl, pD_reg (by omega) (by omega) (by omega), pA_reg (by omega) (by omega)⟩) hw rfl

theorem RoundTrip.fence (g : Guard) (scope : Scope) (kind : MemOrd) : RoundTrip.Statement (.fence g scope kind) := by
  intro hw h t e
  obtain ⟨rfl, rfl⟩ := List.cons.inj e
  have := Scope.code_lt scope
  have := MemOrd.code_lt kind
  exact decode_words (b := build25) (by decide) (by decide) (n := 1) (by decide) rfl rfl rfl rfl (Eq.mpr (Instr.fence.injEq _ _ _ _ _ _) ⟨rfl, Scope.ofCode_of (fN_par (by omega)), MemOrd.ofCode_of (fN_par (by omega))⟩) hw rfl

theorem RoundTrip.spal (g : Guard) (d a : Reg) (bank : BitVec 3) (fe side : BitVec 2) : RoundTrip.Statement (.spal g d a bank fe side) := by
  intro hw h t e
  obtain ⟨rfl, rfl⟩ := List.cons.inj e
  exact decode_words (b := build26) (by decide) (by decide) (n := 2) (by decide) rfl rfl rfl rfl (Eq.mpr (Instr.spal.injEq _ _ _ _ _ _ _ _ _ _ _ _) ⟨rfl, pD_reg (by omega) (by omega) (by omega), pA_reg (by omega) (by omega), fV_par (by omega), fV_par (by omega), fV_par (by omega)⟩) hw rfl

theorem RoundTrip.spfr (g : Guard) (d a : Reg) : RoundTrip.Statement (.spfr g d a) := by
  intro hw h t e
  obtain ⟨rfl, rfl⟩ := List.cons.inj e
  exact decode_words (b := build26) (by decide) (by decide) (n := 1) (by decide) rfl rfl rfl rfl (Eq.mpr (Instr.spfr.injEq _ _ _ _ _ _) ⟨rfl, pD_reg (by omega) (by omega) (by omega), pA_reg (by omega) (by omega)⟩) hw rfl

theorem RoundTrip.fecl (g : Guard) (a b : Reg) (full : Bool) : RoundTrip.Statement (.fecl g a b full) := by
  intro hw h t e
  obtain ⟨rfl, rfl⟩ := List.cons.inj e
  have := Bool.toNat_lt full
  exact decode_words (b := build26) (by decide) (by decide) (n := 1) (by decide) rfl rfl rfl rfl (Eq.mpr (Instr.fecl.injEq _ _ _ _ _ _ _ _) ⟨rfl, pA_reg (by omega) (by omega), pB_reg (by omega), pX_bit⟩) hw rfl

theorem RoundTrip.vclaim (g : Guard) (d a : Reg) (wait : Bool) (min : BitVec 9) : RoundTrip.Statement (.vclaim g d a wait min) := by
  intro hw h t e
  obtain ⟨rfl, rfl⟩ := List.cons.inj e
  have := Bool.toNat_lt wait
  exact decode_words (b := build27) (by decide) (by decide) (n := 2) (by decide) rfl rfl rfl rfl (Eq.mpr (Instr.vclaim.injEq _ _ _ _ _ _ _ _ _ _) ⟨rfl, pD_reg (by omega) (by omega) (by omega), pA_reg (by omega) (by omega), fB_par (by omega), fV_par (by omega)⟩) hw rfl

theorem RoundTrip.vrel (g : Guard) : RoundTrip.Statement (.vrel g) := by
  intro hw h t e
  obtain ⟨rfl, rfl⟩ := List.cons.inj e
  exact decode_words (b := build27) (by decide) (by decide) (n := 0) (by decide) rfl rfl rfl rfl (rfl) hw rfl

theorem RoundTrip.vreneg (g : Guard) (d a : Reg) (want : BitVec 9) : RoundTrip.Statement (.vreneg g d a want) := by
  intro hw h t e
  obtain ⟨rfl, rfl⟩ := List.cons.inj e
  exact decode_words (b := build27) (by decide) (by decide) (n := 2) (by decide) rfl rfl rfl rfl (Eq.mpr (Instr.vreneg.injEq _ _ _ _ _ _ _ _) ⟨rfl, pD_reg (by omega) (by omega) (by omega), pA_reg (by omega) (by omega), fV_par (by omega)⟩) hw rfl

theorem RoundTrip.sfn (g : Guard) (d a : Reg) (fn : SfnOp) (fmt : FloatTy) (rm : Rm) : RoundTrip.Statement (.sfn g d a fn fmt rm) := by
  intro hw h t e
  obtain ⟨rfl, rfl⟩ := List.cons.inj e
  have := SfnOp.code_lt fn
  have := FloatTy.code_lt fmt
  have := Rm.code_lt rm
  exact decode_words (b := build27) (by decide) (by decide) (n := 2) (by decide) rfl rfl rfl rfl (Eq.mpr (Instr.sfn.injEq _ _ _ _ _ _ _ _ _ _ _ _) ⟨rfl, pD_reg (by omega) (by omega) (by omega), pA_reg (by omega) (by omega), SfnOp.ofCode_of (fN_par (by omega)), FloatTy.ofCode_of (fN_par (by omega)), Rm.ofCode_of (fN_par (by omega))⟩) hw rfl

theorem RoundTrip.vld (g : Guard) (z : VSize) (d a : Reg) (off : BitVec 14) (sync : Option Eng) : RoundTrip.Statement (.vld g z d a off sync) := by
  intro hw h t e
  cases sync
  · obtain ⟨rfl, rfl⟩ := List.cons.inj e
    have := VSize.code_lt z
    exact decode_words (b := build28) (by decide) (by decide) (n := 2) (by decide) rfl rfl rfl (lengthOf_sync (x := false)).symm
      (Eq.mpr (Instr.vld.injEq _ _ _ _ _ _ _ _ _ _ _ _) ⟨rfl, VSize.ofCode_of (fN_par (by omega)), pD_reg (by omega) (by omega) (Bool.toNat_lt _), pA_reg (by omega) (Bool.toNat_lt _), fV_par (by omega), syncOf_none⟩) hw rfl
  · obtain ⟨rfl, rfl⟩ := List.cons.inj e
    have := VSize.code_lt z
    exact decode_words (b := build28) (by decide) (by decide) (n := 4) (by decide) rfl rfl rfl (lengthOf_sync (x := true)).symm
      (Eq.mpr (Instr.vld.injEq _ _ _ _ _ _ _ _ _ _ _ _) ⟨rfl, VSize.ofCode_of (fN_par (by omega)), pD_reg (by omega) (by omega) (Bool.toNat_lt _), pA_reg (by omega) (Bool.toNat_lt _), fV_par (by omega), syncOf_some⟩) hw rfl

theorem RoundTrip.vst (g : Guard) (z : VSize) (d a : Reg) (off : BitVec 14) (sync : Option Eng) : RoundTrip.Statement (.vst g z d a off sync) := by
  intro hw h t e
  cases sync
  · obtain ⟨rfl, rfl⟩ := List.cons.inj e
    have := VSize.code_lt z
    exact decode_words (b := build28) (by decide) (by decide) (n := 2) (by decide) rfl rfl rfl (lengthOf_sync (x := false)).symm
      (Eq.mpr (Instr.vst.injEq _ _ _ _ _ _ _ _ _ _ _ _) ⟨rfl, VSize.ofCode_of (fN_par (by omega)), pD_reg (by omega) (by omega) (Bool.toNat_lt _), pA_reg (by omega) (Bool.toNat_lt _), fV_par (by omega), syncOf_none⟩) hw rfl
  · obtain ⟨rfl, rfl⟩ := List.cons.inj e
    have := VSize.code_lt z
    exact decode_words (b := build28) (by decide) (by decide) (n := 4) (by decide) rfl rfl rfl (lengthOf_sync (x := true)).symm
      (Eq.mpr (Instr.vst.injEq _ _ _ _ _ _ _ _ _ _ _ _) ⟨rfl, VSize.ofCode_of (fN_par (by omega)), pD_reg (by omega) (by omega) (Bool.toNat_lt _), pA_reg (by omega) (Bool.toNat_lt _), fV_par (by omega), syncOf_some⟩) hw rfl

theorem RoundTrip.vlds (g : Guard) (z : VSize) (d a b : Reg) (off : BitVec 14) (sync : Option Eng) : RoundTrip.Statement (.vlds g z d a b off sync) := by
  intro hw h t e
  cases sync
  · obtain ⟨rfl, rfl⟩ := List.cons.inj e
    have := VSize.code_lt z
    exact decode_words (b := build28) (by decide) (by decide) (n := 2) (by decide) rfl rfl rfl (lengthOf_sync (x := false)).symm
      (Eq.mpr (Instr.vlds.injEq _ _ _ _ _ _ _ _ _ _ _ _ _ _) ⟨rfl, VSize.ofCode_of (fN_par (by omega)), pD_reg (by omega) (by omega) (Bool.toNat_lt _), pA_reg (by omega) (Bool.toNat_lt _), pB_reg (Bool.toNat_lt _), fV_par (by omega), syncOf_none⟩) hw rfl
  · obtain ⟨rfl, rfl⟩ := List.cons.inj e
    have := VSize.code_lt z
    exact decode_words (b := build28) (by decide) (by decide) (n := 4) (by decide) rfl rfl rfl (lengthOf_sync (x := true)).symm
      (Eq.mpr (Instr.vlds.injEq _ _ _ _ _ _ _ _ _ _ _ _ _ _) ⟨rfl, VSize.ofCode_of (fN_par (by omega)), pD_reg (by omega) (by omega) (Bool.toNat_lt _), pA_reg (by omega) (Bool.toNat_lt _), pB_reg (Bool.toNat_lt _), fV_par (by omega), syncOf_some⟩) hw rfl

theorem RoundTrip.vsts (g : Guard) (z : VSize) (d a b : Reg) (off : BitVec 14) (sync : Option Eng) : RoundTrip.Statement (.vsts g z d a b off sync) := by
  intro hw h t e
  cases sync
  · obtain ⟨rfl, rfl⟩ := List.cons.inj e
    have := VSize.code_lt z
    exact decode_words (b := build28) (by decide) (by decide) (n := 2) (by decide) rfl rfl rfl (lengthOf_sync (x := false)).symm
      (Eq.mpr (Instr.vsts.injEq _ _ _ _ _ _ _ _ _ _ _ _ _ _) ⟨rfl, VSize.ofCode_of (fN_par (by omega)), pD_reg (by omega) (by omega) (Bool.toNat_lt _), pA_reg (by omega) (Bool.toNat_lt _), pB_reg (Bool.toNat_lt _), fV_par (by omega), syncOf_none⟩) hw rfl
  · obtain ⟨rfl, rfl⟩ := List.cons.inj e
    have := VSize.code_lt z
    exact decode_words (b := build28) (by decide) (by decide) (n := 4) (by decide) rfl rfl rfl (lengthOf_sync (x := true)).symm
      (Eq.mpr (Instr.vsts.injEq _ _ _ _ _ _ _ _ _ _ _ _ _ _) ⟨rfl, VSize.ofCode_of (fN_par (by omega)), pD_reg (by omega) (by omega) (Bool.toNat_lt _), pA_reg (by omega) (Bool.toNat_lt _), pB_reg (Bool.toNat_lt _), fV_par (by omega), syncOf_some⟩) hw rfl

theorem RoundTrip.vadd (g : Guard) (ty : EltTy) (rm : Rm) (d a b : Reg) (sat : Bool) : RoundTrip.Statement (.vadd g ty rm d a b sat) := by
  intro hw h t e
  obtain ⟨rfl, rfl⟩ := List.cons.inj e
  have := EltTy.code_lt ty
  have := Rm.code_lt rm
  have := Bool.toNat_lt sat
  exact decode_words (b := build29) (by decide) (by decide) (n := 2) (by decide) rfl rfl rfl rfl (Eq.mpr (Instr.vadd.injEq _ _ _ _ _ _ _ _ _ _ _ _ _ _) ⟨rfl, EltTy.ofCode_of (fN_par (by omega)), Rm.ofCode_of (fN_par (by omega)), pD_reg (by omega) (by omega) (by omega), pA_reg (by omega) (by omega), pB_reg (by omega), fB_par (by omega)⟩) hw rfl

theorem RoundTrip.vsub (g : Guard) (ty : EltTy) (rm : Rm) (d a b : Reg) (sat : Bool) : RoundTrip.Statement (.vsub g ty rm d a b sat) := by
  intro hw h t e
  obtain ⟨rfl, rfl⟩ := List.cons.inj e
  have := EltTy.code_lt ty
  have := Rm.code_lt rm
  have := Bool.toNat_lt sat
  exact decode_words (b := build29) (by decide) (by decide) (n := 2) (by decide) rfl rfl rfl rfl (Eq.mpr (Instr.vsub.injEq _ _ _ _ _ _ _ _ _ _ _ _ _ _) ⟨rfl, EltTy.ofCode_of (fN_par (by omega)), Rm.ofCode_of (fN_par (by omega)), pD_reg (by omega) (by omega) (by omega), pA_reg (by omega) (by omega), pB_reg (by omega), fB_par (by omega)⟩) hw rfl

theorem RoundTrip.vmul (g : Guard) (ty : EltTy) (rm : Rm) (d a b : Reg) (sat : Bool) : RoundTrip.Statement (.vmul g ty rm d a b sat) := by
  intro hw h t e
  obtain ⟨rfl, rfl⟩ := List.cons.inj e
  have := EltTy.code_lt ty
  have := Rm.code_lt rm
  have := Bool.toNat_lt sat
  exact decode_words (b := build29) (by decide) (by decide) (n := 2) (by decide) rfl rfl rfl rfl (Eq.mpr (Instr.vmul.injEq _ _ _ _ _ _ _ _ _ _ _ _ _ _) ⟨rfl, EltTy.ofCode_of (fN_par (by omega)), Rm.ofCode_of (fN_par (by omega)), pD_reg (by omega) (by omega) (by omega), pA_reg (by omega) (by omega), pB_reg (by omega), fB_par (by omega)⟩) hw rfl

theorem RoundTrip.vfma (g : Guard) (ty : EltTy) (rm : Rm) (d a b c : Reg) (sat : Bool) : RoundTrip.Statement (.vfma g ty rm d a b c sat) := by
  intro hw h t e
  obtain ⟨rfl, rfl⟩ := List.cons.inj e
  have := EltTy.code_lt ty
  have := Rm.code_lt rm
  have := Bool.toNat_lt sat
  exact decode_words (b := build29) (by decide) (by decide) (n := 2) (by decide) rfl rfl rfl rfl (Eq.mpr (Instr.vfma.injEq _ _ _ _ _ _ _ _ _ _ _ _ _ _ _ _) ⟨rfl, EltTy.ofCode_of (fN_par (by omega)), Rm.ofCode_of (fN_par (by omega)), pD_reg (by omega) (by omega) (by omega), pA_reg (by omega) (by omega), pB_reg (by omega), fF_par (by omega), fB_par (by omega)⟩) hw rfl

theorem RoundTrip.vfms (g : Guard) (ty : EltTy) (rm : Rm) (d a b c : Reg) (sat : Bool) : RoundTrip.Statement (.vfms g ty rm d a b c sat) := by
  intro hw h t e
  obtain ⟨rfl, rfl⟩ := List.cons.inj e
  have := EltTy.code_lt ty
  have := Rm.code_lt rm
  have := Bool.toNat_lt sat
  exact decode_words (b := build30) (by decide) (by decide) (n := 2) (by decide) rfl rfl rfl rfl (Eq.mpr (Instr.vfms.injEq _ _ _ _ _ _ _ _ _ _ _ _ _ _ _ _) ⟨rfl, EltTy.ofCode_of (fN_par (by omega)), Rm.ofCode_of (fN_par (by omega)), pD_reg (by omega) (by omega) (by omega), pA_reg (by omega) (by omega), pB_reg (by omega), fF_par (by omega), fB_par (by omega)⟩) hw rfl

theorem RoundTrip.vmin (g : Guard) (ty : EltTy) (d a b : Reg) : RoundTrip.Statement (.vmin g ty d a b) := by
  intro hw h t e
  obtain ⟨rfl, rfl⟩ := List.cons.inj e
  have := EltTy.code_lt ty
  exact decode_words (b := build30) (by decide) (by decide) (n := 2) (by decide) rfl rfl rfl rfl (Eq.mpr (Instr.vmin.injEq _ _ _ _ _ _ _ _ _ _) ⟨rfl, EltTy.ofCode_of (fN_par (by omega)), pD_reg (by omega) (by omega) (by omega), pA_reg (by omega) (by omega), pB_reg (by omega)⟩) hw rfl

theorem RoundTrip.vmax (g : Guard) (ty : EltTy) (d a b : Reg) : RoundTrip.Statement (.vmax g ty d a b) := by
  intro hw h t e
  obtain ⟨rfl, rfl⟩ := List.cons.inj e
  have := EltTy.code_lt ty
  exact decode_words (b := build30) (by decide) (by decide) (n := 2) (by decide) rfl rfl rfl rfl (Eq.mpr (Instr.vmax.injEq _ _ _ _ _ _ _ _ _ _) ⟨rfl, EltTy.ofCode_of (fN_par (by omega)), pD_reg (by omega) (by omega) (by omega), pA_reg (by omega) (by omega), pB_reg (by omega)⟩) hw rfl

theorem RoundTrip.vabs (g : Guard) (ty : EltTy) (d a : Reg) (sat : Bool) : RoundTrip.Statement (.vabs g ty d a sat) := by
  intro hw h t e
  obtain ⟨rfl, rfl⟩ := List.cons.inj e
  have := EltTy.code_lt ty
  have := Bool.toNat_lt sat
  exact decode_words (b := build30) (by decide) (by decide) (n := 2) (by decide) rfl rfl rfl rfl (Eq.mpr (Instr.vabs.injEq _ _ _ _ _ _ _ _ _ _) ⟨rfl, EltTy.ofCode_of (fN_par (by omega)), pD_reg (by omega) (by omega) (by omega), pA_reg (by omega) (by omega), fB_par (by omega)⟩) hw rfl

theorem RoundTrip.vchs (g : Guard) (ty : EltTy) (d a : Reg) (sat : Bool) : RoundTrip.Statement (.vchs g ty d a sat) := by
  intro hw h t e
  obtain ⟨rfl, rfl⟩ := List.cons.inj e
  have := EltTy.code_lt ty
  have := Bool.toNat_lt sat
  exact decode_words (b := build31) (by decide) (by decide) (n := 2) (by decide) rfl rfl rfl rfl (Eq.mpr (Instr.vchs.injEq _ _ _ _ _ _ _ _ _ _) ⟨rfl, EltTy.ofCode_of (fN_par (by omega)), pD_reg (by omega) (by omega) (by omega), pA_reg (by omega) (by omega), fB_par (by omega)⟩) hw rfl

theorem RoundTrip.vand (g : Guard) (ty : EltTy) (d a b : Reg) : RoundTrip.Statement (.vand g ty d a b) := by
  intro hw h t e
  obtain ⟨rfl, rfl⟩ := List.cons.inj e
  have := EltTy.code_lt ty
  exact decode_words (b := build31) (by decide) (by decide) (n := 2) (by decide) rfl rfl rfl rfl (Eq.mpr (Instr.vand.injEq _ _ _ _ _ _ _ _ _ _) ⟨rfl, EltTy.ofCode_of (fN_par (by omega)), pD_reg (by omega) (by omega) (by omega), pA_reg (by omega) (by omega), pB_reg (by omega)⟩) hw rfl

theorem RoundTrip.vor (g : Guard) (ty : EltTy) (d a b : Reg) : RoundTrip.Statement (.vor g ty d a b) := by
  intro hw h t e
  obtain ⟨rfl, rfl⟩ := List.cons.inj e
  have := EltTy.code_lt ty
  exact decode_words (b := build31) (by decide) (by decide) (n := 2) (by decide) rfl rfl rfl rfl (Eq.mpr (Instr.vor.injEq _ _ _ _ _ _ _ _ _ _) ⟨rfl, EltTy.ofCode_of (fN_par (by omega)), pD_reg (by omega) (by omega) (by omega), pA_reg (by omega) (by omega), pB_reg (by omega)⟩) hw rfl

theorem RoundTrip.vxor (g : Guard) (ty : EltTy) (d a b : Reg) : RoundTrip.Statement (.vxor g ty d a b) := by
  intro hw h t e
  obtain ⟨rfl, rfl⟩ := List.cons.inj e
  have := EltTy.code_lt ty
  exact decode_words (b := build31) (by decide) (by decide) (n := 2) (by decide) rfl rfl rfl rfl (Eq.mpr (Instr.vxor.injEq _ _ _ _ _ _ _ _ _ _) ⟨rfl, EltTy.ofCode_of (fN_par (by omega)), pD_reg (by omega) (by omega) (by omega), pA_reg (by omega) (by omega), pB_reg (by omega)⟩) hw rfl

theorem RoundTrip.vshl (g : Guard) (ty : EltTy) (d a b : Reg) (imm : Bool) (n : BitVec 5) : RoundTrip.Statement (.vshl g ty d a b imm n) := by
  intro hw h t e
  obtain ⟨rfl, rfl⟩ := List.cons.inj e
  have := EltTy.code_lt ty
  have := Bool.toNat_lt imm
  exact decode_words (b := build32) (by decide) (by decide) (n := 2) (by decide) rfl rfl rfl rfl (Eq.mpr (Instr.vshl.injEq _ _ _ _ _ _ _ _ _ _ _ _ _ _) ⟨rfl, EltTy.ofCode_of (fN_par (by omega)), pD_reg (by omega) (by omega) (by omega), pA_reg (by omega) (by omega), pB_reg (by omega), fB_par (by omega), fV_par (by omega)⟩) hw rfl

theorem RoundTrip.vshr (g : Guard) (ty : EltTy) (d a b : Reg) (imm : Bool) (n : BitVec 5) : RoundTrip.Statement (.vshr g ty d a b imm n) := by
  intro hw h t e
  obtain ⟨rfl, rfl⟩ := List.cons.inj e
  have := EltTy.code_lt ty
  have := Bool.toNat_lt imm
  exact decode_words (b := build32) (by decide) (by decide) (n := 2) (by decide) rfl rfl rfl rfl (Eq.mpr (Instr.vshr.injEq _ _ _ _ _ _ _ _ _ _ _ _ _ _) ⟨rfl, EltTy.ofCode_of (fN_par (by omega)), pD_reg (by omega) (by omega) (by omega), pA_reg (by omega) (by omega), pB_reg (by omega), fB_par (by omega), fV_par (by omega)⟩) hw rfl

theorem RoundTrip.vsar (g : Guard) (ty : EltTy) (d a b : Reg) (imm : Bool) (n : BitVec 5) : RoundTrip.Statement (.vsar g ty d a b imm n) := by
  intro hw h t e
  obtain ⟨rfl, rfl⟩ := List.cons.inj e
  have := EltTy.code_lt ty
  have := Bool.toNat_lt imm
  exact decode_words (b := build32) (by decide) (by decide) (n := 2) (by decide) rfl rfl rfl rfl (Eq.mpr (Instr.vsar.injEq _ _ _ _ _ _ _ _ _ _ _ _ _ _) ⟨rfl, EltTy.ofCode_of (fN_par (by omega)), pD_reg (by omega) (by omega) (by omega), pA_reg (by omega) (by omega), pB_reg (by omega), fB_par (by omega), fV_par (by omega)⟩) hw rfl

theorem RoundTrip.vcmp (g : Guard) (ty : EltTy) (j : Fin 4) (a b : Reg) (cmb : CmbOp) : RoundTrip.Statement (.vcmp g ty j a b cmb) := by
  intro hw h t e
  obtain ⟨rfl, rfl⟩ := List.cons.inj e
  have := EltTy.code_lt ty
  have := CmbOp.code_lt cmb
  exact decode_words (b := build32) (by decide) (by decide) (n := 2) (by decide) rfl rfl rfl rfl (Eq.mpr (Instr.vcmp.injEq _ _ _ _ _ _ _ _ _ _ _ _) ⟨rfl, EltTy.ofCode_of (fN_par (by omega)), pD_fin (by omega) (by omega) (by omega) (by omega), pA_reg (by omega) (by omega), pB_reg (by omega), CmbOp.ofCode_of (fN_par (by omega))⟩) hw rfl

theorem RoundTrip.vsel (g : Guard) (ty : EltTy) (d a b : Reg) (m : Fin 8) : RoundTrip.Statement (.vsel g ty d a b m) := by
  intro hw h t e
  obtain ⟨rfl, rfl⟩ := List.cons.inj e
  have := EltTy.code_lt ty
  exact decode_words (b := build33) (by decide) (by decide) (n := 2) (by decide) rfl rfl rfl rfl (Eq.mpr (Instr.vsel.injEq _ _ _ _ _ _ _ _ _ _ _ _) ⟨rfl, EltTy.ofCode_of (fN_par (by omega)), pD_reg (by omega) (by omega) (by omega), pA_reg (by omega) (by omega), pB_reg (by omega), fF_par (by omega)⟩) hw rfl

theorem RoundTrip.vclamp (g : Guard) (ty : EltTy) (d a b c : Reg) : RoundTrip.Statement (.vclamp g ty d a b c) := by
  intro hw h t e
  obtain ⟨rfl, rfl⟩ := List.cons.inj e
  have := EltTy.code_lt ty
  exact decode_words (b := build35) (by decide) (by decide) (n := 2) (by decide) rfl rfl rfl rfl (Eq.mpr (Instr.vclamp.injEq _ _ _ _ _ _ _ _ _ _ _ _) ⟨rfl, EltTy.ofCode_of (fN_par (by omega)), pD_reg (by omega) (by omega) (by omega), pA_reg (by omega) (by omega), pB_reg (by omega), fF_par (by omega)⟩) hw rfl

theorem RoundTrip.vcvt (g : Guard) (ty : EltTy) (rm : Rm) (d a : Reg) (irm : Rm) (src : EltTy) : RoundTrip.Statement (.vcvt g ty rm d a irm src) := by
  intro hw h t e
  obtain ⟨rfl, rfl⟩ := List.cons.inj e
  have := EltTy.code_lt ty
  have := Rm.code_lt rm
  have := Rm.code_lt irm
  have := EltTy.code_lt src
  exact decode_words (b := build33) (by decide) (by decide) (n := 2) (by decide) rfl rfl rfl rfl (Eq.mpr (Instr.vcvt.injEq _ _ _ _ _ _ _ _ _ _ _ _ _ _) ⟨rfl, EltTy.ofCode_of (fN_par (by omega)), Rm.ofCode_of (fN_par (by omega)), pD_reg (by omega) (by omega) (by omega), pA_reg (by omega) (by omega), Rm.ofCode_of (fN_par (by omega)), EltTy.ofCode_of (fN_par (by omega))⟩) hw rfl

theorem RoundTrip.vmxq (g : Guard) (ty : FloatTy) (d a : Reg) : RoundTrip.Statement (.vmxq g ty d a) := by
  intro hw h t e
  obtain ⟨rfl, rfl⟩ := List.cons.inj e
  have := FloatTy.code_lt ty
  exact decode_words (b := build33) (by decide) (by decide) (n := 2) (by decide) rfl rfl rfl rfl (Eq.mpr (Instr.vmxq.injEq _ _ _ _ _ _ _ _) ⟨rfl, FloatTy.ofCode_of (fN_par (by omega)), pD_reg (by omega) (by omega) (by omega), pA_reg (by omega) (by omega)⟩) hw rfl

theorem RoundTrip.vmxd (g : Guard) (ty : FloatTy) (rm : Rm) (d a : Reg) : RoundTrip.Statement (.vmxd g ty rm d a) := by
  intro hw h t e
  obtain ⟨rfl, rfl⟩ := List.cons.inj e
  have := FloatTy.code_lt ty
  have := Rm.code_lt rm
  exact decode_words (b := build33) (by decide) (by decide) (n := 2) (by decide) rfl rfl rfl rfl (Eq.mpr (Instr.vmxd.injEq _ _ _ _ _ _ _ _ _ _) ⟨rfl, FloatTy.ofCode_of (fN_par (by omega)), Rm.ofCode_of (fN_par (by omega)), pD_reg (by omega) (by omega) (by omega), pA_reg (by omega) (by omega)⟩) hw rfl

theorem RoundTrip.vtern (g : Guard) (ty : FloatTy) (d a b : Reg) (det : Bool) : RoundTrip.Statement (.vtern g ty d a b det) := by
  intro hw h t e
  obtain ⟨rfl, rfl⟩ := List.cons.inj e
  have := FloatTy.code_lt ty
  have := Bool.toNat_lt det
  exact decode_words (b := build34) (by decide) (by decide) (n := 2) (by decide) rfl rfl rfl rfl (Eq.mpr (Instr.vtern.injEq _ _ _ _ _ _ _ _ _ _ _ _) ⟨rfl, FloatTy.ofCode_of (fN_par (by omega)), pD_reg (by omega) (by omega) (by omega), pA_reg (by omega) (by omega), pB_reg (by omega), fB_par (by omega)⟩) hw rfl

theorem RoundTrip.vred (g : Guard) (ty : EltTy) (rm : Rm) (d a : Reg) (red : RedOp) : RoundTrip.Statement (.vred g ty rm d a red) := by
  intro hw h t e
  obtain ⟨rfl, rfl⟩ := List.cons.inj e
  have := EltTy.code_lt ty
  have := Rm.code_lt rm
  have := RedOp.code_lt red
  exact decode_words (b := build34) (by decide) (by decide) (n := 2) (by decide) rfl rfl rfl rfl (Eq.mpr (Instr.vred.injEq _ _ _ _ _ _ _ _ _ _ _ _) ⟨rfl, EltTy.ofCode_of (fN_par (by omega)), Rm.ofCode_of (fN_par (by omega)), pD_reg (by omega) (by omega) (by omega), pA_reg (by omega) (by omega), RedOp.ofCode_of (fN_par (by omega))⟩) hw rfl

theorem RoundTrip.vsplat (g : Guard) (ty : EltTy) (d a : Reg) : RoundTrip.Statement (.vsplat g ty d a) := by
  intro hw h t e
  obtain ⟨rfl, rfl⟩ := List.cons.inj e
  have := EltTy.code_lt ty
  exact decode_words (b := build34) (by decide) (by decide) (n := 2) (by decide) rfl rfl rfl rfl (Eq.mpr (Instr.vsplat.injEq _ _ _ _ _ _ _ _) ⟨rfl, EltTy.ofCode_of (fN_par (by omega)), pD_reg (by omega) (by omega) (by omega), pA_reg (by omega) (by omega)⟩) hw rfl

theorem RoundTrip.vext (g : Guard) (ty : EltTy) (d a b : Reg) : RoundTrip.Statement (.vext g ty d a b) := by
  intro hw h t e
  obtain ⟨rfl, rfl⟩ := List.cons.inj e
  have := EltTy.code_lt ty
  exact decode_words (b := build34) (by decide) (by decide) (n := 2) (by decide) rfl rfl rfl rfl (Eq.mpr (Instr.vext.injEq _ _ _ _ _ _ _ _ _ _) ⟨rfl, EltTy.ofCode_of (fN_par (by omega)), pD_reg (by omega) (by omega) (by omega), pA_reg (by omega) (by omega), pB_reg (by omega)⟩) hw rfl

theorem RoundTrip.vins (g : Guard) (ty : EltTy) (d a b : Reg) : RoundTrip.Statement (.vins g ty d a b) := by
  intro hw h t e
  obtain ⟨rfl, rfl⟩ := List.cons.inj e
  have := EltTy.code_lt ty
  exact decode_words (b := build35) (by decide) (by decide) (n := 2) (by decide) rfl rfl rfl rfl (Eq.mpr (Instr.vins.injEq _ _ _ _ _ _ _ _ _ _) ⟨rfl, EltTy.ofCode_of (fN_par (by omega)), pD_reg (by omega) (by omega) (by omega), pA_reg (by omega) (by omega), pB_reg (by omega)⟩) hw rfl

theorem RoundTrip.vmov (g : Guard) (ty : EltTy) (d a : Reg) (form : BitVec 2) : RoundTrip.Statement (.vmov g ty d a form) := by
  intro hw h t e
  obtain ⟨rfl, rfl⟩ := List.cons.inj e
  have := EltTy.code_lt ty
  exact decode_words (b := build35) (by decide) (by decide) (n := 2) (by decide) rfl rfl rfl rfl (Eq.mpr (Instr.vmov.injEq _ _ _ _ _ _ _ _ _ _) ⟨rfl, EltTy.ofCode_of (fN_par (by omega)), pD_reg (by omega) (by omega) (by omega), pA_reg (by omega) (by omega), fV_par (by omega)⟩) hw rfl

theorem RoundTrip.mlw (g : Guard) (a : Reg) (l actv : Bool) (eng : Eng) : RoundTrip.Statement (.mlw g a l actv eng) := by
  intro hw h t e
  obtain ⟨rfl, rfl⟩ := List.cons.inj e
  have := Bool.toNat_lt l
  have := Bool.toNat_lt actv
  exact decode_words (b := build36) (by decide) (by decide) (n := 4) (by decide) rfl rfl rfl rfl (Eq.mpr (Instr.mlw.injEq _ _ _ _ _ _ _ _ _ _) ⟨rfl, pA_reg (by omega) (by omega), fB_par (by omega), fB_par (by omega), engOf_parcels _⟩) hw rfl

theorem RoundTrip.mrun (g : Guard) (d a b : Reg) (row : RowSpec) (eng : Eng) : RoundTrip.Statement (.mrun g d a b row eng) := by
  intro hw h t e
  obtain ⟨rfl, rfl⟩ := List.cons.inj e
  obtain ⟨nrow, frow, bank, acc, tr, sq⟩ := row
  have := Bool.toNat_lt bank
  have := Bool.toNat_lt acc
  have := Bool.toNat_lt tr
  exact decode_words (b := build36) (by decide) (by decide) (n := 4) (by decide) rfl rfl rfl rfl (Eq.mpr (Instr.mrun.injEq _ _ _ _ _ _ _ _ _ _ _ _) ⟨rfl, pD_reg (by omega) (by omega) (by omega), pA_reg (by omega) (by omega), pB_reg (by omega), Eq.mpr (RowSpec.mk.injEq _ _ _ _ _ _ _ _ _ _ _ _) ⟨fV_par (by dsimp only; omega), fV_par (by dsimp only; omega), fB_par (by dsimp only; omega), fB_par (by dsimp only; omega), fB_par (by dsimp only; omega), fV_par (by dsimp only; omega)⟩, engOf_parcels _⟩) hw rfl

theorem RoundTrip.mrunq (g : Guard) (d a : Fin 4) (row : RowSpec) (fwd : Bool) (eng : Eng) : RoundTrip.Statement (.mrunq g d a row fwd eng) := by
  intro hw h t e
  obtain ⟨rfl, rfl⟩ := List.cons.inj e
  obtain ⟨nrow, frow, bank, acc, tr, sq⟩ := row
  have := Bool.toNat_lt bank
  have := Bool.toNat_lt acc
  have := Bool.toNat_lt tr
  have := Bool.toNat_lt fwd
  exact decode_words (b := build36) (by decide) (by decide) (n := 4) (by decide) rfl rfl rfl rfl (Eq.mpr (Instr.mrunq.injEq _ _ _ _ _ _ _ _ _ _ _ _) ⟨rfl, pD_fin (by omega) (by omega) (by omega) (by omega), pA_fin (by omega) (by omega) (by omega), Eq.mpr (RowSpec.mk.injEq _ _ _ _ _ _ _ _ _ _ _ _) ⟨fV_par (by dsimp only; omega), fV_par (by dsimp only; omega), fB_par (by dsimp only; omega), fB_par (by dsimp only; omega), fB_par (by dsimp only; omega), fV_par (by dsimp only; omega)⟩, fB_par (by dsimp only; omega), engOf_parcels _⟩) hw rfl

theorem RoundTrip.mdrain (g : Guard) (d a : Reg) (nrow frow : BitVec 4) (bank dst : Bool) (eng : Eng) : RoundTrip.Statement (.mdrain g d a nrow frow bank dst eng) := by
  intro hw h t e
  obtain ⟨rfl, rfl⟩ := List.cons.inj e
  have := Bool.toNat_lt bank
  have := Bool.toNat_lt dst
  exact decode_words (b := build36) (by decide) (by decide) (n := 4) (by decide) rfl rfl rfl rfl (Eq.mpr (Instr.mdrain.injEq _ _ _ _ _ _ _ _ _ _ _ _ _ _ _ _) ⟨rfl, pD_reg (by omega) (by omega) (by omega), pA_reg (by omega) (by omega), fV_par (by omega), fV_par (by omega), fB_par (by omega), fB_par (by omega), engOf_parcels _⟩) hw rfl

theorem RoundTrip.mdrs (g : Guard) (d a : Reg) (nrow frow : BitVec 4) (bank dst : Bool) (eng : Eng) : RoundTrip.Statement (.mdrs g d a nrow frow bank dst eng) := by
  intro hw h t e
  obtain ⟨rfl, rfl⟩ := List.cons.inj e
  have := Bool.toNat_lt bank
  have := Bool.toNat_lt dst
  exact decode_words (b := build37) (by decide) (by decide) (n := 4) (by decide) rfl rfl rfl rfl (Eq.mpr (Instr.mdrs.injEq _ _ _ _ _ _ _ _ _ _ _ _ _ _ _ _) ⟨rfl, pD_reg (by omega) (by omega) (by omega), pA_reg (by omega) (by omega), fV_par (by omega), fV_par (by omega), fB_par (by omega), fB_par (by omega), engOf_parcels _⟩) hw rfl

theorem RoundTrip.mclr (g : Guard) (banks : BitVec 2) (eng : Eng) : RoundTrip.Statement (.mclr g banks eng) := by
  intro hw h t e
  obtain ⟨rfl, rfl⟩ := List.cons.inj e
  exact decode_words (b := build37) (by decide) (by decide) (n := 3) (by decide) rfl rfl rfl rfl (Eq.mpr (Instr.mclr.injEq _ _ _ _ _ _) ⟨rfl, fV_par (by omega), engOf_parcels _⟩) hw rfl

theorem RoundTrip.mswap (g : Guard) (l set : Bool) (eng : Eng) : RoundTrip.Statement (.mswap g l set eng) := by
  intro hw h t e
  obtain ⟨rfl, rfl⟩ := List.cons.inj e
  have := Bool.toNat_lt l
  have := Bool.toNat_lt set
  exact decode_words (b := build37) (by decide) (by decide) (n := 3) (by decide) rfl rfl rfl rfl (Eq.mpr (Instr.mswap.injEq _ _ _ _ _ _ _ _) ⟨rfl, fB_par (by omega), fB_par (by omega), engOf_parcels _⟩) hw rfl

theorem RoundTrip.mpass (g : Guard) (d a : Reg) (nrow : BitVec 4) (esz : BitVec 2) (plane : BitVec 3) (eng : Eng) : RoundTrip.Statement (.mpass g d a nrow esz plane eng) := by
  intro hw h t e
  obtain ⟨rfl, rfl⟩ := List.cons.inj e
  exact decode_words (b := build37) (by decide) (by decide) (n := 4) (by decide) rfl rfl rfl rfl (Eq.mpr (Instr.mpass.injEq _ _ _ _ _ _ _ _ _ _ _ _ _ _) ⟨rfl, pD_reg (by omega) (by omega) (by omega), pA_reg (by omega) (by omega), fV_par (by omega), fV_par (by omega), fV_par (by omega), engOf_parcels _⟩) hw rfl

theorem RoundTrip.mcfg (g : Guard) (a : Reg) (mode clrf user : Bool) (base : BitVec 10) : RoundTrip.Statement (.mcfg g a mode clrf user base) := by
  intro hw h t e
  obtain ⟨rfl, rfl⟩ := List.cons.inj e
  have := Bool.toNat_lt mode
  have := Bool.toNat_lt clrf
  have := Bool.toNat_lt user
  exact decode_words (b := build38) (by decide) (by decide) (n := 2) (by decide) rfl rfl rfl rfl (Eq.mpr (Instr.mcfg.injEq _ _ _ _ _ _ _ _ _ _ _ _) ⟨rfl, pA_reg (by omega) (by omega), fB_par (by omega), fB_par (by omega), fB_par (by omega), fV_par (by omega)⟩) hw rfl

theorem RoundTrip.msave (g : Guard) (a : Reg) (what : BitVec 2) (eng : Eng) : RoundTrip.Statement (.msave g a what eng) := by
  intro hw h t e
  obtain ⟨rfl, rfl⟩ := List.cons.inj e
  exact decode_words (b := build38) (by decide) (by decide) (n := 4) (by decide) rfl rfl rfl rfl (Eq.mpr (Instr.msave.injEq _ _ _ _ _ _ _ _) ⟨rfl, pA_reg (by omega) (by omega), fV_par (by omega), engOf_parcels _⟩) hw rfl

theorem RoundTrip.mrest (g : Guard) (a : Reg) (what : BitVec 2) (eng : Eng) : RoundTrip.Statement (.mrest g a what eng) := by
  intro hw h t e
  obtain ⟨rfl, rfl⟩ := List.cons.inj e
  exact decode_words (b := build38) (by decide) (by decide) (n := 4) (by decide) rfl rfl rfl rfl (Eq.mpr (Instr.mrest.injEq _ _ _ _ _ _ _ _) ⟨rfl, pA_reg (by omega) (by omega), fV_par (by omega), engOf_parcels _⟩) hw rfl

theorem RoundTrip.swt (g : Guard) (i t : BitVec 8) : RoundTrip.Statement (.swt g i t) := by
  intro hw h t e
  obtain ⟨rfl, rfl⟩ := List.cons.inj e
  exact decode_words (b := build39) (by decide) (by decide) (n := 1) (by decide) rfl rfl rfl rfl (Eq.mpr (Instr.swt.injEq _ _ _ _ _ _) ⟨rfl, fV_par (by omega), fV_par (by omega)⟩) hw rfl

theorem RoundTrip.ssig (g : Guard) (j n : BitVec 8) : RoundTrip.Statement (.ssig g j n) := by
  intro hw h t e
  obtain ⟨rfl, rfl⟩ := List.cons.inj e
  exact decode_words (b := build39) (by decide) (by decide) (n := 1) (by decide) rfl rfl rfl rfl (Eq.mpr (Instr.ssig.injEq _ _ _ _ _ _) ⟨rfl, fV_par (by omega), fV_par (by omega)⟩) hw rfl

theorem RoundTrip.sset (g : Guard) (d a : Reg) (idx : BitVec 8) : RoundTrip.Statement (.sset g d a idx) := by
  intro hw h t e
  obtain ⟨rfl, rfl⟩ := List.cons.inj e
  exact decode_words (b := build39) (by decide) (by decide) (n := 2) (by decide) rfl rfl rfl rfl (Eq.mpr (Instr.sset.injEq _ _ _ _ _ _ _ _) ⟨rfl, pD_reg (by omega) (by omega) (by omega), pA_reg (by omega) (by omega), fV_par (by omega)⟩) hw rfl

theorem RoundTrip.srd (g : Guard) (d : Reg) (idx : BitVec 8) : RoundTrip.Statement (.srd g d idx) := by
  intro hw h t e
  obtain ⟨rfl, rfl⟩ := List.cons.inj e
  exact decode_words (b := build39) (by decide) (by decide) (n := 2) (by decide) rfl rfl rfl rfl (Eq.mpr (Instr.srd.injEq _ _ _ _ _ _) ⟨rfl, pD_reg (by omega) (by omega) (by omega), fV_par (by omega)⟩) hw rfl

theorem RoundTrip.qctl (g : Guard) (q : Fin 4) (a : Reg) : RoundTrip.Statement (.qctl g q a) := by
  intro hw h t e
  obtain ⟨rfl, rfl⟩ := List.cons.inj e
  exact decode_words (b := build40) (by decide) (by decide) (n := 1) (by decide) rfl rfl rfl rfl (Eq.mpr (Instr.qctl.injEq _ _ _ _ _ _) ⟨rfl, pD_fin (by omega) (by omega) (by omega) (by omega), pA_reg (by omega) (by omega)⟩) hw rfl

theorem RoundTrip.qstat (g : Guard) (d : Reg) (q : Fin 4) : RoundTrip.Statement (.qstat g d q) := by
  intro hw h t e
  obtain ⟨rfl, rfl⟩ := List.cons.inj e
  exact decode_words (b := build40) (by decide) (by decide) (n := 1) (by decide) rfl rfl rfl rfl (Eq.mpr (Instr.qstat.injEq _ _ _ _ _ _) ⟨rfl, pD_reg (by omega) (by omega) (by omega), pA_fin (by omega) (by omega) (by omega)⟩) hw rfl

theorem RoundTrip.qdir (g : Guard) (d : Reg) (q : Fin 4) (dir : BitVec 3) (tport : BitVec 2) : RoundTrip.Statement (.qdir g d q dir tport) := by
  intro hw h t e
  obtain ⟨rfl, rfl⟩ := List.cons.inj e
  exact decode_words (b := build40) (by decide) (by decide) (n := 2) (by decide) rfl rfl rfl rfl (Eq.mpr (Instr.qdir.injEq _ _ _ _ _ _ _ _ _ _) ⟨rfl, pD_reg (by omega) (by omega) (by omega), pA_fin (by omega) (by omega) (by omega), fV_par (by omega), fV_par (by omega)⟩) hw rfl

theorem RoundTrip.qflush (g : Guard) (mask : BitVec 4) : RoundTrip.Statement (.qflush g mask) := by
  intro hw h t e
  obtain ⟨rfl, rfl⟩ := List.cons.inj e
  exact decode_words (b := build40) (by decide) (by decide) (n := 1) (by decide) rfl rfl rfl rfl (Eq.mpr (Instr.qflush.injEq _ _ _ _) ⟨rfl, fV_par (by omega)⟩) hw rfl

theorem RoundTrip.rbinit (g : Guard) (a b : Reg) (nslot1 slotsz1 : BitVec 8) : RoundTrip.Statement (.rbinit g a b nslot1 slotsz1) := by
  intro hw h t e
  obtain ⟨rfl, rfl⟩ := List.cons.inj e
  exact decode_words (b := build41) (by decide) (by decide) (n := 2) (by decide) rfl rfl rfl rfl (Eq.mpr (Instr.rbinit.injEq _ _ _ _ _ _ _ _ _ _) ⟨rfl, pA_reg (by omega) (by omega), pB_reg (by omega), fV_par (by omega), fV_par (by omega)⟩) hw rfl

theorem RoundTrip.rbacq (g : Guard) (d a : Reg) (n : BitVec 9) (try_ : Bool) : RoundTrip.Statement (.rbacq g d a n try_) := by
  intro hw h t e
  obtain ⟨rfl, rfl⟩ := List.cons.inj e
  have := Bool.toNat_lt try_
  exact decode_words (b := build41) (by decide) (by decide) (n := 2) (by decide) rfl rfl rfl rfl (Eq.mpr (Instr.rbacq.injEq _ _ _ _ _ _ _ _ _ _) ⟨rfl, pD_reg (by omega) (by omega) (by omega), pA_reg (by omega) (by omega), fV_par (by omega), fB_par (by omega)⟩) hw rfl

theorem RoundTrip.rbpub (g : Guard) (a b : Reg) (n : BitVec 9) : RoundTrip.Statement (.rbpub g a b n) := by
  intro hw h t e
  obtain ⟨rfl, rfl⟩ := List.cons.inj e
  exact decode_words (b := build41) (by decide) (by decide) (n := 2) (by decide) rfl rfl rfl rfl (Eq.mpr (Instr.rbpub.injEq _ _ _ _ _ _ _ _) ⟨rfl, pA_reg (by omega) (by omega), pB_reg (by omega), fV_par (by omega)⟩) hw rfl

theorem RoundTrip.rbtake (g : Guard) (d a : Reg) (n : BitVec 9) (try_ : Bool) : RoundTrip.Statement (.rbtake g d a n try_) := by
  intro hw h t e
  obtain ⟨rfl, rfl⟩ := List.cons.inj e
  have := Bool.toNat_lt try_
  exact decode_words (b := build41) (by decide) (by decide) (n := 2) (by decide) rfl rfl rfl rfl (Eq.mpr (Instr.rbtake.injEq _ _ _ _ _ _ _ _ _ _) ⟨rfl, pD_reg (by omega) (by omega) (by omega), pA_reg (by omega) (by omega), fV_par (by omega), fB_par (by omega)⟩) hw rfl

theorem RoundTrip.rbrel (g : Guard) (a b : Reg) (n : BitVec 9) : RoundTrip.Statement (.rbrel g a b n) := by
  intro hw h t e
  obtain ⟨rfl, rfl⟩ := List.cons.inj e
  exact decode_words (b := build42) (by decide) (by decide) (n := 2) (by decide) rfl rfl rfl rfl (Eq.mpr (Instr.rbrel.injEq _ _ _ _ _ _ _ _) ⟨rfl, pA_reg (by omega) (by omega), pB_reg (by omega), fV_par (by omega)⟩) hw rfl

theorem RoundTrip.stacq (g : Guard) (d a : Reg) (role : BitVec 3) (try_ : Bool) : RoundTrip.Statement (.stacq g d a role try_) := by
  intro hw h t e
  obtain ⟨rfl, rfl⟩ := List.cons.inj e
  have := Bool.toNat_lt try_
  exact decode_words (b := build42) (by decide) (by decide) (n := 2) (by decide) rfl rfl rfl rfl (Eq.mpr (Instr.stacq.injEq _ _ _ _ _ _ _ _ _ _) ⟨rfl, pD_reg (by omega) (by omega) (by omega), pA_reg (by omega) (by omega), fV_par (by omega), fB_par (by omega)⟩) hw rfl

theorem RoundTrip.strel (g : Guard) (a b : Reg) (role : BitVec 3) : RoundTrip.Statement (.strel g a b role) := by
  intro hw h t e
  obtain ⟨rfl, rfl⟩ := List.cons.inj e
  exact decode_words (b := build42) (by decide) (by decide) (n := 2) (by decide) rfl rfl rfl rfl (Eq.mpr (Instr.strel.injEq _ _ _ _ _ _ _ _) ⟨rfl, pA_reg (by omega) (by omega), pB_reg (by omega), fV_par (by omega)⟩) hw rfl

theorem RoundTrip.sopen (g : Guard) (f : Fin 8) (a b : Reg) (off : BitVec 16) : RoundTrip.Statement (.sopen g f a b off) := by
  intro hw h t e
  obtain ⟨rfl, rfl⟩ := List.cons.inj e
  exact decode_words (b := build43) (by decide) (by decide) (n := 2) (by decide) rfl rfl rfl rfl (Eq.mpr (Instr.sopen.injEq _ _ _ _ _ _ _ _ _ _) ⟨rfl, pD_fin (by omega) (by omega) (by omega) (by omega), pA_reg (by omega) (by omega), pB_reg (by omega), fV_par (by omega)⟩) hw rfl

theorem RoundTrip.snext (g : Guard) (d : Reg) (f : Fin 8) : RoundTrip.Statement (.snext g d f) := by
  intro hw h t e
  obtain ⟨rfl, rfl⟩ := List.cons.inj e
  exact decode_words (b := build43) (by decide) (by decide) (n := 1) (by decide) rfl rfl rfl rfl (Eq.mpr (Instr.snext.injEq _ _ _ _ _ _) ⟨rfl, pD_reg (by omega) (by omega) (by omega), pA_fin (by omega) (by omega) (by omega)⟩) hw rfl

theorem RoundTrip.sisect (g : Guard) (d : Reg) (fa fb : Fin 8) : RoundTrip.Statement (.sisect g d fa fb) := by
  intro hw h t e
  obtain ⟨rfl, rfl⟩ := List.cons.inj e
  exact decode_words (b := build43) (by decide) (by decide) (n := 1) (by decide) rfl rfl rfl rfl (Eq.mpr (Instr.sisect.injEq _ _ _ _ _ _ _ _) ⟨rfl, pD_reg (by omega) (by omega) (by omega), pA_fin (by omega) (by omega) (by omega), pB_fin (by omega) (by omega)⟩) hw rfl

theorem RoundTrip.sunion (g : Guard) (d : Reg) (fa fb : Fin 8) : RoundTrip.Statement (.sunion g d fa fb) := by
  intro hw h t e
  obtain ⟨rfl, rfl⟩ := List.cons.inj e
  exact decode_words (b := build43) (by decide) (by decide) (n := 1) (by decide) rfl rfl rfl rfl (Eq.mpr (Instr.sunion.injEq _ _ _ _ _ _ _ _) ⟨rfl, pD_reg (by omega) (by omega) (by omega), pA_fin (by omega) (by omega) (by omega), pB_fin (by omega) (by omega)⟩) hw rfl

theorem RoundTrip.sskip (g : Guard) (d : Reg) (f : Fin 8) (b : Reg) : RoundTrip.Statement (.sskip g d f b) := by
  intro hw h t e
  obtain ⟨rfl, rfl⟩ := List.cons.inj e
  exact decode_words (b := build44) (by decide) (by decide) (n := 1) (by decide) rfl rfl rfl rfl (Eq.mpr (Instr.sskip.injEq _ _ _ _ _ _ _ _) ⟨rfl, pD_reg (by omega) (by omega) (by omega), pA_fin (by omega) (by omega) (by omega), pB_reg (by omega)⟩) hw rfl

theorem RoundTrip.scrd (g : Guard) (d : Reg) (f : Fin 8) (b : Reg) : RoundTrip.Statement (.scrd g d f b) := by
  intro hw h t e
  obtain ⟨rfl, rfl⟩ := List.cons.inj e
  exact decode_words (b := build44) (by decide) (by decide) (n := 1) (by decide) rfl rfl rfl rfl (Eq.mpr (Instr.scrd.injEq _ _ _ _ _ _ _ _) ⟨rfl, pD_reg (by omega) (by omega) (by omega), pA_fin (by omega) (by omega) (by omega), pB_reg (by omega)⟩) hw rfl

theorem RoundTrip.sval (g : Guard) (d : Reg) (f : Fin 8) (sgn : Bool) : RoundTrip.Statement (.sval g d f sgn) := by
  intro hw h t e
  obtain ⟨rfl, rfl⟩ := List.cons.inj e
  have := Bool.toNat_lt sgn
  exact decode_words (b := build44) (by decide) (by decide) (n := 2) (by decide) rfl rfl rfl rfl (Eq.mpr (Instr.sval.injEq _ _ _ _ _ _ _ _) ⟨rfl, pD_reg (by omega) (by omega) (by omega), pA_fin (by omega) (by omega) (by omega), fB_par (by omega)⟩) hw rfl

theorem RoundTrip.sdone (g : Guard) (gd f : Fin 8) : RoundTrip.Statement (.sdone g gd f) := by
  intro hw h t e
  obtain ⟨rfl, rfl⟩ := List.cons.inj e
  exact decode_words (b := build44) (by decide) (by decide) (n := 1) (by decide) rfl rfl rfl rfl (Eq.mpr (Instr.sdone.injEq _ _ _ _ _ _) ⟨rfl, pD_fin (by omega) (by omega) (by omega) (by omega), pA_fin (by omega) (by omega) (by omega)⟩) hw rfl

theorem RoundTrip.ssave (g : Guard) (f : Fin 8) (a : Reg) : RoundTrip.Statement (.ssave g f a) := by
  intro hw h t e
  obtain ⟨rfl, rfl⟩ := List.cons.inj e
  exact decode_words (b := build45) (by decide) (by decide) (n := 1) (by decide) rfl rfl rfl rfl (Eq.mpr (Instr.ssave.injEq _ _ _ _ _ _) ⟨rfl, pD_fin (by omega) (by omega) (by omega) (by omega), pA_reg (by omega) (by omega)⟩) hw rfl

theorem RoundTrip.srest (g : Guard) (f : Fin 8) (a : Reg) : RoundTrip.Statement (.srest g f a) := by
  intro hw h t e
  obtain ⟨rfl, rfl⟩ := List.cons.inj e
  exact decode_words (b := build45) (by decide) (by decide) (n := 1) (by decide) rfl rfl rfl rfl (Eq.mpr (Instr.srest.injEq _ _ _ _ _ _) ⟨rfl, pD_fin (by omega) (by omega) (by omega) (by omega), pA_reg (by omega) (by omega)⟩) hw rfl

theorem RoundTrip.sclose (g : Guard) (f : Fin 8) : RoundTrip.Statement (.sclose g f) := by
  intro hw h t e
  obtain ⟨rfl, rfl⟩ := List.cons.inj e
  exact decode_words (b := build45) (by decide) (by decide) (n := 1) (by decide) rfl rfl rfl rfl (Eq.mpr (Instr.sclose.injEq _ _ _ _) ⟨rfl, pD_fin (by omega) (by omega) (by omega) (by omega)⟩) hw rfl

theorem RoundTrip.cwb (g : Guard) (a b : Reg) : RoundTrip.Statement (.cwb g a b) := by
  intro hw h t e
  obtain ⟨rfl, rfl⟩ := List.cons.inj e
  exact decode_words (b := build46) (by decide) (by decide) (n := 1) (by decide) rfl rfl rfl rfl (Eq.mpr (Instr.cwb.injEq _ _ _ _ _ _) ⟨rfl, pA_reg (by omega) (by omega), pB_reg (by omega)⟩) hw rfl

theorem RoundTrip.cinv (g : Guard) (a b : Reg) : RoundTrip.Statement (.cinv g a b) := by
  intro hw h t e
  obtain ⟨rfl, rfl⟩ := List.cons.inj e
  exact decode_words (b := build46) (by decide) (by decide) (n := 1) (by decide) rfl rfl rfl rfl (Eq.mpr (Instr.cinv.injEq _ _ _ _ _ _) ⟨rfl, pA_reg (by omega) (by omega), pB_reg (by omega)⟩) hw rfl

theorem RoundTrip.cwbi (g : Guard) (a b : Reg) : RoundTrip.Statement (.cwbi g a b) := by
  intro hw h t e
  obtain ⟨rfl, rfl⟩ := List.cons.inj e
  exact decode_words (b := build46) (by decide) (by decide) (n := 1) (by decide) rfl rfl rfl rfl (Eq.mpr (Instr.cwbi.injEq _ _ _ _ _ _) ⟨rfl, pA_reg (by omega) (by omega), pB_reg (by omega)⟩) hw rfl

theorem RoundTrip.iinv (g : Guard) (a b : Reg) : RoundTrip.Statement (.iinv g a b) := by
  intro hw h t e
  obtain ⟨rfl, rfl⟩ := List.cons.inj e
  exact decode_words (b := build46) (by decide) (by decide) (n := 1) (by decide) rfl rfl rfl rfl (Eq.mpr (Instr.iinv.injEq _ _ _ _ _ _) ⟨rfl, pA_reg (by omega) (by omega), pB_reg (by omega)⟩) hw rfl

theorem RoundTrip.ibar (g : Guard) : RoundTrip.Statement (.ibar g) := by
  intro hw h t e
  obtain ⟨rfl, rfl⟩ := List.cons.inj e
  exact decode_words (b := build47) (by decide) (by decide) (n := 0) (by decide) rfl rfl rfl rfl (rfl) hw rfl

theorem RoundTrip.l2pf (g : Guard) (a : Reg) (n1 : BitVec 8) (cdc : Bool) : RoundTrip.Statement (.l2pf g a n1 cdc) := by
  intro hw h t e
  obtain ⟨rfl, rfl⟩ := List.cons.inj e
  have := Bool.toNat_lt cdc
  exact decode_words (b := build47) (by decide) (by decide) (n := 2) (by decide) rfl rfl rfl rfl (Eq.mpr (Instr.l2pf.injEq _ _ _ _ _ _ _ _) ⟨rfl, pA_reg (by omega) (by omega), fV_par (by omega), fB_par (by omega)⟩) hw rfl

theorem RoundTrip.l2zero (g : Guard) (a : Reg) : RoundTrip.Statement (.l2zero g a) := by
  intro hw h t e
  obtain ⟨rfl, rfl⟩ := List.cons.inj e
  exact decode_words (b := build47) (by decide) (by decide) (n := 1) (by decide) rfl rfl rfl rfl (Eq.mpr (Instr.l2zero.injEq _ _ _ _) ⟨rfl, pA_reg (by omega) (by omega)⟩) hw rfl

theorem RoundTrip.gbind (g : Guard) (d a b : Reg) (esz : BitVec 3) (iw : BitVec 2) (isgn bytes : Bool) (cnt : BitVec 24) : RoundTrip.Statement (.gbind g d a b esz iw isgn bytes cnt) := by
  intro hw h t e
  obtain ⟨rfl, rfl⟩ := List.cons.inj e
  have := Bool.toNat_lt isgn
  have := Bool.toNat_lt bytes
  exact decode_words (b := build48) (by decide) (by decide) (n := 3) (by decide) rfl rfl rfl rfl (Eq.mpr (Instr.gbind.injEq _ _ _ _ _ _ _ _ _ _ _ _ _ _ _ _ _ _) ⟨rfl, pD_reg (by omega) (by omega) (by omega), pA_reg (by omega) (by omega), pB_reg (by omega), fV_imm2 (by omega) (by omega), fV_imm2 (by omega) (by omega), fB_imm2 (by omega) (by omega), fB_imm2 (by omega) (by omega), fV_imm2 (by omega) (by omega)⟩) hw rfl

theorem RoundTrip.gunb (g : Guard) (d a : Reg) : RoundTrip.Statement (.gunb g d a) := by
  intro hw h t e
  obtain ⟨rfl, rfl⟩ := List.cons.inj e
  exact decode_words (b := build48) (by decide) (by decide) (n := 1) (by decide) rfl rfl rfl rfl (Eq.mpr (Instr.gunb.injEq _ _ _ _ _ _) ⟨rfl, pD_reg (by omega) (by omega) (by omega), pA_reg (by omega) (by omega)⟩) hw rfl

theorem RoundTrip.gstat (g : Guard) (d a : Reg) : RoundTrip.Statement (.gstat g d a) := by
  intro hw h t e
  obtain ⟨rfl, rfl⟩ := List.cons.inj e
  exact decode_words (b := build48) (by decide) (by decide) (n := 1) (by decide) rfl rfl rfl rfl (Eq.mpr (Instr.gstat.injEq _ _ _ _ _ _) ⟨rfl, pD_reg (by omega) (by omega) (by omega), pA_reg (by omega) (by omega)⟩) hw rfl

theorem RoundTrip.tlbinv (g : Guard) (a b : Reg) (all : Bool) : RoundTrip.Statement (.tlbinv g a b all) := by
  intro hw h t e
  obtain ⟨rfl, rfl⟩ := List.cons.inj e
  have := Bool.toNat_lt all
  exact decode_words (b := build48) (by decide) (by decide) (n := 1) (by decide) rfl rfl rfl rfl (Eq.mpr (Instr.tlbinv.injEq _ _ _ _ _ _ _ _) ⟨rfl, pA_reg (by omega) (by omega), pB_reg (by omega), pX_bit⟩) hw rfl

theorem RoundTrip.cpush (g : Guard) (d a b : Reg) (place : Place) (opt : CopyOpt) (glb ring : Bool) (eng : Eng) : RoundTrip.Statement (.cpush g d a b place opt glb ring eng) := by
  intro hw h t e
  obtain ⟨rfl, rfl⟩ := List.cons.inj e
  obtain ⟨conv, snap, wtb, arr, note⟩ := opt
  have := Bool.toNat_lt snap
  have := Bool.toNat_lt wtb
  have := Bool.toNat_lt arr
  have := Bool.toNat_lt glb
  have := Bool.toNat_lt ring
  exact decode_words (b := build49) (by decide) (by decide) (n := 5) (by decide) rfl rfl rfl rfl (Eq.mpr (Instr.cpush.injEq _ _ _ _ _ _ _ _ _ _ _ _ _ _ _ _ _ _) ⟨rfl, pD_reg (by omega) (by omega) (by omega), pA_reg (by omega) (by omega), pB_reg (by omega), rfl, Eq.mpr (CopyOpt.mk.injEq _ _ _ _ _ _ _ _ _ _) ⟨fV_par (by dsimp only; omega), fB_par (by dsimp only; omega), fB_par (by dsimp only; omega), fB_par (by dsimp only; omega), fV_par (by dsimp only; omega)⟩, fB_par (by dsimp only; omega), fB_par (by dsimp only; omega), engOf_parcels _⟩) hw rfl

theorem RoundTrip.cslab (g : Guard) (d a b g1 g2 : Reg) (place : Place) (opt : CopyOpt) (unit : Bool) (eng : Eng) : RoundTrip.Statement (.cslab g d a b g1 g2 place opt unit eng) := by
  intro hw h t e
  obtain ⟨rfl, rfl⟩ := List.cons.inj e
  obtain ⟨conv, snap, wtb, arr, note⟩ := opt
  have := Bool.toNat_lt snap
  have := Bool.toNat_lt wtb
  have := Bool.toNat_lt arr
  have := Bool.toNat_lt unit
  exact decode_words (b := build49) (by decide) (by decide) (n := 6) (by decide) rfl rfl rfl rfl (Eq.mpr (Instr.cslab.injEq _ _ _ _ _ _ _ _ _ _ _ _ _ _ _ _ _ _ _ _) ⟨rfl, pD_reg (by omega) (by omega) (by omega), pA_reg (by omega) (by omega), pB_reg (by omega), pD_reg (by omega) (by omega) (by omega), pA_reg (by omega) (by omega), rfl, Eq.mpr (CopyOpt.mk.injEq _ _ _ _ _ _ _ _ _ _) ⟨fV_par (by dsimp only; omega), fB_par (by dsimp only; omega), fB_par (by dsimp only; omega), fB_par (by dsimp only; omega), fV_par (by dsimp only; omega)⟩, fB_par (by dsimp only; omega), engOf_parcels _⟩) hw rfl

theorem RoundTrip.cmcast (g : Guard) (d a b : Reg) (place : Place) (opt : CopyOpt) (unit : Bool) (eng : Eng) : RoundTrip.Statement (.cmcast g d a b place opt unit eng) := by
  intro hw h t e
  obtain ⟨rfl, rfl⟩ := List.cons.inj e
  obtain ⟨conv, snap, wtb, arr, note⟩ := opt
  have := Bool.toNat_lt snap
  have := Bool.toNat_lt wtb
  have := Bool.toNat_lt arr
  have := Bool.toNat_lt unit
  exact decode_words (b := build49) (by decide) (by decide) (n := 5) (by decide) rfl rfl rfl rfl (Eq.mpr (Instr.cmcast.injEq _ _ _ _ _ _ _ _ _ _ _ _ _ _ _ _) ⟨rfl, pD_reg (by omega) (by omega) (by omega), pA_reg (by omega) (by omega), pB_reg (by omega), rfl, Eq.mpr (CopyOpt.mk.injEq _ _ _ _ _ _ _ _ _ _) ⟨fV_par (by dsimp only; omega), fB_par (by dsimp only; omega), fB_par (by dsimp only; omega), fB_par (by dsimp only; omega), fV_par (by dsimp only; omega)⟩, fB_par (by dsimp only; omega), engOf_parcels _⟩) hw rfl

theorem RoundTrip.cthr (g : Guard) (d a b gr pr seed : Reg) (tb arr : Bool) (note : BitVec 2) (stoch : Bool) (eng : Eng) : RoundTrip.Statement (.cthr g d a b gr pr seed tb arr note stoch eng) := by
  intro hw h t e
  obtain ⟨rfl, rfl⟩ := List.cons.inj e
  have := Bool.toNat_lt tb
  have := Bool.toNat_lt arr
  have := Bool.toNat_lt stoch
  exact decode_words (b := build49) (by decide) (by decide) (n := 5) (by decide) rfl rfl rfl rfl (Eq.mpr (Instr.cthr.injEq _ _ _ _ _ _ _ _ _ _ _ _ _ _ _ _ _ _ _ _ _ _ _ _) ⟨rfl, pD_reg (by omega) (by omega) (by omega), pA_reg (by omega) (by omega), pB_reg (by omega), pD_reg (by omega) (by omega) (by omega), pA_reg (by omega) (by omega), pB_reg (by omega), fB_par (by omega), fB_par (by omega), fV_par (by omega), fB_par (by omega), engOf_parcels _⟩) hw rfl

theorem RoundTrip.cconv (g : Guard) (d a b : Reg) (conv tslot : BitVec 4) (note : BitVec 2) (eng : Eng) : RoundTrip.Statement (.cconv g d a b conv tslot note eng) := by
  intro hw h t e
  obtain ⟨rfl, rfl⟩ := List.cons.inj e
  exact decode_words (b := build50) (by decide) (by decide) (n := 4) (by decide) rfl rfl rfl rfl (Eq.mpr (Instr.cconv.injEq _ _ _ _ _ _ _ _ _ _ _ _ _ _ _ _) ⟨rfl, pD_reg (by omega) (by omega) (by omega), pA_reg (by omega) (by omega), pB_reg (by omega), fV_par (by omega), fV_par (by omega), fV_par (by omega), engOf_parcels _⟩) hw rfl

theorem RoundTrip.ctab (g : Guard) (d a : Reg) (tslot : BitVec 4) (tfmt : BitVec 2) : RoundTrip.Statement (.ctab g d a tslot tfmt) := by
  intro hw h t e
  obtain ⟨rfl, rfl⟩ := List.cons.inj e
  exact decode_words (b := build50) (by decide) (by decide) (n := 2) (by decide) rfl rfl rfl rfl (Eq.mpr (Instr.ctab.injEq _ _ _ _ _ _ _ _ _ _) ⟨rfl, pD_reg (by omega) (by omega) (by omega), pA_reg (by omega) (by omega), fV_par (by omega), fV_par (by omega)⟩) hw rfl

theorem RoundTrip.cfree (g : Guard) (a : Reg) (place : Place) : RoundTrip.Statement (.cfree g a place) := by
  intro hw h t e
  obtain ⟨rfl, rfl⟩ := List.cons.inj e
  exact decode_words (b := build50) (by decide) (by decide) (n := 2) (by decide) rfl rfl rfl rfl (Eq.mpr (Instr.cfree.injEq _ _ _ _ _ _) ⟨rfl, pA_reg (by omega) (by omega), rfl⟩) hw rfl

theorem RoundTrip.tbinit (g : Guard) (a : Reg) (n : BitVec 16) : RoundTrip.Statement (.tbinit g a n) := by
  intro hw h t e
  obtain ⟨rfl, rfl⟩ := List.cons.inj e
  exact decode_words (b := build50) (by decide) (by decide) (n := 2) (by decide) rfl rfl rfl rfl (Eq.mpr (Instr.tbinit.injEq _ _ _ _ _ _) ⟨rfl, pA_reg (by omega) (by omega), fV_par (by omega)⟩) hw rfl

theorem RoundTrip.tbarr (g : Guard) (d a : Reg) : RoundTrip.Statement (.tbarr g d a) := by
  intro hw h t e
  obtain ⟨rfl, rfl⟩ := List.cons.inj e
  exact decode_words (b := build51) (by decide) (by decide) (n := 1) (by decide) rfl rfl rfl rfl (Eq.mpr (Instr.tbarr.injEq _ _ _ _ _ _) ⟨rfl, pD_reg (by omega) (by omega) (by omega), pA_reg (by omega) (by omega)⟩) hw rfl

theorem RoundTrip.tbexp (g : Guard) (d a b : Reg) (arr : Bool) : RoundTrip.Statement (.tbexp g d a b arr) := by
  intro hw h t e
  obtain ⟨rfl, rfl⟩ := List.cons.inj e
  have := Bool.toNat_lt arr
  exact decode_words (b := build51) (by decide) (by decide) (n := 1) (by decide) rfl rfl rfl rfl (Eq.mpr (Instr.tbexp.injEq _ _ _ _ _ _ _ _ _ _) ⟨rfl, pD_reg (by omega) (by omega) (by omega), pA_reg (by omega) (by omega), pB_reg (by omega), pX_bit⟩) hw rfl

theorem RoundTrip.tbwait (g : Guard) (d a b : Reg) : RoundTrip.Statement (.tbwait g d a b) := by
  intro hw h t e
  obtain ⟨rfl, rfl⟩ := List.cons.inj e
  exact decode_words (b := build51) (by decide) (by decide) (n := 1) (by decide) rfl rfl rfl rfl (Eq.mpr (Instr.tbwait.injEq _ _ _ _ _ _ _ _) ⟨rfl, pD_reg (by omega) (by omega) (by omega), pA_reg (by omega) (by omega), pB_reg (by omega)⟩) hw rfl

theorem RoundTrip.tbtest (g : Guard) (d a b : Reg) : RoundTrip.Statement (.tbtest g d a b) := by
  intro hw h t e
  obtain ⟨rfl, rfl⟩ := List.cons.inj e
  exact decode_words (b := build51) (by decide) (by decide) (n := 1) (by decide) rfl rfl rfl rfl (Eq.mpr (Instr.tbtest.injEq _ _ _ _ _ _ _ _) ⟨rfl, pD_reg (by omega) (by omega) (by omega), pA_reg (by omega) (by omega), pB_reg (by omega)⟩) hw rfl

theorem RoundTrip.tbguard (g : Guard) (d a b : Reg) : RoundTrip.Statement (.tbguard g d a b) := by
  intro hw h t e
  obtain ⟨rfl, rfl⟩ := List.cons.inj e
  exact decode_words (b := build52) (by decide) (by decide) (n := 1) (by decide) rfl rfl rfl rfl (Eq.mpr (Instr.tbguard.injEq _ _ _ _ _ _ _ _) ⟨rfl, pD_reg (by omega) (by omega) (by omega), pA_reg (by omega) (by omega), pB_reg (by omega)⟩) hw rfl

theorem RoundTrip.msend (g : Guard) (d a b : Reg) (place : Place) (ch : BitVec 6) (dec : BitVec 10) : RoundTrip.Statement (.msend g d a b place ch dec) := by
  intro hw h t e
  obtain ⟨rfl, rfl⟩ := List.cons.inj e
  exact decode_words (b := build53) (by decide) (by decide) (n := 3) (by decide) rfl rfl rfl rfl (Eq.mpr (Instr.msend.injEq _ _ _ _ _ _ _ _ _ _ _ _ _ _) ⟨rfl, pD_reg (by omega) (by omega) (by omega), pA_reg (by omega) (by omega), pB_reg (by omega), rfl, fV_par (by omega), fV_par (by omega)⟩) hw rfl

theorem RoundTrip.mrecv (g : Guard) (d a b : Reg) : RoundTrip.Statement (.mrecv g d a b) := by
  intro hw h t e
  obtain ⟨rfl, rfl⟩ := List.cons.inj e
  exact decode_words (b := build53) (by decide) (by decide) (n := 1) (by decide) rfl rfl rfl rfl (Eq.mpr (Instr.mrecv.injEq _ _ _ _ _ _ _ _) ⟨rfl, pD_reg (by omega) (by omega) (by omega), pA_reg (by omega) (by omega), pB_reg (by omega)⟩) hw rfl

theorem RoundTrip.mpeek (g : Guard) (d a : Reg) : RoundTrip.Statement (.mpeek g d a) := by
  intro hw h t e
  obtain ⟨rfl, rfl⟩ := List.cons.inj e
  exact decode_words (b := build53) (by decide) (by decide) (n := 1) (by decide) rfl rfl rfl rfl (Eq.mpr (Instr.mpeek.injEq _ _ _ _ _ _) ⟨rfl, pD_reg (by omega) (by omega) (by omega), pA_reg (by omega) (by omega)⟩) hw rfl

theorem RoundTrip.rst (g : Guard) (z : Size) (d a : Reg) (place : Place) (ord : Bool) : RoundTrip.Statement (.rst g z d a place ord) := by
  intro hw h t e
  obtain ⟨rfl, rfl⟩ := List.cons.inj e
  have := Size.code_lt z
  have := Bool.toNat_lt ord
  exact decode_words (b := build53) (by decide) (by decide) (n := 3) (by decide) rfl rfl rfl rfl (Eq.mpr (Instr.rst.injEq _ _ _ _ _ _ _ _ _ _ _ _) ⟨rfl, Size.ofCode_of (fN_par (by omega)), pD_reg (by omega) (by omega) (by omega), pA_reg (by omega) (by omega), rfl, fB_par (by omega)⟩) hw rfl

theorem RoundTrip.rld (g : Guard) (z : Size) (d a : Reg) (place : Place) (zx : Bool) : RoundTrip.Statement (.rld g z d a place zx) := by
  intro hw h t e
  obtain ⟨rfl, rfl⟩ := List.cons.inj e
  have := Size.code_lt z
  have := Bool.toNat_lt zx
  exact decode_words (b := build54) (by decide) (by decide) (n := 3) (by decide) rfl rfl rfl rfl (Eq.mpr (Instr.rld.injEq _ _ _ _ _ _ _ _ _ _ _ _) ⟨rfl, Size.ofCode_of (fN_par (by omega)), pD_reg (by omega) (by omega) (by omega), pA_reg (by omega) (by omega), rfl, fB_par (by omega)⟩) hw rfl

theorem RoundTrip.jread (g : Guard) (d a b : Reg) : RoundTrip.Statement (.jread g d a b) := by
  intro hw h t e
  obtain ⟨rfl, rfl⟩ := List.cons.inj e
  exact decode_words (b := build54) (by decide) (by decide) (n := 1) (by decide) rfl rfl rfl rfl (Eq.mpr (Instr.jread.injEq _ _ _ _ _ _ _ _) ⟨rfl, pD_reg (by omega) (by omega) (by omega), pA_reg (by omega) (by omega), pB_reg (by omega)⟩) hw rfl

theorem RoundTrip.jack (g : Guard) (d a : Reg) : RoundTrip.Statement (.jack g d a) := by
  intro hw h t e
  obtain ⟨rfl, rfl⟩ := List.cons.inj e
  exact decode_words (b := build54) (by decide) (by decide) (n := 1) (by decide) rfl rfl rfl rfl (Eq.mpr (Instr.jack.injEq _ _ _ _ _ _) ⟨rfl, pD_reg (by omega) (by omega) (by omega), pA_reg (by omega) (by omega)⟩) hw rfl

theorem RoundTrip.nfence (g : Guard) (rst msg : Bool) : RoundTrip.Statement (.nfence g rst msg) := by
  intro hw h t e
  obtain ⟨rfl, rfl⟩ := List.cons.inj e
  have := Bool.toNat_lt rst
  have := Bool.toNat_lt msg
  exact decode_words (b := build54) (by decide) (by decide) (n := 1) (by decide) rfl rfl rfl rfl (Eq.mpr (Instr.nfence.injEq _ _ _ _ _ _) ⟨rfl, fB_par (by omega), fB_par (by omega)⟩) hw rfl

theorem RoundTrip.coll (g : Guard) (d a b c e : Reg) (kind : CollKind) (ty : EltTy) (red : RedOp) (rm : Rm) : RoundTrip.Statement (.coll g d a b c e kind ty red rm) := by
  intro hw h t e
  obtain ⟨rfl, rfl⟩ := List.cons.inj e
  have := CollKind.code_lt kind
  have := EltTy.code_lt ty
  have := RedOp.code_lt red
  have := Rm.code_lt rm
  exact decode_words (b := build55) (by decide) (by decide) (n := 3) (by decide) rfl rfl rfl rfl (Eq.mpr (Instr.coll.injEq _ _ _ _ _ _ _ _ _ _ _ _ _ _ _ _ _ _ _ _) ⟨rfl, pD_reg (by omega) (by omega) (by omega), pA_reg (by omega) (by omega), pB_reg (by omega), pD_reg (by omega) (by omega) (by omega), pA_reg (by omega) (by omega), CollKind.ofCode_of (fN_par (by omega)), EltTy.ofCode_of (fN_par (by omega)), RedOp.ofCode_of (fN_par (by omega)), Rm.ofCode_of (fN_par (by omega))⟩) hw rfl

theorem RoundTrip.enctabWrite (g : Guard) (op : CsrOp) (d a : Reg) : RoundTrip.Statement (.enctabWrite g op d a) := by
  intro hw h t e
  cases op
  · exact absurd (show false = true from hw) (by decide)
  · obtain ⟨rfl, rfl⟩ := List.cons.inj e
    exact decode_words (b := build17) (by decide) (by decide) (n := 2) (by decide) rfl rfl rfl rfl (Eq.mpr (Instr.enctabWrite.injEq _ _ _ _ _ _ _ _) ⟨rfl, rfl, pD_reg (by omega) (by omega) (by omega), pA_reg (by omega) (by omega)⟩) hw rfl
  · obtain ⟨rfl, rfl⟩ := List.cons.inj e
    exact decode_words (b := build17) (by decide) (by decide) (n := 2) (by decide) rfl rfl rfl rfl (Eq.mpr (Instr.enctabWrite.injEq _ _ _ _ _ _ _ _) ⟨rfl, rfl, pD_reg (by omega) (by omega) (by omega), pA_reg (by omega) (by omega)⟩) hw rfl
  · obtain ⟨rfl, rfl⟩ := List.cons.inj e
    exact decode_words (b := build17) (by decide) (by decide) (n := 2) (by decide) rfl rfl rfl rfl (Eq.mpr (Instr.enctabWrite.injEq _ _ _ _ _ _ _ _) ⟨rfl, rfl, pD_reg (by omega) (by omega) (by omega), pA_reg (by omega) (by omega)⟩) hw rfl

theorem RoundTrip.brk (g : Guard) (code : BitVec 16) : RoundTrip.Statement (.brk g code) := by
  intro hw h t e
  obtain ⟨rfl, rfl⟩ := List.cons.inj e
  exact decode_words (b := build56) (by decide) (by decide) (n := 1) (by decide) rfl rfl rfl rfl (Eq.mpr (Instr.brk.injEq _ _ _ _) ⟨rfl, fV_par (by omega)⟩) hw rfl

theorem RoundTrip.dbgctlStat (g : Guard) (d : Reg) : RoundTrip.Statement (.dbgctlStat g d) := by
  intro hw h t e
  obtain ⟨rfl, rfl⟩ := List.cons.inj e
  exact decode_words (b := build56) (by decide) (by decide) (n := 2) (by decide) rfl rfl rfl rfl (Eq.mpr (Instr.dbgctlStat.injEq _ _ _ _) ⟨rfl, pD_reg (by omega) (by omega) (by omega)⟩) hw rfl

theorem RoundTrip.dbgctlHalt (g : Guard) (d : Reg) : RoundTrip.Statement (.dbgctlHalt g d) := by
  intro hw h t e
  obtain ⟨rfl, rfl⟩ := List.cons.inj e
  exact decode_words (b := build56) (by decide) (by decide) (n := 2) (by decide) rfl rfl rfl rfl (Eq.mpr (Instr.dbgctlHalt.injEq _ _ _ _) ⟨rfl, pD_reg (by omega) (by omega) (by omega)⟩) hw rfl

theorem RoundTrip.dbgctlRun (g : Guard) (d : Reg) : RoundTrip.Statement (.dbgctlRun g d) := by
  intro hw h t e
  obtain ⟨rfl, rfl⟩ := List.cons.inj e
  exact decode_words (b := build56) (by decide) (by decide) (n := 2) (by decide) rfl rfl rfl rfl (Eq.mpr (Instr.dbgctlRun.injEq _ _ _ _) ⟨rfl, pD_reg (by omega) (by omega) (by omega)⟩) hw rfl

theorem RoundTrip.dbgctlKill (g : Guard) (d a : Reg) : RoundTrip.Statement (.dbgctlKill g d a) := by
  intro hw h t e
  obtain ⟨rfl, rfl⟩ := List.cons.inj e
  exact decode_words (b := build56) (by decide) (by decide) (n := 2) (by decide) rfl rfl rfl rfl (Eq.mpr (Instr.dbgctlKill.injEq _ _ _ _ _ _) ⟨rfl, pD_reg (by omega) (by omega) (by omega), pA_reg (by omega) (by omega)⟩) hw rfl

theorem RoundTrip.dbgctlSettle (g : Guard) (d : Reg) : RoundTrip.Statement (.dbgctlSettle g d) := by
  intro hw h t e
  obtain ⟨rfl, rfl⟩ := List.cons.inj e
  exact decode_words (b := build56) (by decide) (by decide) (n := 2) (by decide) rfl rfl rfl rfl (Eq.mpr (Instr.dbgctlSettle.injEq _ _ _ _) ⟨rfl, pD_reg (by omega) (by omega) (by omega)⟩) hw rfl

theorem RoundTrip.rangeUnitService (die : Nat) : RoundTrip.Statement (.rangeUnitService die) := RoundTrip.no_words rfl

theorem RoundTrip.queueEntryLanding (core : Nat) : RoundTrip.Statement (.queueEntryLanding core) := RoundTrip.no_words rfl

theorem RoundTrip.cspBlockZeroed (cl : Nat) : RoundTrip.Statement (.cspBlockZeroed cl) := RoundTrip.no_words rfl

theorem RoundTrip.vlpRequestService (octet : Nat) : RoundTrip.Statement (.vlpRequestService octet) := RoundTrip.no_words rfl

theorem RoundTrip.sfuReturn (quad : Nat) : RoundTrip.Statement (.sfuReturn quad) := RoundTrip.no_words rfl

theorem RoundTrip.tmeOperationStart (tile : Nat) : RoundTrip.Statement (.tmeOperationStart tile) := RoundTrip.no_words rfl

theorem RoundTrip.tmeOperationComplete (tile k : Nat) : RoundTrip.Statement (.tmeOperationComplete tile k) := RoundTrip.no_words rfl

theorem RoundTrip.iinvComplete (cl : Nat) : RoundTrip.Statement (.iinvComplete cl) := RoundTrip.no_words rfl

theorem RoundTrip.tableWalk (die : Nat) : RoundTrip.Statement (.tableWalk die) := RoundTrip.no_words rfl

theorem RoundTrip.copyOperationStart (engine : Nat) : RoundTrip.Statement (.copyOperationStart engine) := RoundTrip.no_words rfl

theorem RoundTrip.copyChunkLanding (engine op chunk : Nat) : RoundTrip.Statement (.copyChunkLanding engine op chunk) := RoundTrip.no_words rfl

theorem RoundTrip.copyOperationComplete (engine op : Nat) : RoundTrip.Statement (.copyOperationComplete engine op) := RoundTrip.no_words rfl

theorem RoundTrip.collectiveStart (engine : Nat) : RoundTrip.Statement (.collectiveStart engine) := RoundTrip.no_words rfl

theorem RoundTrip.collectiveContribution (engine op rank chunk : Nat) (data : Option Contrib) : RoundTrip.Statement (.collectiveContribution engine op rank chunk data) := RoundTrip.no_words rfl

theorem RoundTrip.collectiveChunkTimeout (engine op chunk : Nat) : RoundTrip.Statement (.collectiveChunkTimeout engine op chunk) := RoundTrip.no_words rfl

theorem RoundTrip.collectiveComplete (engine op : Nat) : RoundTrip.Statement (.collectiveComplete engine op) := RoundTrip.no_words rfl

theorem RoundTrip.activationStart (core : Nat) : RoundTrip.Statement (.activationStart core) := RoundTrip.no_words rfl

theorem RoundTrip.l2RequestService (slice : Nat) : RoundTrip.Statement (.l2RequestService slice) := RoundTrip.no_words rfl

theorem RoundTrip.l2WriteReplay (slice k : Nat) : RoundTrip.Statement (.l2WriteReplay slice k) := RoundTrip.no_words rfl

theorem RoundTrip.writeBackBufferDrain (slice : Nat) : RoundTrip.Statement (.writeBackBufferDrain slice) := RoundTrip.no_words rfl

theorem RoundTrip.l2FillReturn (slice k : Nat) : RoundTrip.Statement (.l2FillReturn slice k) := RoundTrip.no_words rfl

theorem RoundTrip.hostCxlMemAccess (addr : Nat) (write : Bool) (bytes : List Byte) : RoundTrip.Statement (.hostCxlMemAccess addr write bytes) := RoundTrip.no_words rfl

theorem RoundTrip.encoderFrame (die entry : Nat) : RoundTrip.Statement (.encoderFrame die entry) := RoundTrip.no_words rfl

theorem RoundTrip.encoderRdPoll (die entry : Nat) : RoundTrip.Statement (.encoderRdPoll die entry) := RoundTrip.no_words rfl

theorem RoundTrip.timeSyncMessage (master : BitVec 64) : RoundTrip.Statement (.timeSyncMessage master) := RoundTrip.no_words rfl

theorem RoundTrip.fabricTraining (module : BitVec 10) : RoundTrip.Statement (.fabricTraining module) := RoundTrip.no_words rfl

theorem RoundTrip.recoveryImageI3c (image : List Byte) : RoundTrip.Statement (.recoveryImageI3c image) := RoundTrip.no_words rfl

theorem RoundTrip.rcvlenWrite (v : BitVec 64) : RoundTrip.Statement (.rcvlenWrite v) := RoundTrip.no_words rfl

theorem RoundTrip.hctailWrite (v : BitVec 64) : RoundTrip.Statement (.hctailWrite v) := RoundTrip.no_words rfl

theorem RoundTrip.hcrsizeWrite (v : BitVec 64) : RoundTrip.Statement (.hcrsizeWrite v) := RoundTrip.no_words rfl

theorem RoundTrip.hcrbaseWrite (v : BitVec 64) : RoundTrip.Statement (.hcrbaseWrite v) := RoundTrip.no_words rfl

theorem RoundTrip.pcapWrite (v : BitVec 64) : RoundTrip.Statement (.pcapWrite v) := RoundTrip.no_words rfl

theorem RoundTrip.hostRegisterWrite (hib : Bool) (off : Nat) (v : BitVec 64) : RoundTrip.Statement (.hostRegisterWrite hib off v) := RoundTrip.no_words rfl

theorem RoundTrip.powerSample (power : BitVec 32) (temp : BitVec 16) : RoundTrip.Statement (.powerSample power temp) := RoundTrip.no_words rfl

theorem RoundTrip.unassignedOpcode (head : Parcel) : RoundTrip.Statement (.unassignedOpcode head) := RoundTrip.no_words rfl

theorem RoundTrip.backInvalidateSnoopResponse (line : Nat) : RoundTrip.Statement (.backInvalidateSnoopResponse line) := RoundTrip.no_words rfl

theorem RoundTrip.keyTransportKeyProvisioning (key : BitVec 256) : RoundTrip.Statement (.keyTransportKeyProvisioning key) := RoundTrip.no_words rfl

theorem RoundTrip.cxlLinkTraining (fast : Bool) : RoundTrip.Statement (.cxlLinkTraining fast) := RoundTrip.no_words rfl

theorem RoundTrip.falignTimeout : RoundTrip.Statement .falignTimeout := RoundTrip.no_words rfl

theorem RoundTrip.feRetryAttempt : RoundTrip.Statement .feRetryAttempt := RoundTrip.no_words rfl

theorem RoundTrip.mwaitDeadline : RoundTrip.Statement .mwaitDeadline := RoundTrip.no_words rfl

theorem RoundTrip.walkQueueRetry : RoundTrip.Statement .walkQueueRetry := RoundTrip.no_words rfl

theorem RoundTrip.cfreeArrival : RoundTrip.Statement .cfreeArrival := RoundTrip.no_words rfl

theorem RoundTrip.messageArrival : RoundTrip.Statement .messageArrival := RoundTrip.no_words rfl

theorem RoundTrip.returnedMessage : RoundTrip.Statement .returnedMessage := RoundTrip.no_words rfl

theorem RoundTrip.acknowledgementArrival : RoundTrip.Statement .acknowledgementArrival := RoundTrip.no_words rfl

theorem RoundTrip.remoteStoreArrival : RoundTrip.Statement .remoteStoreArrival := RoundTrip.no_words rfl

theorem RoundTrip.journalRefusal : RoundTrip.Statement .journalRefusal := RoundTrip.no_words rfl

theorem RoundTrip.remoteLoadService : RoundTrip.Statement .remoteLoadService := RoundTrip.no_words rfl

theorem RoundTrip.remoteLoadReply : RoundTrip.Statement .remoteLoadReply := RoundTrip.no_words rfl

theorem RoundTrip.driftCreditArrival : RoundTrip.Statement .driftCreditArrival := RoundTrip.no_words rfl

theorem RoundTrip.remoteReplyTimeout : RoundTrip.Statement .remoteReplyTimeout := RoundTrip.no_words rfl

theorem RoundTrip.fetchLine : RoundTrip.Statement .fetchLine := RoundTrip.no_words rfl

theorem RoundTrip.launchCheck : RoundTrip.Statement .launchCheck := RoundTrip.no_words rfl

theorem RoundTrip.launchStart : RoundTrip.Statement .launchStart := RoundTrip.no_words rfl

theorem RoundTrip.launchEnd : RoundTrip.Statement .launchEnd := RoundTrip.no_words rfl

theorem RoundTrip.streamWaitEntry : RoundTrip.Statement .streamWaitEntry := RoundTrip.no_words rfl

theorem RoundTrip.streamSignalEntry : RoundTrip.Statement .streamSignalEntry := RoundTrip.no_words rfl

theorem RoundTrip.streamMapping : RoundTrip.Statement .streamMapping := RoundTrip.no_words rfl

theorem RoundTrip.inheritanceSearch : RoundTrip.Statement .inheritanceSearch := RoundTrip.no_words rfl

theorem RoundTrip.contractJobRelease : RoundTrip.Statement .contractJobRelease := RoundTrip.no_words rfl

theorem RoundTrip.contractBudgetOverrun : RoundTrip.Statement .contractBudgetOverrun := RoundTrip.no_words rfl

theorem RoundTrip.gangSwitchOut : RoundTrip.Statement .gangSwitchOut := RoundTrip.no_words rfl

theorem RoundTrip.gangSwitchIn : RoundTrip.Statement .gangSwitchIn := RoundTrip.no_words rfl

theorem RoundTrip.timeSyncLoss : RoundTrip.Statement .timeSyncLoss := RoundTrip.no_words rfl

theorem RoundTrip.teardownStep : RoundTrip.Statement .teardownStep := RoundTrip.no_words rfl

theorem RoundTrip.moduleReset : RoundTrip.Statement .moduleReset := RoundTrip.no_words rfl

theorem RoundTrip.ctxnew : RoundTrip.Statement .ctxnew := RoundTrip.no_words rfl

theorem RoundTrip.strnew : RoundTrip.Statement .strnew := RoundTrip.no_words rfl

theorem RoundTrip.strrst : RoundTrip.Statement .strrst := RoundTrip.no_words rfl

theorem RoundTrip.append : RoundTrip.Statement .append := RoundTrip.no_words rfl

theorem RoundTrip.semset : RoundTrip.Statement .semset := RoundTrip.no_words rfl

theorem RoundTrip.cancel : RoundTrip.Statement .cancel := RoundTrip.no_words rfl

theorem RoundTrip.teardown : RoundTrip.Statement .teardown := RoundTrip.no_words rfl

theorem RoundTrip.keyload : RoundTrip.Statement .keyload := RoundTrip.no_words rfl

theorem RoundTrip.attest : RoundTrip.Statement .attest := RoundTrip.no_words rfl

theorem RoundTrip.fwupd : RoundTrip.Statement .fwupd := RoundTrip.no_words rfl

theorem RoundTrip.attestCompletion : RoundTrip.Statement .attestCompletion := RoundTrip.no_words rfl

theorem RoundTrip.fwupdCompletion : RoundTrip.Statement .fwupdCompletion := RoundTrip.no_words rfl

end Sys2Proof.Laws
end

