-- ==== Sys2Proof/Tests/Slice0.lean ====
section
/-!
SUPPORT. Tests: the checks of well-formedness, words of the spec's tables, and for every statement with hypotheses concrete states and operands that meet them, at
the ends of their ranges, with what the rules say of the result. Expected values are those of the rules, worked out by hand.
-/

namespace Sys2Proof.Tests
open Sys2Proof.Machine

-- The kernel evaluates each theorem below on its own: one at a time keeps the memory small.
set_option Elab.async false

/-- The guard of an unguarded head. -/
def G : Guard := ⟨0, false⟩

/-- No wait and no signal. -/
def E0 : Eng := ⟨0, 0, 0, 0⟩

/-- A slot that runs an activation of channel 0, with these registers. -/
def regs (l : List (Reg × Word)) : Slot :=
  { Slot.init with chan := some 0, priv := true, s := l.foldl (fun v p => v.set p.1 p.2) Slot.init.s }

/-- A machine in which slot `n` is the executing one, and holds `l`. -/
def at0 (n : Nat) (l : Slot) : State := { State.reset with slots := [(n, l)], cur := n, booted := true }

/-- Slot 0 of core 1, a compute core of cluster 0. -/
def on (l : List (Reg × Word)) : State := at0 4 (regs l)

/-- The answer is a next state with this property. -/
def yields (o : Host.Outcome State Fault Refusal) (f : State → Bool) : Bool :=
  match o with
  | .next t => f t
  | _ => false

/-- What an instruction does. -/
def after (i : Instr) (s : State) (f : State → Bool) : Bool := yields (exec i s) f

/-- The cause of the trap that the executing slot has taken last: the fatal one of a context without a handler. -/
def stoppedBy (t : State) : Bool := t.sl.wait == .stopped && !t.tear.isEmpty

/-! ## Well-formedness: one term that each check refuses -/

theorem test_wf_scalar :
    ([.harm G 1 2 3 true 0, .ext G 1 2 63 1, .extn G 1 2 40 24, .ins G 1 2 31 33, .csrr G 1 0xFFF, .csrw G 1 2 0x105, .csrs G 1 2 0x208,
      .csrc G 1 2 0x001, .fpstatAccess G .csrr 1 2, .lhstRet G .csrr 1 2, .enctabWrite G .csrr 1 2] : List Instr).all (fun i => !i.wf) = true := by
  decide +kernel

theorem test_wf_memory_and_lanes :
    ([.amo G false 1 2 3 .add .relaxed .cluster, .fence G .die .relaxed, .spal G 1 2 3 0 1, .vclaim G 1 2 false 257, .vclaim G 1 2 false 24,
      .vreneg G 1 2 257, .sfn G 1 2 .exp2 .f32 .rtz, .vadd G .i32 .rtz 1 2 3 false, .vadd G .f32 .rne 1 2 3 true, .vsub G .n8 .rup 1 2 3 false,
      .vmul G .bf16 .rne 1 2 3 true, .vfma G .i16 .rdn 1 2 3 4 false, .vfms G .f16 .rne 1 2 3 4 true, .vabs G .n32 1 2 false,
      .vchs G .n8 1 2 false, .vand G .f32 1 2 3] : List Instr).all (fun i => !i.wf) = true := by
  decide +kernel

theorem test_wf_lanes_and_matrix :
    ([.vor G .bf16 1 2 3, .vxor G .f16 1 2 3, .vshl G .i32 1 2 3 true 0, .vshr G .f32 1 2 0 false 0, .vsar G .i8 1 2 1 true 0,
      .vcvt G .i32 .rtz 1 2 .rne .f32, .vcvt G .f32 .rne 1 2 .rtz .i32, .vmxq G .f32 31 0, .vmxd G .f32 .rne 0 31, .vred G .i32 .rtz 1 2 .add,
      .vred G .f32 .rtz 1 2 .max, .vmov G .i32 1 8 1, .vmov G .i32 8 1 2,
      .mrun G 1 2 3 ⟨15, 1, false, false, false, 0⟩ E0, .mrunq G 1 1 ⟨0, 0, false, false, false, 0⟩ true E0,
      .mrunq G 1 0 ⟨0, 0, false, false, false, 0⟩ false E0] : List Instr).all (fun i => !i.wf) = true := by
  decide +kernel

theorem test_wf_engines :
    ([.mdrain G 1 0 15 1 false true E0, .mdrs G 1 2 0 0 false false E0, .mclr G 0 E0, .mswap G true false E0, .mpass G 1 2 0 1 2 E0,
      .mcfg G 0 false false true 1, .mcfg G 1 false false false 0, .msave G 1 3 E0, .mrest G 1 3 E0, .qdir G 1 0 6 0, .qflush G 0,
      .rbacq G 1 2 0 false, .rbpub G 1 2 257, .rbtake G 1 2 0 true, .rbrel G 1 2 511, .sisect G 1 2 2, .sunion G 1 3 3] : List Instr).all
      (fun i => !i.wf) = true := by
  decide +kernel

theorem test_wf_fabric :
    ([.gbind G 1 2 3 5 0 false false 1, .gbind G 1 2 3 0 0 false false 0, .tlbinv G 1 0 true, .cpush G 1 2 3 0 ⟨7, false, false, false, 0⟩ false false E0,
      .cpush G 1 2 3 0 ⟨0, false, true, false, 0⟩ false true E0, .cpush G 1 2 3 1 ⟨0, false, false, false, 0⟩ true false E0,
      .cslab G 1 2 3 4 5 1 ⟨0, false, false, false, 0⟩ true E0, .cmcast G 1 2 3 0 ⟨0, false, false, false, 3⟩ false E0,
      .cthr G 1 2 3 4 5 6 false false 3 true E0, .cthr G 1 2 3 4 5 6 false false 0 false E0, .cconv G 1 2 3 10 0 0 E0, .cconv G 1 2 3 6 1 0 E0,
      .ctab G 1 2 0 3, .msend G 1 31 2 0 0 0, .mrecv G 28 1 2, .nfence G false false, .coll G 1 2 3 4 5 .broadcast .f32 .min .rne,
      .coll G 1 2 3 4 5 .allReduce .i32 .add .rtz] : List Instr).all (fun i => !i.wf) = true := by
  decide +kernel

/-! ## Words of the tables, worked out from the encodings of chapter 3 and of each chapter -/

/-- The line that chapter 3 lays out parcel by parcel: the heads, their tails, and what they decode to. -/
theorem test_decode_line :
    decodeLine ([0x1408, 0x24B2, 0x1E08, 0x0000] ++ List.replicate 20 0x0000 ++
        [0xFFFF, 0xFFE5, 0x0E01, 0x0000, 0x0008, 0x2981, 0x0001, 0x18C0]) =
      .heads [(0x1408, [0x18C0, 0x0001]), (0x24B2, [0x2981, 0x0008, 0x0000, 0x0E01]), (0x1E08, [0xFFE5, 0xFFFF])] ∧
    decodeParcels 0x24B2 [0x2981, 0x0008, 0x0000, 0x0E01] = .ok (.ld ⟨2, true⟩ .w 5 6 8 (some ⟨0, 0, 0x0E, 0x01⟩)) ∧
    decodeParcels 0x1E08 [0xFFE5, 0xFFFF] = .ok (.br G 0xFFFFFFE5) ∧
    decodeParcels 0x1408 [0x18C0, 0x0001] = .ok (.addi G 3 3 1) := by
  decide +kernel

/-- A parcel 0x0001 in the place of the stop head: the whole line is malformed, with code 3; a line whose first head is a stop head is empty. -/
theorem test_decode_line_malformed :
    (decodeLine ([0x1408, 0x24B2, 0x1E08, 0x0001] ++ List.replicate 20 0x0000 ++
        [0xFFFF, 0xFFE5, 0x0E01, 0x0000, 0x0008, 0x2981, 0x0001, 0x18C0]) matches .fault 3) = true := by
  decide +kernel

theorem test_decode_activations_and_lanes :
    decodeParcels 0x020B [0x2000, 0x004C] = .ok (.hen G 4 0 true 12) ∧
    decodeParcels 0x360A [0x2180, 0x0000] = .ok (.vreneg G 4 6 0) ∧
    decodeParcels 0x3608 [0x1140, 0x0280] = .ok (.vclaim G 2 5 true 128) ∧
    decodeParcels 0x400B [0x0844, 0x0000] = .ok (.vcmp G .f32 1 1 2 .set) := by
  decide +kernel

theorem test_decode_engines :
    decodeParcels 0x4C08 [0x0000, 0xFB01] = .ok (.mcfg G 0 true false false 0x3EC) ∧
    decodeParcels 0x5209 [0x3080, 0x0203] = .ok (.rbacq G 6 2 3 true) ∧
    decodeParcels 0x5608 [0x0D00, 0x0020] = .ok (.sopen G 1 20 0 32) ∧
    decodeParcels 0x5805 [0x280C] = .ok (.scrd G 5 0 6) ∧
    decodeParcels 0x5C04 [0x010C] = .ok (.cwb G 4 6) ∧
    decodeParcels 0x6409 [0x01C0, 0x0002] = .ok (.ctab G 0 7 2 0) ∧
    decodeParcels 0x7004 [0x0007] = .ok (.brk G 7) := by
  decide +kernel

/-! ## A word of every instruction, written from the encoding tables of the spec (Tables 3.1, 3.2, 3.5 and 3.6, and the table that each names) -/

/-- Guard g5 or mask m5, negated. -/
def K : Guard := ⟨5, true⟩

/-- The parcels decode to the instruction. -/
def reads (h : Parcel) (t : List Parcel) (i : Instr) : Bool := decide (decodeParcels h t = .ok i)

/-- Chapter 4. -/
theorem test_words_activations :
    reads 0x0360 [] (.hret K) = true ∧
      reads 0x0369 [0x01B6, 0xB309] (.hpost K 6 27 44 777) = true ∧
      reads 0x036A [0x9980, 0x0065] (.harm K 19 6 0 true 37) = true ∧
      reads 0x036A [0x99B6, 0x0025] (.harm K 19 6 27 false 37) = true ∧
      reads 0x036B [0x9980, 0x0040] (.hen K 19 6 true 0) = true ∧
      reads 0x0568 [0x9980, 0x0025] (.hdis K 19 6 false 37) = true ∧
      reads 0x0569 [0x9980, 0x0025] (.hpclr K 19 6 false 37) = true ∧
      reads 0x056A [0x9800, 0x0165] (.hprio K 19 5 37) = true ∧
      reads 0x0567 [0x9800] (.tsread K 19) = true ∧
      reads 0x0768 [0x9800, 0x000B] (.dsync K 19 0xB) = true ∧
      reads 0x0761 [] (.falign K) = true ∧
      reads 0x076A [0x9836, 0x000D] (.rtake K 19 27 0xD) = true ∧
      reads 0x0767 [0x99B6] (.lnch K 19 6 27) = true := by
  decide +kernel

/-- Table 5.6. -/
theorem test_words_scalar_operations :
    reads 0x0964 [0x99B6] (.add K 19 6 27) = true ∧
      reads 0x0965 [0x99B6] (.sub K 19 6 27) = true ∧
      reads 0x0966 [0x99B6] (.and K 19 6 27) = true ∧
      reads 0x0967 [0x99B6] (.or K 19 6 27) = true ∧
      reads 0x0B64 [0x99B6] (.xor K 19 6 27) = true ∧
      reads 0x0B65 [0x99B6] (.andn K 19 6 27) = true ∧
      reads 0x0B66 [0x99B6] (.orn K 19 6 27) = true ∧
      reads 0x0B67 [0x9980] (.mov K 19 6) = true ∧
      reads 0x0D64 [0x99B6] (.mul K 19 6 27) = true ∧
      reads 0x0D65 [0x99B6] (.mulh K 19 6 27) = true ∧
      reads 0x0D66 [0x99B6] (.mulhn K 19 6 27) = true ∧
      reads 0x0D67 [0x99B6] (.sel K 19 6 27) = true ∧
      reads 0x0F64 [0x99B6] (.div K 19 6 27) = true ∧
      reads 0x0F65 [0x99B6] (.divn K 19 6 27) = true ∧
      reads 0x0F66 [0x99B6] (.rem K 19 6 27) = true ∧
      reads 0x0F67 [0x99B6] (.remn K 19 6 27) = true ∧
      reads 0x1164 [0x99B6] (.shl K 19 6 27) = true ∧
      reads 0x1165 [0x99B6] (.shr K 19 6 27) = true ∧
      reads 0x1166 [0x99B6] (.sar K 19 6 27) = true ∧
      reads 0x1167 [0x99B6] (.rotl K 19 6 27) = true ∧
      reads 0x1364 [0x99B6] (.min K 19 6 27) = true ∧
      reads 0x1365 [0x99B6] (.max K 19 6 27) = true ∧
      reads 0x1366 [0x99B6] (.minn K 19 6 27) = true ∧
      reads 0x1367 [0x99B6] (.maxn K 19 6 27) = true ∧
      reads 0x1568 [0x9980, 0x8123] (.addi K 19 6 0x8123) = true ∧
      reads 0x1569 [0x9980, 0x002D] (.shli K 19 6 45) = true ∧
      reads 0x156A [0x9980, 0x002D] (.shri K 19 6 45) = true ∧
      reads 0x156B [0x9980, 0x002D] (.sari K 19 6 45) = true ∧
      reads 0x176C [0x9800, 0x5678, 0x8234] (.addpc K 19 0x82345678) = true ∧
      reads 0x1769 [0x9800, 0x8765] (.lui K 19 0x8765) = true ∧
      reads 0x1776 [0x9800, 0x4444, 0x3333, 0x2222, 0x1111] (.lim K 19 0x1111222233334444) = true ∧
      reads 0x176B [0x1981, 0x9ABC] (.cmpi K 3 6 true 0x9ABC) = true ∧
      reads 0x1964 [0x9980] (.clz K 19 6) = true ∧
      reads 0x1965 [0x9980] (.ctz K 19 6) = true ∧
      reads 0x1966 [0x9980] (.popc K 19 6) = true ∧
      reads 0x1967 [0x9980] (.bswap K 19 6) = true ∧
      reads 0x1B68 [0x9980, 0x0332] (.ext K 19 6 12 50) = true ∧
      reads 0x1B69 [0x9980, 0x0332] (.extn K 19 6 12 50) = true ∧
      reads 0x1B6A [0x9980, 0x0332] (.ins K 19 6 12 50) = true ∧
      reads 0x1B6B [0x9980, 0x002D] (.sext K 19 6 45) = true ∧
      reads 0x1D68 [0x9980, 0x002D] (.zext K 19 6 45) = true ∧
      reads 0x1D65 [0x11B7] (.cmp K 2 6 27 true) = true ∧
      reads 0x1D66 [0xB4CA] (.gop K .xor 6 true 3 false 5) = true ∧
      reads 0x1D63 [] (.nop K) = true := by
  decide +kernel

/-- Tables 5.6, 5.1, 9.4 and 16.8. -/
theorem test_words_transfers_and_registers :
    reads 0x1F68 [0x5678, 0x8234] (.br K 0x82345678) = true ∧
      reads 0x1F69 [0x5678, 0x8234] (.jl K 0x82345678) = true ∧
      reads 0x1F66 [0x9980] (.jlr K 19 6) = true ∧
      reads 0x1F67 [0xBEEF] (.trap K 0xBEEF) = true ∧
      reads 0x2168 [0x1234, 0xFFC3] (.lpset K 0x1234 0xFFC3) = true ∧
      reads 0x2169 [0x0180, 0xFFC3] (.lpsetr K 6 0xFFC3) = true ∧
      reads 0x2162 [] (.lpbrk K) = true ∧
      reads 0x2163 [] (.eret K) = true ∧
      reads 0x2368 [0x9800, 0x0204] (.csrr K 19 0x204) = true ∧
      reads 0x2369 [0x9980, 0x0003] (.csrw K 19 6 0x003) = true ∧
      reads 0x236A [0x9980, 0x0003] (.csrs K 19 6 0x003) = true ∧
      reads 0x236B [0x9980, 0x0003] (.csrc K 19 6 0x003) = true ∧
      reads 0x2368 [0x9800, 0x0001] (.fpstatAccess K .csrr 19 0) = true ∧
      reads 0x236A [0x9980, 0x0001] (.fpstatAccess K .csrs 19 6) = true ∧
      reads 0x2368 [0x9800, 0x010A] (.qportRead K 19 2) = true ∧
      reads 0x2369 [0x9980, 0x0109] (.qportWrite K 19 6 1) = true ∧
      reads 0x2369 [0x9980, 0x0105] (.lhstRet K .csrw 19 6) = true ∧
      reads 0x236B [0x9980, 0x0208] (.enctabWrite K .csrc 19 6) = true := by
  decide +kernel

/-- Table 6.6. -/
theorem test_words_local_memories :
    reads 0x2568 [0x9980, 0x8018] (.ld K .b 19 6 0x8018 none) = true ∧
      reads 0x2571 [0x9981, 0x8018, 0x0928, 0x2107] (.ld K .h 19 6 0x8018 (some ⟨9, 40, 33, 7⟩)) = true ∧
      reads 0x256A [0x9980, 0x8018] (.ld K .w 19 6 0x8018 none) = true ∧
      reads 0x2573 [0x9981, 0x8018, 0x0928, 0x2107] (.ld K .d 19 6 0x8018 (some ⟨9, 40, 33, 7⟩)) = true ∧
      reads 0x2770 [0x9981, 0x8018, 0x0928, 0x2107] (.ldn K .b 19 6 0x8018 (some ⟨9, 40, 33, 7⟩)) = true ∧
      reads 0x2769 [0x9980, 0x8018] (.ldn K .h 19 6 0x8018 none) = true ∧
      reads 0x2772 [0x9981, 0x8018, 0x0928, 0x2107] (.ldn K .w 19 6 0x8018 (some ⟨9, 40, 33, 7⟩)) = true ∧
      reads 0x276B [0x9980, 0x8018] (.ldn K .d 19 6 0x8018 none) = true ∧
      reads 0x2968 [0x9980, 0x8018] (.st K .b 19 6 0x8018 none) = true ∧
      reads 0x2971 [0x9981, 0x8018, 0x0928, 0x2107] (.st K .h 19 6 0x8018 (some ⟨9, 40, 33, 7⟩)) = true ∧
      reads 0x296A [0x9980, 0x8018] (.st K .w 19 6 0x8018 none) = true ∧
      reads 0x2973 [0x9981, 0x8018, 0x0928, 0x2107] (.st K .d 19 6 0x8018 (some ⟨9, 40, 33, 7⟩)) = true ∧
      reads 0x2B66 [0x99B6] (.ldx K .w 19 6 27) = true ∧
      reads 0x2B6F [0x99B7, 0x0928, 0x2107] (.ldxSync K .d 19 6 27 ⟨9, 40, 33, 7⟩) = true ∧
      reads 0x2D64 [0x99B6] (.stx K .b 19 6 27) = true ∧
      reads 0x2D6D [0x99B7, 0x0928, 0x2107] (.stxSync K .h 19 6 27 ⟨9, 40, 33, 7⟩) = true ∧
      reads 0x2F68 [0x99B6, 0x0167] (.amo K false 19 6 27 .minn .rel .module) = true ∧
      reads 0x2F69 [0x99B6, 0x0131] (.amo K true 19 6 27 .add .ar .die) = true ∧
      reads 0x2F66 [0x99B7] (.amocas K false 19 6 27 true) = true ∧
      reads 0x2F67 [0x99B6] (.amocas K true 19 6 27 false) = true ∧
      reads 0x3168 [0x99B6, 0x8018] (.ldfe K 19 6 27 0x8018) = true ∧
      reads 0x3169 [0x99B6, 0x8018] (.stfe K 19 6 27 0x8018) = true ∧
      reads 0x316A [0x99B6, 0x8018] (.ldff K 19 6 27 0x8018) = true ∧
      reads 0x316B [0x99B6, 0x8018] (.ldre K 19 6 27 0x8018) = true ∧
      reads 0x3368 [0x99B6, 0x8018] (.stsf K 19 6 27 0x8018) = true ∧
      reads 0x3365 [0x0180] (.mon K 6) = true ∧
      reads 0x3366 [0x9980] (.mwait K 19 6) = true ∧
      reads 0x3367 [0x001C] (.fence K .die .ar) = true ∧
      reads 0x3568 [0x9980, 0x0037] (.spal K 19 6 7 2 1) = true ∧
      reads 0x3565 [0x9980] (.spfr K 19 6) = true ∧
      reads 0x3566 [0x01B7] (.fecl K 6 27 true) = true := by
  decide +kernel

/-- Table 7.4. -/
theorem test_words_lanes :
    reads 0x3768 [0x9980, 0x02D0] (.vclaim K 19 6 true 208) = true ∧
      reads 0x3761 [] (.vrel K) = true ∧
      reads 0x376A [0x9980, 0x00F8] (.vreneg K 19 6 248) = true ∧
      reads 0x376B [0x9980, 0x0092] (.sfn K 19 6 .rcp .bf16 .rdn) = true ∧
      reads 0x3968 [0x9980, 0x6010] (.vld K .h 19 6 0x2010 none) = true ∧
      reads 0x3971 [0x9981, 0xA010, 0x0928, 0x2107] (.vst K .w 19 6 0x2010 (some ⟨9, 40, 33, 7⟩)) = true ∧
      reads 0x3972 [0x99B7, 0x0011, 0x0928, 0x2107] (.vlds K .b 19 6 27 0x0011 (some ⟨9, 40, 33, 7⟩)) = true ∧
      reads 0x396B [0x99B6, 0x8010] (.vsts K .w 19 6 27 0x0010 none) = true ∧
      reads 0x3B68 [0x99B6, 0x5001] (.vadd K .i16 .rne 19 6 27 true) = true ∧
      reads 0x3B69 [0x99B6, 0x2C00] (.vsub K .f16 .rup 19 6 27 false) = true ∧
      reads 0x3B6A [0x99B6, 0x1800] (.vmul K .bf16 .rdn 19 6 27 false) = true ∧
      reads 0x3B6B [0x99B6, 0x802D] (.vfma K .n8 .rne 19 6 27 13 true) = true ∧
      reads 0x3D68 [0x99B6, 0x040D] (.vfms K .f32 .rtz 19 6 27 13 false) = true ∧
      reads 0x3D69 [0x99B6, 0x6000] (.vmin K .n16 19 6 27) = true ∧
      reads 0x3D6A [0x99B6, 0x3000] (.vmax K .i32 19 6 27) = true ∧
      reads 0x3D6B [0x9980, 0x7001] (.vabs K .i8 19 6 true) = true ∧
      reads 0x3F68 [0x9980, 0x3000] (.vchs K .i32 19 6 false) = true ∧
      reads 0x3F69 [0x99B6, 0x4000] (.vand K .n32 19 6 27) = true ∧
      reads 0x3F6A [0x99B6, 0x4000] (.vor K .n32 19 6 27) = true ∧
      reads 0x3F6B [0x99B6, 0x4000] (.vxor K .n32 19 6 27) = true ∧
      reads 0x4168 [0x99B6, 0x6000] (.vshl K .n16 19 6 27 false 0) = true ∧
      reads 0x4169 [0x9980, 0x3035] (.vshr K .i32 19 6 0 true 21) = true ∧
      reads 0x416A [0x99B6, 0x7000] (.vsar K .i8 19 6 27 false 0) = true ∧
      reads 0x416B [0x19B6, 0x2200] (.vcmp K .f16 3 6 27 .or) = true := by
  decide +kernel

/-- Table 7.4. -/
theorem test_words_lane_conversions :
    reads 0x4368 [0x99B6, 0x1006] (.vsel K .bf16 19 6 27 6) = true ∧
      reads 0x4369 [0x9980, 0x5031] (.vcvt K .i16 .rne 19 6 .rup .bf16) = true ∧
      reads 0x4369 [0x9980, 0x2804] (.vcvt K .f16 .rdn 19 6 .rne .n32) = true ∧
      reads 0x436A [0x9980, 0x1000] (.vmxq K .bf16 19 6) = true ∧
      reads 0x436B [0x9980, 0x2400] (.vmxd K .f16 .rtz 19 6) = true ∧
      reads 0x4568 [0x99B6, 0x0001] (.vtern K .f32 19 6 27 true) = true ∧
      reads 0x4569 [0x9980, 0x0800] (.vred K .f32 .rdn 19 6 .add) = true ∧
      reads 0x4569 [0x9980, 0x8002] (.vred K .n8 .rne 19 6 .max) = true ∧
      reads 0x456A [0x9980, 0x2000] (.vsplat K .f16 19 6) = true ∧
      reads 0x456B [0x99B6, 0x4000] (.vext K .n32 19 6 27) = true ∧
      reads 0x4768 [0x99B6, 0x7000] (.vins K .i8 19 6 27) = true ∧
      reads 0x4769 [0x2980, 0x7002] (.vmov K .i8 5 6 2) = true ∧
      reads 0x4769 [0x9980, 0x0001] (.vmov K .f32 19 6 1) = true ∧
      reads 0x476A [0x99B6, 0x000D] (.vclamp K .f32 19 6 27 13) = true := by
  decide +kernel

/-- Table 8.9. -/
theorem test_words_matrix :
    reads 0x4970 [0x0180, 0x0003, 0x0928, 0x2107] (.mlw K 6 true true ⟨9, 40, 33, 7⟩) = true ∧
      reads 0x4971 [0x99B6, 0x2543, 0x0928, 0x2107] (.mrun K 19 6 27 ⟨3, 4, true, false, true, 4⟩ ⟨9, 40, 33, 7⟩) = true ∧
      reads 0x4972 [0x1880, 0x4243, 0x0928, 0x2107] (.mrunq K 3 2 ⟨3, 4, false, true, false, 0⟩ true ⟨9, 40, 33, 7⟩) = true ∧
      reads 0x4973 [0x0180, 0x0143, 0x0928, 0x2107] (.mdrain K 0 6 3 4 true false ⟨9, 40, 33, 7⟩) = true ∧
      reads 0x4B70 [0x9800, 0x0243, 0x0928, 0x2107] (.mdrs K 19 0 3 4 false true ⟨9, 40, 33, 7⟩) = true ∧
      reads 0x4B6D [0x0002, 0x0928, 0x2107] (.mclr K 2 ⟨9, 40, 33, 7⟩) = true ∧
      reads 0x4B6E [0x0003, 0x0928, 0x2107] (.mswap K true true ⟨9, 40, 33, 7⟩) = true ∧
      reads 0x4B73 [0x9980, 0x0179, 0x0928, 0x2107] (.mpass K 19 6 9 3 5 ⟨9, 40, 33, 7⟩) = true ∧
      reads 0x4D68 [0x0000, 0xE810] (.mcfg K 0 false true false 0x3A0) = true ∧
      reads 0x4D68 [0x0180, 0x0021] (.mcfg K 6 true false true 0) = true ∧
      reads 0x4D71 [0x0180, 0x0002, 0x0928, 0x2107] (.msave K 6 2 ⟨9, 40, 33, 7⟩) = true ∧
      reads 0x4D72 [0x0180, 0x0001, 0x0928, 0x2107] (.mrest K 6 1 ⟨9, 40, 33, 7⟩) = true := by
  decide +kernel

/-- Table 9.6. -/
theorem test_words_queues_and_rings :
    reads 0x4F64 [0x0928] (.swt K 9 40) = true ∧
      reads 0x4F65 [0x2107] (.ssig K 33 7) = true ∧
      reads 0x4F6A [0x9980, 0x00C9] (.sset K 19 6 201) = true ∧
      reads 0x4F6B [0x9800, 0x00C9] (.srd K 19 201) = true ∧
      reads 0x5164 [0x1980] (.qctl K 3 6) = true ∧
      reads 0x5165 [0x9880] (.qstat K 19 2) = true ∧
      reads 0x516A [0x9880, 0x001D] (.qdir K 19 2 5 3) = true ∧
      reads 0x5167 [0x000A] (.qflush K 0xA) = true ∧
      reads 0x5368 [0x01B6, 0x1FC8] (.rbinit K 6 27 200 31) = true ∧
      reads 0x5369 [0x9980, 0x0300] (.rbacq K 19 6 256 true) = true ∧
      reads 0x536A [0x01B6, 0x00FF] (.rbpub K 6 27 255) = true ∧
      reads 0x536B [0x9980, 0x0003] (.rbtake K 19 6 3 false) = true ∧
      reads 0x5568 [0x01B6, 0x00FF] (.rbrel K 6 27 255) = true ∧
      reads 0x5569 [0x9980, 0x000D] (.stacq K 19 6 5 true) = true ∧
      reads 0x556A [0x01B6, 0x0005] (.strel K 6 27 5) = true := by
  decide +kernel

/-- Chapters 10, 11 and 12. -/
theorem test_words_streams_caches_windows :
    reads 0x5768 [0x29B6, 0x8018] (.sopen K 5 6 27 0x8018) = true ∧
      reads 0x5765 [0x9980] (.snext K 19 6) = true ∧
      reads 0x5766 [0x9986] (.sisect K 19 6 3) = true ∧
      reads 0x5767 [0x9986] (.sunion K 19 6 3) = true ∧
      reads 0x5964 [0x99B6] (.sskip K 19 6 27) = true ∧
      reads 0x5965 [0x99B6] (.scrd K 19 6 27) = true ∧
      reads 0x596A [0x9980, 0x0001] (.sval K 19 6 true) = true ∧
      reads 0x5967 [0x2980] (.sdone K 5 6) = true ∧
      reads 0x5B64 [0x2980] (.ssave K 5 6) = true ∧
      reads 0x5B65 [0x2980] (.srest K 5 6) = true ∧
      reads 0x5B66 [0x2800] (.sclose K 5) = true ∧
      reads 0x5D64 [0x01B6] (.cwb K 6 27) = true ∧
      reads 0x5D65 [0x01B6] (.cinv K 6 27) = true ∧
      reads 0x5D66 [0x01B6] (.cwbi K 6 27) = true ∧
      reads 0x5D67 [0x01B6] (.iinv K 6 27) = true ∧
      reads 0x5F60 [] (.ibar K) = true ∧
      reads 0x5F69 [0x0180, 0x01C8] (.l2pf K 6 200 true) = true ∧
      reads 0x5F66 [0x0180] (.l2zero K 6) = true ∧
      reads 0x616C [0x99B6, 0xEF54, 0xABCD] (.gbind K 19 6 27 4 2 false true 0xABCDEF) = true ∧
      reads 0x6165 [0x9980] (.gunb K 19 6) = true ∧
      reads 0x6166 [0x9980] (.gstat K 19 6) = true ∧
      reads 0x6167 [0x01B6] (.tlbinv K 6 27 false) = true ∧
      reads 0x6167 [0x0001] (.tlbinv K 0 0 true) = true := by
  decide +kernel

/-- Table 13.12. -/
theorem test_words_copies_and_barriers :
    reads 0x6374 [0x99B6, 0x8C57, 0x0483, 0x0928, 0x2107] (.cpush K 19 6 27 0x8C57 ⟨3, false, false, true, 2⟩ false false ⟨9, 40, 33, 7⟩) = true ∧
      reads 0x6374 [0x99B6, 0x0000, 0x0030, 0x0928, 0x2107] (.cpush K 19 6 27 0 ⟨0, true, false, false, 0⟩ true false ⟨9, 40, 33, 7⟩) = true ∧
      reads 0x6379 [0x99B6, 0x6540, 0x8C57, 0x0263, 0x0928, 0x2107] (.cslab K 19 6 27 12 21 0x8C57 ⟨3, true, true, false, 1⟩ false ⟨9, 40, 33, 7⟩) = true ∧
      reads 0x6376 [0x99B6, 0x8C50, 0x0183, 0x0928, 0x2107] (.cmcast K 19 6 27 0x8C50 ⟨3, false, false, true, 0⟩ true ⟨9, 40, 33, 7⟩) = true ∧
      reads 0x6377 [0x99B6, 0x657C, 0x0C40, 0x0928, 0x2107] (.cthr K 19 6 27 12 21 30 true false 2 true ⟨9, 40, 33, 7⟩) = true ∧
      reads 0x6570 [0x99B6, 0x01B8, 0x0928, 0x2107] (.cconv K 19 6 27 8 11 1 ⟨9, 40, 33, 7⟩) = true ∧
      reads 0x6569 [0x9980, 0x002B] (.ctab K 19 6 11 2) = true ∧
      reads 0x656A [0x0180, 0x8C57] (.cfree K 6 0x8C57) = true ∧
      reads 0x656B [0x0180, 0xBEEF] (.tbinit K 6 0xBEEF) = true ∧
      reads 0x6764 [0x9980] (.tbarr K 19 6) = true ∧
      reads 0x6765 [0x99B7] (.tbexp K 19 6 27 true) = true ∧
      reads 0x6766 [0x99B6] (.tbwait K 19 6 27) = true ∧
      reads 0x6767 [0x99B6] (.tbtest K 19 6 27) = true ∧
      reads 0x6964 [0x99B6] (.tbguard K 19 6 27) = true := by
  decide +kernel

/-- Table 14.10 and Table 16.11. -/
theorem test_words_messages_and_debug :
    reads 0x6B6C [0x99B6, 0x8C57, 0xB309] (.msend K 19 6 27 0x8C57 44 777) = true ∧
      reads 0x6B65 [0x99B6] (.mrecv K 19 6 27) = true ∧
      reads 0x6B66 [0x9980] (.mpeek K 19 6) = true ∧
      reads 0x6B6F [0x9980, 0x8C57, 0x0005] (.rst K .h 19 6 0x8C57 true) = true ∧
      reads 0x6D6C [0x9980, 0x8C57, 0x0006] (.rld K .w 19 6 0x8C57 true) = true ∧
      reads 0x6D65 [0x99B6] (.jread K 19 6 27) = true ∧
      reads 0x6D66 [0x9980] (.jack K 19 6) = true ∧
      reads 0x6D67 [0x0002] (.nfence K false true) = true ∧
      reads 0x6F6C [0x99B6, 0x6540, 0x0409] (.coll K 19 6 27 12 21 .reduceScatter .bf16 .add .rdn) = true ∧
      reads 0x7164 [0xBEEF] (.brk K 0xBEEF) = true ∧
      reads 0x7169 [0x9800, 0x0000] (.dbgctlStat K 19) = true ∧
      reads 0x7169 [0x9800, 0x0001] (.dbgctlHalt K 19) = true ∧
      reads 0x7169 [0x9800, 0x0002] (.dbgctlRun K 19) = true ∧
      reads 0x7169 [0x9980, 0x0003] (.dbgctlKill K 19 6) = true ∧
      reads 0x7169 [0x9800, 0x0004] (.dbgctlSettle K 19) = true := by
  decide +kernel

/-! ## A small environment -/

/-- A launch record of one cluster. -/
def rec1 : Record := ⟨false, false, false, 0, 1, 1, 0, 0, .cluster, ⟨0, 0, 0⟩, [], [], [], [], [], []⟩

/-- Launch 7 of stream 3, of context 1, privileged, on cluster 0, with one range object of 100 from 4, divided by 8, at least 5. -/
def launch7 : Launch := ⟨3, 1, true, rec1, 0, 0, [⟨4, 104, 8, 5⟩], 0, 0, 0, false, 0, 0, false, false, false⟩

/-- A TLB entry of context 1: page `vpn` of 64 KiB, its address, and whether it may be executed and written. -/
def page (vpn pa : Nat) (x w : Bool) : TlbEntry := ⟨1, 16, vpn, pa, 0, true, x, w, true⟩

/-- Global addresses of a data page and of a code page. -/
def dataVa : Word := 0x20000000000
def codeVa : Word := 0x20000010000

/-- The line of chapter 3, parcel by parcel. -/
def exLine : List Parcel :=
  [0x1408, 0x24B2, 0x1E08, 0x0000] ++ List.replicate 20 0x0000 ++ [0xFFFF, 0xFFE5, 0x0E01, 0x0000, 0x0008, 0x2981, 0x0001, 0x18C0]

/-- Cluster 0 runs launch 7; its TLB holds both pages, and its instruction cache the lines of the code page that are listed. -/
def env (l : Slot) (lines : List ILine) : State :=
  let s := at0 4 l;
  { s with
    launches := [(7, launch7)], clusters := [(0, { Cluster.init with
      launch := some 7, tlb := [page 0x2000000 0x40000000 false true, page 0x2000001 0x40010000 true false], icache := lines })] }

/-- The descriptor of context 1: valid, a trap vector at the code page, records at the data page. -/
def withContext (s : State) : State :=
  ((s.writeNum (ctxTable + 64) 8 1).writeNum (ctxTable + 64 + 16) 8 codeVa.toNat).writeNum (ctxTable + 64 + 24) 8 dataVa.toNat

/-- The bytes of a line, low byte first. -/
def lineBytes (ps : List Parcel) : List Byte := ps.flatMap fun (p : Parcel) => [p.setWidth 8, (p >>> 8).setWidth 8]

/-- A CSP allocation of launch 7 in cluster 0: blocks 1 and 2, full/empty by retry. -/
def alloc1 : CspAlloc := ⟨1, 2, 0, 0, 2, true, 7⟩

/-- The environment with the CSP allocation, and WS bytes 0x100 to 0x1FF held by launch 9, which is switched out. -/
def memEnv (l : List (Reg × Word)) : State :=
  let s := env (regs l) [];
  s.setCluster 0 { s.cluster 0 with allocs := [alloc1], wsHeld := [(9, 0x100, 0x200)] }

/-- A slot with a claim of `n` lanes, these lane registers, and mask 1 with its even lanes set. -/
def laneSlot (n : Nat) (l : List (Reg × Word)) (v : List (Reg × List (BitVec 32))) : Slot :=
  { regs l with claim := ⟨1, n, v.foldl (fun x p => x.set p.1 (p.2 ++ List.replicate (n - p.2.length) 0)) (Vector.replicate 32 (List.replicate n 0)),
      (Vector.replicate 8 (List.replicate n false)).set 1 ((List.range n).map fun i => i % 2 == 0)⟩ }

/-- The environment with such a slot. -/
def lanesOn (n : Nat) (l : List (Reg × Word)) (v : List (Reg × List (BitVec 32))) : State := env (laneSlot n l v) []
/-! ## Steps, fetches, retirement, traps -/

/-- A slot at head 0 of the line of chapter 3, `addi s3, s3, 1`, with s3 = 41; nothing else can happen. -/
def stepState : State := at0 4 { regs [(3, 41)] with line := exLine }

theorem wit_DecodeOfEncode :
    (Instr.addi G 3 3 0xFFFF).wf = true ∧ encode (.addi G 3 3 0xFFFF) = 0x1408 :: [0x18C0, 0xFFFF] ∧
    (Instr.nfence ⟨7, true⟩ true true).wf = true ∧ (encode (.nfence ⟨7, true⟩ true true)).isEmpty = false := by
  decide +kernel

theorem wit_StepRunsDecodedHead :
    let s := stepState
    (s.hib.trip = false ∧ s.booted = true ∧ barrelSlot s (coreOf 4) = some 4 ∧ (∃ p ∈ s.slots, coreOf p.1 = coreOf 4) ∧
      headAt (s.slot 4) = some (decodeParcels 0x1408 [0x18C0, 0x0001]) ∧ decodeParcels 0x1408 [0x18C0, 0x0001] = .ok (.addi G 3 3 1) ∧
      happenings s = [headOfSlot s 4] ∧ (chosen s).1 = some (headOfSlot s 4)) ∧
    yields (step s) (fun t => t.getS 3 == 42 && t.sl.pc == 2) = true := by
  decide +kernel

/-- A slot without a line whose PC is `pc`, in an environment whose instruction cache holds the line `ps` of the code page. -/
def fetchAt (pc : Word) (ps : List Parcel) : State := env { regs [] with pc := pc } [⟨0x1000400, lineBytes ps⟩]

/-- A slot at head 0 of this line. -/
def lineAt (ps : List Parcel) : State := at0 4 { regs [] with line := ps }

/-- The head at the PC of the line is this one. -/
def headOfLine (s : State) (h : Parcel) (t : List Parcel) : Bool :=
  match decodeLine s.sl.line with
  | .heads r => r[s.sl.pc.toNat / 2 % 32]? == some (h, t)
  | _ => false

/-- The line is fetched, and is well formed. -/
def fetched (s : State) : Bool :=
  match fetchImage s s.cur s.sl.pc with
  | .ok t bs => (match decodeLine (parcelsOf bs) with | .heads _ => true | _ => false) && t.sl.skip == false
  | _ => false

theorem wit_FetchOfLinesAndRefusedHeads :
    ((fetchAt codeVa exLine).sl.chan = some 0 ∧ (fetchAt codeVa exLine).sl.line = [] ∧ fetched (fetchAt codeVa exLine) = true ∧
      after .fetchLine (fetchAt codeVa exLine) (fun t => t.sl.line == exLine && t.sl.wait == .none && t.sl.pc == codeVa) = true) ∧
    (after .fetchLine (fetchAt (codeVa + 4) exLine) (fun t => t.sl.line == exLine) = true ∧
      after .fetchLine (fetchAt (codeVa + 6) exLine) stoppedBy = true ∧ after .fetchLine (fetchAt (codeVa + 1) exLine) stoppedBy = true ∧
      after .fetchLine (fetchAt codeVa (List.replicate 32 1)) stoppedBy = true ∧ after .fetchLine (fetchAt 0x1000 exLine) stoppedBy = true) := by
  decide +kernel

/-- Heads that are unassigned, of a wrong tail length, and with an operand that is not permitted. -/
def refused (ps : List Parcel) : Bool := yields (perform (lineAt ps) (headOfSlot (lineAt ps) 4)) stoppedBy

theorem wit_RefusedHeads :
    (headOfLine (lineAt (0x7200 :: List.replicate 31 0)) 0x7200 [] = true ∧ decodeParcels 0x7200 [] = .unassigned ∧
      refused (0x7200 :: List.replicate 31 0) = true) ∧
    (headOfLine (lineAt (0x1404 :: List.replicate 30 0 ++ [0x18C0])) 0x1404 [0x18C0] = true ∧ decodeParcels 0x1404 [0x18C0] = .badLength ∧
      refused (0x1404 :: List.replicate 30 0 ++ [0x18C0]) = true) ∧
    (headOfLine (lineAt (0x1408 :: List.replicate 29 0 ++ [0x0001, 0x18C1])) 0x1408 [0x18C1, 0x0001] = true ∧
      decodeParcels 0x1408 [0x18C1, 0x0001] = .illegal ∧ refused (0x1408 :: List.replicate 29 0 ++ [0x0001, 0x18C1]) = true) := by
  decide +kernel

theorem wit_RetirementOfHeads :
    (let s := at0 4 { regs [] with line := exLine };
      refusalDue s s.cur = none ∧ stepping s s.cur = false ∧ (advance s.sl .seq).skip = false ∧
      after (.nop G) s (fun t => t.sl.pc == 2 && t.sl.line == exLine && (t.core 1).ptr == 1) = true) ∧
    (let l := { regs [] with line := exLine };
      l.intrap = false ∧ l.lhact = false ∧ (l.lai && l.lei == l.pc) = false ∧ (l.lao && l.leo == l.pc) = false ∧
      l.pc.toNat / 2 % 32 + 1 < lineH l.line ∧ (retiredSlot l .seq).pc = 2 ∧ lineH { l with pc := 4 }.line ≤ (4 : Word).toNat / 2 % 32 + 1 ∧
      (retiredSlot { l with pc := 4 } .seq).pc = 64 ∧ (retiredSlot { l with pc := 4 } .seq).line = []) ∧
    (let l := { regs [] with line := exLine, pc := 2, lai := true, lei := 2, lci := 2, lbi := 2, lao := true, leo := 2, lbo := 0, lco := 2 };
      1 < l.lci.toNat ∧ (advance l .seq).lci = 1 ∧ (advance l .seq).pc = 2 ∧ (advance l .seq).lai = true ∧
      (let m := { l with lci := 1 };
        m.lci.toNat ≤ 1 ∧ 1 < m.lco.toNat ∧ (advance m .seq).lco = 1 ∧ (advance m .seq).pc = 0 ∧ (advance m .seq).lai = false) ∧
      (let m := { l with lci := 0, lco := 1 };
        m.lci.toNat ≤ 1 ∧ m.lco.toNat ≤ 1 ∧ (advance m .seq).lco = 0 ∧ (advance m .seq).lao = false ∧ (advance m .seq).pc = 4) ∧
      (let m := { l with lci := 1, lao := false };
        ¬(m.lao = true ∧ m.leo = m.pc) ∧ (advance m .seq).lai = false ∧ (advance m .seq).pc = 4) ∧
      (let m := { l with intrap := true }; m.intrap = true ∧ (advance m .seq).pc = 4 ∧ (advance m .seq).lci = 2) ∧
      (let m := { l with lhact := true }; m.lhact = true ∧ (advance m .seq).pc = 4 ∧ (advance m .seq).lci = 2)) := by
  decide +kernel

/-- Slot 4 at the first head of a line of the code page, in a context with a trap vector; and the same with an empty TLB, in a trap handler, and in a context without a vector. -/
def trapEnv : State := withContext (env { regs [(3, 41)] with line := exLine, pc := codeVa } [])
def trapNoPage : State := { trapEnv with clusters := [(0, { trapEnv.cluster 0 with tlb := [] })] }
def trapTwice : State := trapEnv.setSl { trapEnv.sl with intrap := true }
def trapNoVector : State := env (regs []) []

/-- The state in which the trap record of slot 4 is written, and whether it can be. -/
def atTrap (s : State) : State :=
  let b := leaveBarrier (storesEnter (ctxTouch s 1) 4) 4
  b.setSlot 4 { (b.slot 4).begun with skip := false, stepOwed := none }
def storedAt (r : State) : Stored :=
  storeNow r 4 (wordN (ctxField r 1 24 8 / 256 * 256) + wordN (256 * 4)) (trapRecord (trapI 12 0 7) codeVa codeVa r.tb)
def recordFits (s : State) : Bool :=
  match storedAt (atTrap s) with
  | .done _ => true
  | _ => false

/-- The trap that waits for the walk of its record's page, after a walk that has found no translation. -/
def walkFailed : State :=
  let t := trapEntry trapNoPage 4 (trapI 12 0 7) codeVa codeVa
  t.setSlot 4 { t.slot 4 with wait := .none, walkRes := some (0x2000000, 5) }

/-- The slot after a trap of cause 12. -/
def slotTrapped (s : State) : Slot := (trapEntry s 4 (trapI 12 0 7) codeVa codeVa).slot 4

/-- CAUSE 12 at TVEC + 768; the record is that of slot 4 of the context, at TRAPB + 1024, in the data cache. -/
theorem wit_TrapEntryOfSlot :
    (trapEnv.ctxAt (clusterOf 4) = 1 ∧ ((atTrap trapEnv).slot 4).intrap = false ∧ wordN (ctxField trapEnv 1 16 8 / 64 * 64) = codeVa ∧ recordFits trapEnv = true ∧
      (slotTrapped trapEnv).pc = codeVa + 768 ∧ (slotTrapped trapEnv).epc = codeVa ∧ (slotTrapped trapEnv).intrap = true ∧ (slotTrapped trapEnv).priv = true ∧
      (slotTrapped trapEnv).ppriv = true ∧ (slotTrapped trapEnv).s[3] = 41 ∧ (slotTrapped trapEnv).line = [] ∧ (slotTrapped trapEnv).wait = .none) ∧
    (((atTrap trapNoPage).slot 4).intrap = false ∧ (slotTrapped trapNoPage).wait = .walk ∧
      (match storedAt (atTrap trapNoPage) with | .later _ w => w == .walk | _ => false) = true ∧
      (slotTrapped trapNoPage).entry = some (trapI 12 0 7, codeVa, codeVa) ∧
      (match storedAt walkFailed with | .fault _ => true | _ => false) = true ∧ ((trapResumes walkFailed 4).slot 4).wait = .stopped) ∧
    (((atTrap trapTwice).slot 4).intrap = true ∧ (slotTrapped trapTwice).wait = .stopped) ∧
    (wordN (ctxField trapNoVector 1 16 8 / 64 * 64) = 0 ∧ (slotTrapped trapNoVector).wait = .stopped) := by
  decide +kernel

theorem wit_GuardsModesAndRoles :
    (let s := on [(3, 41)];
      guardOf (.add ⟨7, false⟩ 3 3 3) = some (⟨7, false⟩, none) ∧ s.guardTrue ⟨7, false⟩ = false ∧
      privForm (.add ⟨7, false⟩ 3 3 3) = false ∧ matrixForm (.add ⟨7, false⟩ 3 3 3) = false ∧
      after (.add ⟨7, false⟩ 3 3 3) s (fun t => t.getS 3 == 41 && t.sl.pc != 0) = true ∧
      guardOf (.ssig ⟨1, false⟩ 5 3) = some (⟨1, false⟩, some ⟨0, 0, 5, 3⟩) ∧
      after (.ssig ⟨1, false⟩ 5 3) s (fun t => tget 0 (t.tile 0).sem 5 == 3) = true) ∧
    (let s := at0 4 { regs [] with priv := false };
      privForm (.eret G) = true ∧ s.sl.priv = false ∧ after (.eret G) s stoppedBy = true ∧
      privForm (.csrw G 1 2 0x002) = true ∧ after (.csrw G 1 2 0x002) s stoppedBy = true ∧
      privForm (.tlbinv ⟨1, false⟩ 1 2 false) = true ∧ s.guardTrue ⟨1, false⟩ = false ∧ after (.tlbinv ⟨1, false⟩ 1 2 false) s stoppedBy = true) ∧
    (let s := at0 0 (regs []);
      matrixForm (.mclr G 3 E0) = true ∧ isCompute s.myCore = false ∧ after (.mclr G 3 E0) s stoppedBy = true) := by
  decide +kernel

theorem wit_RegisterInstructionsFrame :
    let s := on [(1, 5), (2, 7)]
    (refusalDue s s.cur = none ∧ stepping s s.cur = false ∧ s.sl.skip = false) ∧
    regDest (.add G 3 1 2) = some ([3], []) ∧
    after (.add G 3 1 2) s (fun t => t.getS 3 == 12 && t.getS 1 == 5 && t.mem == s.mem) = true ∧
    regDest (.cmp G 3 1 2 false) = some ([], [6, 7]) ∧
    after (.cmp G 3 1 2 false) s (fun t => t.getG 6 && !t.getG 7 && t.getS 1 == 5) = true ∧
    regDest (.jl G 0) = some ([31], []) ∧ after (.add G 0 1 2) s (fun t => t.getS 0 == 0) = true := by
  decide +kernel

theorem wit_TwoSourceAndBitResults :
    let s := on [(1, -1), (2, 63), (3, 0x0123456789ABCDEF)]
    s.guardTrue G = true ∧ s.guardTrue ⟨0, true⟩ = false ∧
    (after (.add G 5 1 2) s (fun t => t.getS 5 == 62) = true ∧ after (.mulh G 5 1 2) s (fun t => t.getS 5 == -1) = true ∧
      after (.mulhn G 5 1 2) s (fun t => t.getS 5 == 62) = true ∧ after (.sar G 5 1 2) s (fun t => t.getS 5 == -1) = true ∧
      after (.shr G 5 1 2) s (fun t => t.getS 5 == 1) = true ∧ after (.rotl G 5 3 2) s (fun t => t.getS 5 == 0x8091A2B3C4D5E6F7) = true ∧
      after (.min G 5 1 2) s (fun t => t.getS 5 == -1) = true ∧ after (.minn G 5 1 2) s (fun t => t.getS 5 == 63) = true ∧
      after (.sel G 3 1 2) s (fun t => t.getS 3 == -1) = true ∧ after (.andn G 5 1 2) s (fun t => t.getS 5 == ~~~63) = true) ∧
    (after (.clz G 5 3) s (fun t => t.getS 5 == 7) = true ∧ after (.clz G 5 0) s (fun t => t.getS 5 == 64) = true ∧
      after (.ctz G 5 0) s (fun t => t.getS 5 == 64) = true ∧ after (.popc G 5 3) s (fun t => t.getS 5 == 32) = true ∧
      after (.bswap G 5 3) s (fun t => t.getS 5 == 0xEFCDAB8967452301) = true) := by
  decide +kernel

/-- Table 5.8: the corners of the divide forms. -/
theorem wit_DivideResults :
    let s := on [(1, 0x8000000000000000), (2, -1), (3, -7), (4, 2)]
    s.guardTrue G = true ∧
    after (.div G 5 1 2) s (fun t => t.getS 5 == 0x8000000000000000) = true ∧ after (.rem G 5 1 2) s (fun t => t.getS 5 == 0) = true ∧
    after (.div G 5 3 4) s (fun t => t.getS 5 == -3) = true ∧ after (.rem G 5 3 4) s (fun t => t.getS 5 == -1) = true ∧
    after (.div G 5 3 0) s (fun t => t.getS 5 == -1) = true ∧ after (.rem G 5 3 0) s (fun t => t.getS 5 == -7) = true ∧
    after (.divn G 5 3 0) s (fun t => t.getS 5 == -1) = true ∧ after (.remn G 5 3 4) s (fun t => t.getS 5 == 1) = true := by
  decide +kernel

theorem wit_ImmediateAndGuardResults :
    let s := (on [(1, 0x00000000000080F0), (2, -1)]).setG 3 true
    s.guardTrue G = true ∧
    (after (.addi G 5 2 0x8000) s (fun t => t.getS 5 == 0xFFFFFFFFFFFF7FFF) = true ∧
      after (.lui G 5 0x8001) s (fun t => t.getS 5 == 0xFFFFFFFF80010000) = true ∧
      after (.addpc G 5 0xFFFFFFE5) s (fun t => t.getS 5 == 0xFFFFFFFFFFFFFFCA) = true ∧
      after (.sari G 5 2 63) s (fun t => t.getS 5 == -1) = true) ∧
    ((4 : BitVec 6).toNat + ((11 : BitVec 6).toNat + 1) ≤ 64 ∧ (63 : BitVec 6).toNat + 1 + (0 : BitVec 6).toNat ≤ 64 ∧
      after (.extn G 5 1 11 4) s (fun t => t.getS 5 == 0x80F) = true ∧ after (.ext G 5 1 11 4) s (fun t => t.getS 5 == 0xFFFFFFFFFFFFF80F) = true ∧
      after (.ins G 1 2 7 56) s (fun t => t.getS 1 == 0xFF000000000080F0) = true ∧ after (.ext G 5 2 63 0) s (fun t => t.getS 5 == -1) = true) ∧
    (after (.zext G 5 2 63) s (fun t => t.getS 5 == -1) = true ∧ after (.sext G 5 1 15) s (fun t => t.getS 5 == 0xFFFFFFFFFFFF80F0) = true ∧
      after (.cmp G 0 2 1 false) s (fun t => t.getG 0 == true && t.getG 1 == false) = true ∧
      after (.cmp G 2 2 1 true) s (fun t => !t.getG 4 && !t.getG 5) = true ∧
      after (.cmpi G 1 1 true 0x80F0) s (fun t => !t.getG 2 && t.getG 3) = true ∧
      after (.gop G .xor 5 true 3 false 0) s (fun t => t.getG 5) = true ∧ after (.gop G .and 5 true 3 false 0) s (fun t => !t.getG 5) = true) := by
  decide +kernel

theorem wit_TransferAndLoopResults :
    let s := at0 4 { regs [(1, 0x40), (2, 3)] with line := exLine, pc := codeVa, epc := codeVa + 640, intrap := true }
    let l := s.sl
    let lb := (successor l.line l.pc).1
    (s.guardTrue G = true ∧ s.sl.priv = true ∧ after (.br G 0xFFFFFFE5) s (fun t => t.sl.pc == codeVa - 64 + 10) = true ∧
      after (.jl G 0x20) s (fun t => t.sl.pc == codeVa + 64 && t.getS 31 == codeVa + 2) = true ∧
      after (.jlr G 1 1) s (fun t => t.sl.pc == 0x40 && t.getS 1 == codeVa + 2) = true ∧
      after (.eret G) s (fun t => t.sl.pc == codeVa + 640 && !t.sl.intrap && !t.sl.priv) = true ∧
      after (.trap G 5) (s.setSl { l with intrap := false }) stoppedBy = true ∧ after (.brk G 5) (s.setSl { l with intrap := false }) stoppedBy = true) ∧
    (lb.toNat ≤ (codeVa + 2).toNat ∧ ¬(l.lao = true ∧ l.lai = true) ∧ l.lao = false ∧
      after (.lpset G 5 1) s (fun t => t.sl.lao && t.sl.lco == 5 && t.sl.lbo == codeVa + 2 && t.sl.leo == codeVa + 2) = true ∧
      after (.lpsetr G 2 0x22) s (fun t => t.sl.lao && t.sl.lco == 3 && t.sl.leo == codeVa + 68) = true) ∧
    (let q := s.setSl { l with lao := true };
      q.sl.lao = true ∧ q.sl.lai = false ∧ after (.lpset G 5 2) q (fun t => t.sl.lai && t.sl.lci == 5 && t.sl.lei == codeVa + 4) = true ∧
      after (.lpbrk G) q (fun t => !t.sl.lao) = true) ∧
    (let q := s.setSl { l with lao := true, lai := true, intrap := true };
      q.sl.lai = true ∧ after (.lpset G 5 2) q stoppedBy = true ∧ after (.lpbrk G) q (fun t => t.sl.lao && !t.sl.lai) = true) ∧
    ((codeVa + 0).toNat < lb.toNat ∧ after (.lpset G 5 0) s stoppedBy = true) ∧
    (s.getS 0 = 0 ∧ after (.lpsetr G 0 2) s (fun t => !t.sl.lao) = true ∧ after (.lpset G 0 2) s (fun t => !t.sl.lao) = true) ∧
    (l.lai = false ∧ l.lao = false ∧ after (.lpbrk G) s (fun t => !t.sl.lao) = true) := by
  decide +kernel

/-- ESCR (0x012), GUARDS (0x003) and the hidden DSTEP (0x1E3) keep what they hold; the privileged STATUS (0x002) traps in user mode. -/
theorem wit_CsrInstructionsAndFields :
    let s := on [(1, 0xFFFFFFFFFFFFFFFF), (2, 0x5)]
    (s.guardTrue G = true ∧ csrHidden 0x012 = true ∧ s.sl.priv = true ∧ csrHidden 0x002 = false ∧ csrHidden 0x001 = false ∧
      after (.csrw G 5 1 0x012) s (fun t => (csrValue t 0x012).2 == 0xFFFFFFFFFFFFFFFF && t.getS 5 == 0) = true ∧
      after (.csrs G 5 2 0x012) (csrWrite s 0x012 8) (fun t => (csrValue t 0x012).2 == 13 && t.getS 5 == 8) = true ∧
      after (.csrc G 5 2 0x012) (csrWrite s 0x012 15) (fun t => (csrValue t 0x012).2 == 10 && t.getS 5 == 15) = true ∧
      after (.csrr G 5 0x012) (csrWrite s 0x012 15) (fun t => t.getS 5 == 15) = true) ∧
    (after (.csrw G 5 2 0x003) s (fun t => t.getG 2 && !t.getG 1 && t.getG 0) = true ∧
      after (.fpstatAccess G .csrw 5 1) s (fun t => t.sl.fpstat == 0x3F) = true ∧
      after (.fpstatAccess G .csrc 5 2) (csrWrite s 0x001 0x3F) (fun t => t.sl.fpstat == 0x3A && t.getS 5 == 0x3F) = true ∧
      (csrValue (csrWrite s 0x002 0xFFFFFFFFFFFFFFFF) 0x002).2 = 0xC00 ||| ((csrValue s 0x002).2 &&& ~~~0xC00)) ∧
    (let u := s.setSl { s.sl with priv := false };
      after (.csrw G 5 1 0x002) u stoppedBy = true ∧ after (.csrr G 5 0x012) u stoppedBy = true ∧
      after (.csrr G 5 0x002) u (fun t => t.sl.wait == .none) = true ∧ csrHidden 0x1E3 = false ∧ after (.csrw G 5 1 0x1E3) u stoppedBy = true) := by
  decide +kernel

/-- The clause on settle while an engine is not at its stop point: with an operation outstanding DBGSTAT is 1 or 3, as a free value says (Config.choose). -/
theorem wit_DebugControlAndCsrSideEffects :
    let s := withContext (env (regs [(1, 2), (2, 1), (3, 9)]) [])
    let h := s.setSl { s.sl with lhact := true, lhpc := codeVa }
    (s.guardTrue G = true ∧ (CsrOp.csrw ≠ .csrr) ∧ (s.getS 1).getLsbD 1 = true ∧ h.sl.lhact = true ∧
      after (.lhstRet G .csrw 5 1) h (fun t => t.sl.pc == codeVa && !t.sl.lhact && t.getS 5 == 1) = true ∧
      (s.getS 2).getLsbD 1 = false ∧ after (.lhstRet G .csrw 5 2) h (fun t => t.sl.lhact && t.getS 5 == 1) = true ∧
      s.sl.lhact = false ∧ after (.lhstRet G .csrs 5 1) s (fun t => !t.sl.lhact && t.getS 5 == 0) = true) ∧
    (s.sl.priv = true ∧ after (.enctabWrite G .csrr 5 0) { s with encTab := 1 } (fun t => t.getS 5 == 64) = true) ∧
    (let k := { s with enghalt := [(1, true)] };
      s.ctx = 1 ∧ tget false s.enghalt s.ctx = false ∧ tget false k.enghalt k.ctx = true ∧ (dbgStat s s.ctx).2 = 0 ∧ (dbgStat k k.ctx).2 = 3 ∧
      after (.dbgctlHalt G 5) s (fun t => tget false t.enghalt 1 && t.getS 5 == 0) = true ∧
      after (.dbgctlRun G 5) k (fun t => !tget false t.enghalt 1 && t.getS 5 == 3) = true ∧
      after (.dbgctlSettle G 5) k (fun t => t.getS 5 == 3 && t.sl.wait == .none) = true) ∧
    (let w := { s with slices := [(0, { slice s 0 with reqs := [⟨0, 0, .part, whoPlane, [], 0, 0⟩] })] };
      planeBusy (ctxTouch w 2) = true ∧ after (.dbgctlKill G 5 1) w (fun t => t.sl.wait == .poll && t.tear.isEmpty) = true) ∧
    (planeBusy (ctxTouch s 2) = false ∧ ctxValid (ctxTouch s 2) (s.getS 1).toNat = false ∧ after (.dbgctlKill G 5 1) s (fun t => t.getS 5 == 1 && t.tear.isEmpty) = true ∧
      ctxValid s (s.getS 2).toNat = true ∧ (s.getS 2).toNat = s.ctx ∧ after (.dbgctlKill G 5 2) s stoppedBy = true) ∧
    (let k := s.writeNum (ctxTable + 64 * 9) 8 1;
      planeBusy (ctxTouch k 9) = false ∧ ctxValid (ctxTouch k 9) (k.getS 3).toNat = true ∧ (k.getS 3).toNat ≠ k.ctx ∧
      after (.dbgctlKill G 5 3) k (fun t => t.getS 5 == 0 && t.sl.wait == .none && t.tear.any (fun p => p.1 == 9)) = true) := by
  decide +kernel

theorem wit_HandlerTableAndArrivals :
    let s := on [(1, 1), (2, 0x7FFFFFFF), (3, 0), (4, 0x80000000)]
    let c2 := { Channel.init with en := true, count := 2, reload := 3 }
    let s2 := setChannel s 1 5 c2
    (s.guardTrue G = true ∧ after (.hpost G 1 2 5 1) s2 (fun t => (channel t 1 5).count == 1 && !(channel t 1 5).pend) = true ∧
      after (.hpost G 1 2 5 2) s2 (fun t => let e := channel t 1 5; e.count == 3 && e.pend && e.latch.w1 == 1) = true) ∧
    (0 < ((s.getS 1).setWidth 32).toInt ∧ ((s.getS 3).setWidth 32).toInt ≤ 0 ∧ ((s.getS 4).setWidth 32).toInt ≤ 0 ∧ (channel s2 1 5).pend = false ∧
      after (.harm G 6 1 2 false 5) s2 (fun t => let e := channel t 1 5; e.count == 1 && e.reload == 0x7FFFFFFF && !e.pend && t.getS 6 == 2) = true ∧
      after (.harm G 6 3 0 true 5) s2 (fun t => let e := channel t 1 5; e.count == 3 && e.reload == 3 && e.pend && !e.merge) = true ∧
      after (.harm G 6 4 3 false 5) (setChannel s2 1 5 { c2 with pend := true })
        (fun t => let e := channel t 1 5; e.count == 1 && e.reload == 1 && e.pend && e.merge) = true) ∧
    (after (.hdis G 6 1 true 5) s2 (fun t => !(channel t 1 5).en && t.getS 6 == 32) = true ∧
      after (.hen G 6 1 true 5) s2 (fun t => (channel t 1 0).en && (channel t 1 5).en && !(channel t 1 63).en && t.getS 6 == 32) = true ∧
      after (.hprio G 6 7 63) s2 (fun t => (channel t 1 63).prio == 7 && t.getS 6 == 0) = true) ∧
    (0 < ((channel s2 1 5).count - BitVec.ofNat 32 1).toInt ∧ ((channel s2 1 5).count - BitVec.ofNat 32 2).toInt ≤ 0 ∧
      (arrive s2 1 5 1 ⟨0, 0, 0, 0, 0⟩ .post).2 = false ∧ (arrive s2 1 5 2 ⟨0, 0, 0, 0, 0⟩ .post).2 = true ∧
      (arrive (setChannel s2 1 5 { c2 with pend := true }) 1 5 1023 ⟨0, 0, 0, 0, 0⟩ .post).2 = false) := by
  decide +kernel

/-- Channels 5 (priority 2) and 6 (priority 3) of core 1 are eligible: 6 starts, in slot 5, since slot 4 is not free. -/
theorem wit_ActivationStarts :
    let e := { Channel.init with en := true, pend := true, prio := 2, haddr := codeVa, latch := ⟨1, 2, 3, 4, 5⟩ }
    let s := setChannel (setChannel (env (regs []) []) 1 5 e) 1 6 { e with prio := 3 }
    ((s.cluster (1 / 16)).launch = some 7 ∧ s.launch? 7 = some launch7 ∧ selectedChannel s 1 = some 6 ∧ freeSlot s 1 = some 5 ∧ (s.slot 5).chan = none ∧
      yields (exec (.activationStart 1) s) (fun t => let l := t.slot 5;
        l.chan == some 6 && l.pc == codeVa && l.s[1] == 1 && l.s[5] == 5 && l.s[0] == 0 && l.s[31] == 0 && l.priv && (channel t 1 6).busy &&
          !(channel t 1 6).pend && (channel t 1 5).pend) = true) ∧
    (let u := setChannel (env (regs []) []) 1 5 { e with en := false };
      selectedChannel u 1 = none ∧ yields (exec (.activationStart 1) u) (fun t => decide (t = u)) = true) ∧
    (let u := setChannel (on []) 1 5 e;
      (u.cluster (1 / 16)).launch = none ∧ selectedChannel u 1 = some 5 ∧ yields (exec (.activationStart 1) u) (fun t => decide (t = u)) = true) ∧
    (let u := (((s.setSlot 5 (regs [])).setSlot 6 (regs [])).setSlot 7 (regs []));
      freeSlot u 1 = none ∧ yields (exec (.activationStart 1) u) (fun t => decide (t = u)) = true) := by
  decide +kernel

theorem wit_ActivationEndAlignmentAndDrift :
    let s := (env (regs []) []).setCore 1 { CoreSt.init with dcred := #v[1, 0, 65535, 1] }
    let live := setChannel s 1 0 { Channel.init with busy := true }
    (s.guardTrue G = true ∧ s.guardTrue ⟨3, false⟩ = false ∧ (live.slot 4).chan = some 0 ∧ (∀ e < 32, (jentry live (coreOf 4) e).held = false) ∧
      after (.hret G) live (fun t => (t.slot 4).chan == none && !(channel t 1 0).busy) = true ∧
      after (.hret ⟨3, false⟩) live (fun t => (t.slot 4).chan == some 0) = true) ∧
    (let two := s.setSlot 8 (regs []);
      alignMet s 4 = true ∧ alignMet two 4 = false ∧ after (.falign G) s (fun t => t.sl.wait == .none) = true ∧
      after (.falign G) two (fun t => t.sl.wait == .align 0) = true ∧
      after (.falign G) (two.setSlot 8 { regs [] with wait := .align 0 }) (fun t => t.sl.wait == .none && (t.slot 8).wait == .none) = true ∧
      (let w := { two.setSl { two.sl with wait := .align 3 } with cc := 67 };
        w.sl.wait = .align 3 ∧ 3 + 64 ≤ w.cc ∧ after .falignTimeout w (fun t => t.sl.wait == .none) = true ∧
        after .falignTimeout { w with cc := 66 } (fun t => t.sl.wait == .align 3) = true)) ∧
    (driftNeighbour s 1 0 = some 3 ∧ driftNeighbour s 1 1 = none ∧ driftNeighbour s 1 2 = some 9 ∧ driftNeighbour s 1 3 = none ∧
      after (.dsync G 5 0xF) s (fun t => t.getS 5 == 1 && (t.core 1).p == 1 && (t.core 1).dcred[0] == 0 && (t.core 1).dcred[2] == 65534 &&
        (t.core 1).dcred[3] == 1 && t.net.length == 2) = true ∧
      (let w := s.setCore 1 { s.core 1 with dcred := #v[0, 1, 1, 1] };
        (w.core 1).dcred[0] = 0 ∧ after (.dsync G 5 1) w (fun t => t.sl.wait == .drift) = true)) ∧
    (let w := { s with net := [(0, .credit 1 7 2)], sel := 0 };
      arriving w = some (.credit 1 7 2) ∧ runsLaunch (unsend w w.sel) 1 7 = true ∧
      after .driftCreditArrival w (fun t => (t.core 1).dcred[2] == 65535 && t.net.isEmpty) = true ∧
      (let v := { w with net := [(0, .credit 1 7 1)] };
        arriving v = some (.credit 1 7 1) ∧ after .driftCreditArrival v (fun t => (t.core 1).dcred[1] == 1) = true)) ∧
    (s.launchAt s.myCl = some launch7 ∧ (0 : Nat) < launch7.ranges.length ∧ launch7.ranges.length ≤ 1 ∧
      after (.rtake G 5 6 0) s (fun t => t.sl.wait == .range false && (t.die (homeDie 0 0)).ranges.length == 1) = true ∧
      after (.rtake G 5 6 1) s stoppedBy = true ∧ (on []).launchAt (on []).myCl = none ∧ after (.rtake G 5 6 0) (on []) stoppedBy = true) ∧
    (let r : RangeReq := ⟨4, 7, 5, 6, 0⟩
      let w := (s.setSl { s.sl with wait := .range false }).setDie 0 ⟨[], [r]⟩;
      (w.die 0).ranges.findIdx? (fun r => !launchOut w r.launch) = some 0 ∧ (w.die 0).ranges[0]? = some r ∧ w.launch? 7 = some launch7 ∧
      (w.slot 4).wait = .range false ∧
      after (.rangeUnitService 0) w (fun t => t.getS 5 == 4 && t.getS 6 == 13 && (t.launch? 7).map (·.ranges) == some [⟨17, 104, 8, 5⟩]) = true ∧
      (let v := { w with launches := [(7, { launch7 with ranges := [⟨104, 104, 8, 5⟩] })] };
        after (.rangeUnitService 0) v (fun t => t.getS 5 == 104 && t.getS 6 == 0) = true)) := by
  decide +kernel

/-- A head whose slot still has a store in its queue, D = A of `harm`, `hpclr`, and encoders between frames. -/
theorem wit_HandlerTableAndArrivals_more :
    let c2 := { Channel.init with en := true, count := 2, reload := 3, pend := true, merge := true, src := .post, latch := ⟨1, 2, 3, 4, 5⟩ }
    let s := setChannel (on [(1, 9), (2, 0x20)]) 1 5 c2
    let q := { env { regs [] with sq := [(0x40000000, 0, [7, 8])] } [] with sel := 1 }
    (s.guardTrue G = true ∧ s.sl.sq = [] ∧
      after (.harm G 1 1 2 false 5) s (fun t => let e := channel t 1 5; e.count == 2 && e.reload == 32 && e.pend && t.getS 1 == 2) = true ∧
      after (.harm G 2 1 2 false 5) s (fun t => (channel t 1 5).reload == 2) = true ∧
      after (.hpclr G 6 2 false 0) s (fun t => let e := channel t 1 5; !e.pend && !e.merge && e.latch == ⟨0, 0, 0, 0, 0⟩ && t.getS 6 == 32) = true) ∧
    (q.sl.sq ≠ [] ∧ after (.hpost G 1 2 5 1) q (fun t => t.sl.sq.isEmpty && !(t.cluster 0).cdc.isEmpty && t.sl.wait == .none) = true) := by
  decide +kernel

/-- Launch 7 with two regions of kind tcm, one of kind ws and one of kind csp; its channel 6 names the last three and no other. -/
def withRegions : State :=
  let a : List AllocEntry := [⟨0, 0, 0, 256⟩, ⟨0, 0, 0, 512⟩, ⟨1, 0, 0, 4096⟩, ⟨2, 0, 0, 4096⟩]
  let e := { Channel.init with en := true, pend := true, prio := 2, haddr := codeVa, src := .start, merge := true, regs := [1, 2, 3], latch := ⟨1, 2, 3, 4, 5⟩ }
  let s := setChannel (env (regs []) []) 1 6 e;
  { s with launches := [(7, { launch7 with record := { rec1 with allocs := a } })],
           clusters := [(0, { s.cluster 0 with allocs := [⟨3, 1, 0, 0, 0, false, 7⟩], wsBase := 64 })] }

/-- s7: the TCM region below the first one; s8: the base of the placement's WS; s9: CSP block 3; s10: no region. -/
theorem wit_ActivationStarts_regions :
    ((withRegions.cluster (1 / 16)).launch = some 7 ∧ tearing withRegions 1 = false ∧ selectedChannel withRegions 1 = some 6 ∧ freeSlot withRegions 1 = some 5) ∧
    yields (exec (.activationStart 1) withRegions) (fun t => let l := t.slot 5;
      l.s[6] == wordN (6 + 0x100 + 0x80) && l.s[7] == wordN (65536 - 768) && l.s[8] == 0x200040 && l.s[9] == 0x803000 && l.s[10] == 0 &&
        l.claim == Claim.none && l.cbar == 0) = true ∧
    (let u := { withRegions with tear := [(1, 1)] };
      tearing u 1 = true ∧ yields (exec (.activationStart 1) u) (fun t => decide (t = u)) = true) := by
  decide +kernel

/-! ## Memory -/

/-- The result is what is expected. -/
def got {α : Type} (r : Res α) (f : State → α → Bool) : Bool := match r with | .ok t x => f t x | _ => false

/-- The result is a trap of this cause. -/
def trapped {α : Type} (r : Res α) (cause : Nat) : Bool := match r with | .trap _ t => t.cause == cause | _ => false

/-- The environment with bytes at TCM address 16 of core 1 and at CSP address 0x801008. -/
def mem1 : State :=
  let s := memEnv [(1, 0x10), (2, 2), (3, 0x801008), (4, 0x801000), (5, 0x20000000040), (6, 0x10004000008), (7, 0xFFFFFFFFFFFFFFF8), (8, 0x11223344800000F4)];
  { s with mem := Memory.puts (Memory.puts s.mem (2 ^ 52 + 2 ^ 16 + 0x10) [0xF4, 0, 0, 0x80, 0xF4, 5, 6, 0x87]) (2 ^ 54 + 0x1008) [1, 2, 3, 4, 5, 6, 7, 8] }

/-- The ends of every region; the WS bytes below 0x200200 are held; a store into a held source; a place within the grid and one outside it. -/
theorem wit_AccessChecks :
    let s := mem1
    let h := s.setCluster 0 { s.cluster 0 with sources := [⟨[(2 ^ 52 + 2 ^ 16, 64)], 3⟩] }
    let key := fun k (_ : State) l => decide (l = Loc.mem k)
    (trapped (locate s 4 .read true false 0x11 2) 8 = true ∧ got (locate s 4 .read true false 0 1) (key (2 ^ 52 + 2 ^ 16)) = true ∧
      got (locate s 4 .read true false 0xFFFF 1) (key (2 ^ 52 + 2 ^ 17 - 1)) = true ∧ trapped (locate s 4 .read true false 0x10000 1) 7 = true ∧
      trapped (locate h 4 .write true true 0x38 8) 21 = true ∧ got (locate h 4 .write true true 0x40 8) (key (2 ^ 52 + 2 ^ 16 + 64)) = true) ∧
    (wsHeldAt s (clusterOf 4) 0x1F8 8 = true ∧ trapped (locate s 4 .write true true 0x2001F8 8) 6 = true ∧ wsHeldAt s (clusterOf 4) 0x200 8 = false ∧
      got (locate s 4 .write true true 0x200200 8) (key (2 ^ 53 + 0x200)) = true ∧
      got (locate s 8 .write true true 0x3FFFFF 1) (key (2 ^ 53 + 2 ^ 21 + 0x1FFFFF)) = true ∧ trapped (locate s 4 .read true false 0x400000 1) 7 = true) ∧
    ((cspAllocAt s (clusterOf 4) 0x1000).isSome = true ∧ got (locate s 4 .write true true 0x801000 8) (key (2 ^ 54 + 0x1000)) = true ∧
      (cspAllocAt s (clusterOf 4) 0x7FFFFF).isNone = true ∧ trapped (locate s 4 .read true false 0xFFFFFF 1) 6 = true ∧
      trapped (locate s 4 .read true false 0x1000000 1) 7 = true ∧ trapped (locate s 4 .read true false 0x200000000000000 1) 7 = true) ∧
    ((placeCore 1 4).isSome = true ∧ got (locate s 4 .read true false 0x10004000008 8) (fun _ l => decide (l = .remote 4 8)) = true ∧
      trapped (locate s 4 .atomic false false 0x10004000008 8) 6 = true ∧
      placeCore 1 0xFF00 = none ∧ trapped (locate s 4 .read true false 0x1FF00000008 8) 9 = true) := by
  decide +kernel

/-- Loads of 0x87060504_F40000F4... at its sign, a store of the low bytes, and the neighbour forms; no journal entry is free in the last state. -/
theorem wit_LoadsAndStores :
    let s := mem1
    let k := 2 ^ 52 + 2 ^ 16 + 0x10
    let e : Eng := ⟨0, 0, 5, 1⟩
    let full := s.setCore 1 { s.core 1 with journal := (List.range 32).map fun i => (i, ⟨.posted, 0, 5, 0, 0, 0x300, .d, 9, true, false⟩) }
    (s.guardTrue G = true ∧ (waitParcel s e).2 = true ∧ parks s 4 k 8 = false ∧ s.lostIn k 8 = false ∧ s.memOk = true ∧
      got (readLoc s 4 .read 0x10 8 (.mem k)) (fun _ b => decide (b = [0xF4, 0, 0, 0x80, 0xF4, 5, 6, 0x87])) = true ∧
      got (writeLoc s 4 0x10 [1, 0] (.mem k)) (fun t _ => t.read (k - 1) 4 == [0, 1, 0, 0] && t.memOk) = true) ∧
    (let g := s.setCluster 0 { s.cluster 0 with guards := [⟨2 ^ 52 + 2 ^ 16, 17, 2 ^ 54, 0⟩] };
      let x : State := { s with lost := [(k / 8)] };
      guarded g 0 k 8 = true ∧ parks g 4 k 8 = true ∧ after (.ld G .d 9 1 0 none) g (fun t => match t.sl.wait with | .parked _ _ _ _ => true | _ => false) = true ∧
      x.lostIn k 8 = true ∧ trapped (readLoc x 4 .read 0x10 8 (.mem k)) 26 = true) ∧
    (after (.ld G .w 9 1 0 (some e)) s (fun t => t.getS 9 == 0xFFFFFFFF800000F4 && semGet t 0 5 == 1) = true ∧
      after (.ldn G .w 9 1 0 none) s (fun t => t.getS 9 == 0x800000F4) = true ∧ after (.ld G .b 9 1 1 none) s (fun t => t.getS 9 == 0) = true ∧
      after (.ldx G .h 9 1 2) s (fun t => t.getS 9 == 0x5F4) = true ∧ after (.ldxSync G .b 9 1 2 e) s (fun t => semGet t 0 5 == 1 && t.getS 9 == 0) = true ∧
      after (.ld G .d 9 7 0x18 none) s (fun t => t.getS 9 == 0x87060 * 2 ^ 44 + 0x5F4 * 2 ^ 32 + 0x800000F4) = true ∧
      after (.ld G .d 9 5 0 none) s (fun t => t.getS 9 == 0) = true) ∧
    ((∀ e < 32, (jentry s 1 e).st ≠ .posted) ∧
      after (.ld G .d 9 6 0 none) s (fun t => t.sl.wait == .reply 9 8 false none 0x10004000008 && t.net.length == 1) = true ∧
      freeJentry s 1 = some 0 ∧ after (.st G .h 8 6 0 none) s (fun t => (jentry t 1 0).data == 0xF4 && t.sl.wait == .none) = true ∧
      freeJentry full 1 = none ∧ after (.st G .h 8 6 0 none) full (fun t => t.sl.wait == .poll) = true) ∧
    (got (locate s 4 .write true true 0x14 4) (fun t l => decide (l = .mem (k + 4)) && !heldSource t 0 (k + 4) 4) = true ∧
      after (.st G .w 8 1 4 (some e)) s (fun t => t.num k 8 == 0x800000F4800000F4 && t.sl.sq.isEmpty && semGet t 0 5 == 1) = true ∧
      after (.stx G .h 8 1 2) s (fun t => t.num (k + 4) 2 == 0x5F4 && t.sl.sq == [(k + 4, 0, [0xF4, 0])] && (storesEnter t 4).num (k + 4) 2 == 0xF4) = true ∧
      after (.stxSync G .b 8 1 2 e) s (fun t => t.num (k + 2) 1 == 0xF4) = true ∧
      after (.st G .d 8 7 0 none) s stoppedBy = true ∧ after (.ld G .d 8 7 0 none) s stoppedBy = true) := by
  decide +kernel

theorem wit_DataCache :
    let s := cdcStore mem1 0 0x40000040 0 [1, 2, 3, 4]
    let u : State := { s with live := [(0x200000, 0)] }
    let l := (cdcFind (u.cluster 0) 0x200000).getD ⟨0, 0, 0, 0, []⟩
    (((mem1.cluster 0).cdc.filter fun l => l.la % 32 == 0).length < 16 ∧ 0x40000040 % 64 + 4 ≤ 64 ∧ l.la = 0x200000 ∧ l.dirty = 0xF <<< 64 ∧
      s.mem = mem1.mem ∧ 0x4000007F % 64 + 1 ≤ 64 ∧
      ((cdcFind ((cdcStore s 0 0x4000007F 0 [9]).cluster 0) 0x200000).map (·.dirty)) = some ((0xF <<< 64) ||| (1 <<< 127))) ∧
    (cdcFind (u.cluster 0) l.la = some l ∧ ownMemory u (l.la * 512) = true ∧ u.memOk = true ∧ (dirtyOf l 1).length ≠ 0 ∧
      (writeBack u 0 l 1).read 0x4000003F 6 = [0, 1, 2, 3, 4, 0] ∧ (cdcFind ((writeBack u 0 l 1).cluster 0) 0x200000).map (·.dirty) = some 0 ∧
      (sendBack u 0 l 1).mem = u.mem ∧ (slice (sendBack u 0 l 1) (homeSlice u 0x200000)).reqs.map (·.data) = [[(64, 1), (65, 2), (66, 3), (67, 4)]] ∧
      (cdcFind ((sendBack u 0 l 1).cluster 0) 0x200000).map (·.dirty) = some 0 ∧
      (cdcFind ((cdcDiscard u 0 0x40000040).cluster 0) 0x200000).map (·.dirty) = some 0 ∧ (cdcDiscard u 0 0x40000040).mem = u.mem) ∧
    ((∀ x ∈ ((acquire u 0 4).cluster 0).cdc, x.valid = 0) ∧ (cdcFind ((acquire u 0 4).cluster 0) 0x200000).map (·.dirty) = some (0xF <<< 64) ∧
      (∀ x ∈ ((acquire u 0 6).cluster 0).cdc, x.valid = 0) ∧ acquire u 0 3 = u) := by
  decide +kernel

/-- 0x800000F4 is least with a sign and greatest without. -/
theorem wit_AtomicResults :
    let s := mem1
    let k := 2 ^ 52 + 2 ^ 16 + 0x10
    s.guardTrue G = true ∧ got (locate s 4 .atomic false true 0x10 4) (fun t l => decide (l = .mem k) && !parks t 4 k 4 && !t.lostIn k 4) = true ∧
      after (.amo G false 9 1 2 .min .relaxed .slot) s (fun t => t.getS 9 == 0xFFFFFFFF800000F4 && t.num k 4 == 0x800000F4) = true ∧
      after (.amo G false 9 1 2 .max .acq .core) s (fun t => t.num k 4 == 2) = true ∧
      after (.amo G false 9 1 2 .minn .rel .tile) s (fun t => t.num k 4 == 2) = true ∧
      after (.amo G false 9 1 2 .maxn .ar .domain) s (fun t => t.num k 4 == 0x800000F4) = true ∧
      after (.amo G true 9 1 7 .add .relaxed .slot) s (fun t => t.num k 8 == 0x870605F4800000EC && t.getS 9 == 0x870605F4800000F4) = true ∧
      after (.amo G false 9 1 2 .swap .relaxed .slot) s (fun t => t.num k 8 == 0x870605F400000002) = true ∧
      after (.amo G false 9 1 2 .xor .relaxed .slot) s (fun t => t.num k 4 == 0x800000F6) = true ∧
      after (.amocas G false 8 1 2 true) s (fun t => t.num k 4 == 2 && t.getS 8 == 0xFFFFFFFF800000F4) = true ∧
      after (.amocas G true 8 1 2 false) s (fun t => t.num k 8 == 0x870605F4800000F4) = true := by
  decide +kernel

/-- Words 0x801000 (F), 0x801008 (F and W) and 0x801010 (neither) of an allocation by retry, and of one by monitor. -/
theorem wit_FullEmptyResults :
    let s : State := { mem1 with fe := [((2 ^ 54 + 0x1000) / 8, ⟨true, false⟩), ((2 ^ 54 + 0x1008) / 8, ⟨true, true⟩)] }
    let z := s.setSl { s.sl with retrylim := 0 }
    let m := s.setCluster 0 { s.cluster 0 with allocs := [{ alloc1 with fe := 3 }] }
    let line := fun i => match encode i with | h :: t => h :: List.replicate (31 - t.length) 0 ++ t.reverse | [] => []
    let f := fun d c => { s.setSl { s.sl with wait := .fe 3 d, line := line (.ldfe G 9 4 10 16) } with cc := c }
    let w := fun d c => { s.setSl { s.sl with wait := .monitor d, line := line (.mwait G 9 4), mon := ⟨5, 320, true, false, false⟩ } with tb := c }
    (s.guardTrue G = true ∧ got (feLocate s .read false 0x801000) (fun _ x => decide (x = (2 ^ 54 + 0x1000, false))) = true ∧
      parks s 4 (2 ^ 54 + 0x1000) 8 = false ∧ s.lostIn (2 ^ 54 + 0x1000) 8 = false ∧
      got (feLocate m .write true 0x801008) (fun _ x => decide (x = (2 ^ 54 + 0x1008, true))) = true ∧
      after (.ldfe G 9 4 10 0) s (fun t => t.getS 10 == 3 && t.getS 9 == 0 && !(t.feAt (2 ^ 54 + 0x1000)).f) = true ∧
      after (.ldff G 9 4 10 8) s (fun t => t.getS 9 == 0x807060504030201 && (t.feAt (2 ^ 54 + 0x1008)).w) = true ∧
      after (.ldre G 9 4 10 8) s stoppedBy = true ∧ after (.stsf G 8 4 10 8) s (fun t => t.getS 10 == 3 && t.num (2 ^ 54 + 0x1008) 4 == 0x800000F4 && (t.core 1).ptr == 1) = true ∧
      after (.stfe G 8 4 10 16) s (fun t => t.getS 10 == 1 && (t.feAt (2 ^ 54 + 0x1010)).f) = true ∧
      after (.stfe G 8 4 10 8) s (fun t => t.sl.wait == .fe 1 8) = true ∧
      z.sl.retrylim.toNat < feTries z + 1 ∧ after (.stfe G 8 4 10 8) z stoppedBy = true ∧
      after (.stfe G 8 4 10 8) m (fun t => t.getS 10 == 2 && t.sl.wait == .none) = true) ∧
    ((instrAt (f 8 8).sl).isSome = true ∧ (f 8 8).sl.wait = .fe 3 8 ∧ yields (exec .feRetryAttempt (f 8 8)) (fun t => t.sl.wait == .fe 4 16 && (t.core 1).ptr == 0) = true ∧
      yields (exec .feRetryAttempt (f 8 7)) (fun t => t.sl.wait == .fe 3 8) = true) ∧
    (instrAt (w 8 8).sl = some (.mwait G 9 4) ∧ yields (exec .mwaitDeadline (w 8 7)) (fun t => t.sl.wait == .monitor 8) = true ∧
      yields (exec .mwaitDeadline (w 0 7)) (fun t => t.sl.wait == .monitor 0) = true ∧
      yields (exec .mwaitDeadline { (w 8 0x900000) with tb := 0x900000 }) (fun t => t.sl.wait == .none && t.getS 9 == 0 && t.sl.mon.armed) = true) := by
  decide +kernel

theorem wit_MonitorsAndFences :
    let s := mem1
    let q := fun a h r => s.setSl { s.sl with mon := ⟨5, 320, a, h, r⟩ }
    (s.guardTrue G = true ∧ after (.mon G 1) s (fun t => t.sl.mon == ⟨0, 2 ^ 52 + 2 ^ 16, true, false, false⟩) = true ∧
      after (.mon G 5) s (fun t => t.sl.mon == ⟨0x800000001, 0x40000040, true, false, false⟩) = true) ∧
    ((q true true true).sl.mon.key < 2 ^ 55 ∧ after (.mwait G 9 0) (q false true true) (fun t => t.getS 9 == 2) = true ∧
      after (.mwait G 2 0) (q true true true) (fun t => t.getS 2 == 0 && !t.sl.mon.armed) = true ∧
      after (.mwait G 9 0) (q true false true) (fun t => t.getS 9 == 1 && t.sl.mon.armed && !t.sl.mon.rearm) = true ∧
      after (.mwait G 9 0) (q true false false) (fun t => t.sl.wait == .monitor 0) = true ∧
      after (.mwait G 9 1) { q true false false with tb := 15 } (fun t => t.sl.wait == .monitor 16) = true ∧
      after (.mwait G 9 1) { q true false false with tb := 16 } (fun t => t.getS 9 == 3) = true) ∧
    (after (.fence G .core .ar) s (fun t => t.sl.wait == .none) = true ∧ after (.fence G .domain .ar) (cdcStore s 0 0x40000040 0 [1])
        (fun t => t.sl.wait == .poll && writesPending t (whoCdc 0)) = true ∧ slotReleased (slotRelease s 6) 6 = true ∧ (slotRelease s 6).sl.rel.isSome = true ∧
      slotReleased (slotRelease (cdcStore s 0 0x40000040 0 [1]) 4) 4 = false) ∧
    (((s.slot 4).mon.armed = false) ∧ ((q true false false).slot 4).mon.armed = true ∧ (((q true false false).write 319 [1, 2]).slot 4).mon.hit = true ∧
      (((q true false false).write 319 [1]).slot 4).mon.hit = false ∧ (((q true false false).write 384 [1]).slot 4).mon.hit = false ∧
      (((q true false false).write 383 [1]).slot 4).mon.hit = true) := by
  decide +kernel

theorem wit_ScratchpadAllocation :
    let s := memEnv [(1, 0x2000), (2, 0x800000), (3, 0x800001), (4, 0x801000), (5, 0x1001), (6, 0x20), (7, 4), (8, 0x8008), (9, 0x801008)]
    let c := s.cluster 0
    (s.guardTrue G = true ∧ cspFit c 2 = some 3 ∧ cspFit c 2048 = none ∧ c.allocs.length < 64 ∧
      after (.spal G 10 1 7 2 3) s (fun t => t.getS 10 == 0x803000 && (t.cluster 0).allocs.length == 2) = true ∧
      after (.spal G 10 5 0 0 0) s (fun t => t.getS 10 == 0x803000) = true ∧ after (.spal G 10 2 0 0 0) s (fun t => t.getS 10 == 0) = true ∧
      after (.spal G 10 3 0 0 0) s (fun t => t.getS 10 == 0) = true ∧ after (.spal G 10 0 0 0 0) s (fun t => t.getS 10 == 0) = true) ∧
    (let x := s.setCluster 0 { c with allocs := [{ alloc1 with spal := false }], zeroing := [(0, 1)] };
      after (.spfr G 4 4) s (fun t => t.getS 4 == 0 && (t.cluster 0).zeroing == [(1, 2)]) = true ∧
      after (.spfr G 4 4) x (fun t => t.getS 4 == 2) = true ∧ after (.spfr G 4 1) s (fun t => t.getS 4 == 1) = true ∧
      yields (exec (.cspBlockZeroed 0) x) (fun t => (t.cluster 0).zeroing == []) = true ∧ c.zeroing = [] ∧
      yields (exec (.cspBlockZeroed 0) s) (fun t => decide (t = s)) = true ∧
      yields (exec (.cspBlockZeroed 0) (s.setCluster 0 { c with zeroing := [(3, 2)] })) (fun t => (t.cluster 0).zeroing == [(4, 1)]) = true) ∧
    (let f : State := { s with fe := [((2 ^ 54 + 0x1000) / 8, ⟨true, false⟩), ((2 ^ 54 + 0x1008) / 8, ⟨true, true⟩)] };
      checkWhere f 4 .write false 0x801000 1 = none ∧ feRegion f 1 (whereIs 0x801000) = some (2 ^ 54 + 0x1000, 2 ^ 54 + 0x3000) ∧
      after (.fecl G 4 6 true) f (fun t => (t.feAt (2 ^ 54 + 0x1018)) == ⟨true, false⟩ && !(t.feAt (2 ^ 54 + 0x1008)).w && !(t.feAt (2 ^ 54 + 0x1020)).f) = true ∧
      after (.fecl G 4 6 false) f stoppedBy = true ∧ after (.fecl G 4 7 true) f stoppedBy = true ∧ after (.fecl G 4 0 true) f stoppedBy = true ∧
      after (.fecl G 9 6 true) f (fun t => (t.feAt (2 ^ 54 + 0x1000)).f && (t.feAt (2 ^ 54 + 0x1020)).f) = true) := by
  decide +kernel

/-- A store queue of 8 entries, whose oldest goes on when the next store retires; the ninth is in the cache. -/
theorem wit_LoadsAndStores_queue :
    let s := mem1
    let q : State := s.setSl { s.sl with sq := List.replicate 8 (0x40000000, 0, [1, 2]) };
    (s.sl.sq = [] ∧ got (locate s 4 .write true true 0x20000000040 8) (fun _ l => decide (l = .glob 0x40000040 0)) = true ∧
      after (.st G .d 2 5 0 none) s (fun t => t.sl.sq == [(0x40000040, 0, bytesOf 8 2)] && (t.cluster 0).cdc.isEmpty) = true) ∧
    (q.sl.sq.length = 8 ∧ after (.st G .b 2 5 1 none) q (fun t => t.sl.sq.length == 8 && t.sl.sq.getLast? == some (0x40000041, 0, [2]) &&
        (t.cluster 0).cdc.length == 1) = true ∧
      ((storesEnter q 4).slot 4).sq = [] ∧ (cdcFind ((storesEnter q 4).cluster 0) 0x200000).map (·.dirty) = some 3) := by
  decide +kernel

/-- A release that waits for its write-backs: another module's acknowledgement is awaited at domain scope. -/
theorem wit_MonitorsAndFences_releases :
    let s := mem1
    let w : State := { s with away := [⟨2 ^ 42, whoCdc 0, 1, 1000, 0, 0⟩] };
    (slotReleased (slotRelease w Scope.domain.code) Scope.domain.code = false ∧ after (.fence G .domain .rel) w (fun t => t.sl.wait == .poll) = true ∧
      after (.fence G .tile .ar) w (fun t => t.sl.wait == .none) = true) ∧
    (got (locate w 4 .atomic false true 0x10 4) (fun _ l => decide (l = .mem (2 ^ 52 + 2 ^ 16 + 0x10))) = true ∧
      after (.amo G false 9 1 2 .add .rel .domain) w (fun t => t.sl.wait == .poll && t.num (2 ^ 52 + 2 ^ 16 + 0x10) 4 == 0x800000F4) = true) := by
  decide +kernel

/-- Ranges of `fecl`: 32,768 bytes are few enough to be tested by the region, 32,776 are not; a range into a hole is an address fault. -/
theorem wit_ScratchpadAllocation_ranges :
    let s := memEnv [(1, 0x8000), (2, 0x8008), (4, 0x801000), (5, 0xFFFFF8), (6, 16), (7, 0x3FFFF8)]
    rangeAddress s s.cur .write 0x801000 0x8000 = none ∧ rangeAddress s s.cur .write 0x801000 0x8008 = none ∧
      after (.fecl G 4 1 true) s stoppedBy = true ∧ after (.fecl G 4 2 true) s stoppedBy = true ∧
      touchesHole 0xFFFFF8 16 = true ∧ rangeAddress s s.cur .write 0xFFFFF8 16 = some (memTrap 7 .write 0xFFFFF8) ∧ after (.fecl G 5 6 true) s stoppedBy = true ∧
      rangeAddress s s.cur .write 0x3FFFF8 16 = some (memTrap 7 .write 0x3FFFF8) ∧ after (.fecl G 7 6 true) s stoppedBy = true := by
  decide +kernel

/-- A full/empty load of a guarded word parks, whether ready or not; a ready one of a lost word traps, one that is not ready does not. -/
theorem wit_FullEmptyResults_guards :
    let s : State := { mem1 with fe := [((2 ^ 54 + 0x1000) / 8, ⟨true, false⟩)], lost := [(2 ^ 54 + 0x1000) / 8, (2 ^ 54 + 0x1008) / 8] }
    let g := s.setCluster 0 { s.cluster 0 with guards := [⟨2 ^ 54 + 0x1000, 16, 2 ^ 53, 0⟩] }
    let parked := fun t : State => match t.sl.wait with | .parked _ _ _ _ => true | _ => false;
    guarded g 0 (2 ^ 54 + 0x1000) 8 = true ∧ feTries g = 0 ∧ after (.ldfe G 9 4 10 0) g parked = true ∧ after (.ldfe G 9 4 10 8) g parked = true ∧
      s.lostIn (2 ^ 54 + 0x1000) 8 = true ∧ after (.ldfe G 9 4 10 0) s stoppedBy = true ∧ after (.ldfe G 9 4 10 8) s (fun t => t.sl.wait == .fe 1 8) = true := by
  decide +kernel

/-- The environment with a line of 0x40000000 that is resident at its home slice and holds 5 at 0x40000040. -/
def atHomeEnv : State :=
  let s := { mem1 with mem := mem1.mem.puts 0x40000040 [5], live := [(0x200000, 0)] };
  { s with slices := [(homeSlice s 0x200000, { Slice.init with lines := [⟨0x200000, 0, false, 0x02000000, [], []⟩], freeSec := 16366 })] }

/-- Global words: 5 + 2; 0x800000F4 where 5 is expected; a line that the host holds; a clean line with an error, which is filled again, and a dirty one, which is lost. -/
theorem wit_AtomicResults_global :
    let s := atHomeEnv
    let held : State := { s with mgmt := { s.mgmt with held := [0x200000] } }
    let h := homeSlice s 0x200000
    let c := slice s h;
    s.guardTrue G = true ∧ got (locate s 4 .atomic false true 0x20000000040 8) (fun v l => decide (l = .glob 0x40000040 0) && ownMemory v 0x40000040) = true ∧
      s.memOk = true ∧ ((slice s (homeSlice s 0x200000)).find 0x200000).isSome = true ∧
      after (.amo G true 9 5 2 .add .relaxed .slot) s (fun t => t.getS 9 == 5 && t.num 0x40000040 8 == 7) = true ∧
      after (.amo G true 9 5 2 .swap .ar .die) s (fun t => t.getS 9 == 5 && t.num 0x40000040 8 == 2) = true ∧
      after (.amocas G false 8 5 2 true) s (fun t => t.getS 8 == 5 && t.num 0x40000040 8 == 5) = true ∧
      after (.amocas G false 8 5 2 false) (s.setS 8 5) (fun t => t.num 0x40000040 4 == 2) = true ∧
      after (.amo G true 9 5 2 .add .relaxed .slot) held (fun t => t.sl.wait == .poll && t.num 0x40000040 8 == 5 && !t.mgmt.snoops.isEmpty) = true ∧
      after (.amo G true 9 5 2 .add .relaxed .slot) { s with lost := [64 * 0x200000 + 8] } (fun t => t.getS 9 == 5) = true ∧
      after (.amo G true 9 5 2 .add .relaxed .slot) { setSlice s h { c with lines := c.lines.map fun l => { l with dirty := true } } with lost := [64 * 0x200000 + 8] } stoppedBy = true := by
  decide +kernel

/-- A head whose store has been sent retires, with its signal, once nothing of the slot is unperformed. -/
theorem wit_LoadsAndStores_performed :
    let s := mem1.setSl { mem1.sl with wait := .performs (some ⟨0, 0, 5, 2⟩) };
    unperformed s s.cur = false ∧ yields (proceed s ⟨s.cur, 0, .performed, false⟩) (fun t => semGet t 0 5 == 2 && t.sl.wait == .none) = true := by
  decide +kernel

/-! ## Vectors -/

/-- The even lanes. -/
def M1 : Guard := ⟨1, false⟩

/-- A claim of 16 lanes: v1 and v2 hold numbers and float values at the ends of their ranges, v6 ones in f32. -/
def vec16 : State :=
  lanesOn 16 [(1, 0x10), (2, 7), (3, 0x123456789ABCDEF0), (4, 0x200), (9, 16), (10, 4), (11, 2), (12, 0x203)]
    [(1, [0x7FFFFFFF, 0x80000000, 0xFFFFFFFF, 5, 0x3F800000, 0x7FC00000, 0xFF800000, 1]),
      (2, [1, 0x80000000, 2, 0xFFFFFFFD, 0x40400000, 0x3F800000, 0x7F800000, 3]), (6, List.replicate 16 0x3F800000)]

/-- Lanes 0 to 7 of a register. -/
def lanes8 (t : State) (d : Reg) : List (BitVec 32) := (List.range 8).map (lane t d)

/-- No lane, a lane at each end, guards of both senses and of a mask without lanes. -/
theorem wit_LanesAndMasks :
    let s := vec16
    let n := mem1
    (grant n = 0 ∧ after (.vadd G .i32 .rne 5 1 2 false) n stoppedBy = true ∧ after (.vld G .w 5 4 0 none) n stoppedBy = true ∧
      after (.vred G .i32 .rne 5 1 .add) n stoppedBy = true) ∧
    (0 < grant s ∧ anyActive s ⟨2, false⟩ = false ∧ after (.vadd ⟨2, false⟩ .i32 .rne 5 1 2 false) s (fun t => lanes8 t 5 == lanes8 s 5) = true ∧
      after (.vst ⟨2, false⟩ .w 1 4 0 (some ⟨0, 0, 5, 1⟩)) s (fun t => semGet t 0 5 == 1 && t.num (2 ^ 52 + 2 ^ 16 + 0x200) 4 == 0) = true) ∧
    (active s M1 0 = true ∧ active s M1 15 = false ∧ active s M1 16 = false ∧ active s ⟨1, true⟩ 15 = true ∧ active s ⟨0, true⟩ 0 = false ∧
      lanes8 (writeLanes s M1 1 fun l => BitVec.ofNat 32 l) 1 = [0, 0x80000000, 2, 5, 4, 0x7FC00000, 6, 1] ∧
      maskBit (writeMask s ⟨1, true⟩ 1 fun l => decide (l = 3)) 1 3 = true ∧ maskBit (writeMask s G 0 fun _ => false) 0 3 = maskBit s 0 3 ∧
      (s.addFlags 0x15).sl.fpstat = 0x15) := by
  decide +kernel

theorem wit_VectorArithmetic :
    let s := vec16
    (EltTy.float .i32 = none ∧ EltTy.float .f32 = some .f32 ∧ anyActive s G = true ∧ anyActive s M1 = true ∧ drainPending s [1, 2, 2] = false) ∧
    (after (.vadd G .i32 .rne 5 1 2 true) s (fun t => lanes8 t 5 == [0x7FFFFFFF, 0x80000000, 1, 2, 0x7FC00000, 0x7FFFFFFF, 0x7F000000, 4] && t.sl.fpstat == fSAT)
        = true ∧
      after (.vadd M1 .i32 .rne 2 1 2 false) s (fun t => lanes8 t 2 == [0x80000000, 0x80000000, 1, 0xFFFFFFFD, 0x7FC00000, 0x3F800000, 0x7F000000, 3] &&
        t.sl.fpstat == 0) = true ∧
      after (.vsub G .n32 .rne 5 2 1 true) s (fun t => lane t 5 0 == 0 && lane t 5 3 == 0xFFFFFFF8) = true ∧
      after (.vmul G .n8 .rne 5 1 1 false) s (fun t => lane t 5 0 == 1 && lane t 5 3 == 25 && lane t 5 4 == 0) = true ∧
      after (.vfma G .i32 .rne 5 1 2 2 false) s (fun t => lane t 5 3 == 0xFFFFFFEE) = true ∧
      after (.vfms G .i32 .rne 5 1 2 2 false) s (fun t => lane t 5 3 == 0xFFFFFFF4) = true ∧
      after (.vabs G .i32 5 1 true) s (fun t => lane t 5 1 == 0x7FFFFFFF && lane t 5 2 == 1) = true ∧
      after (.vchs G .i32 5 1 false) s (fun t => lane t 5 1 == 0x80000000 && lane t 5 3 == 0xFFFFFFFB) = true ∧
      after (.vmin G .i16 5 1 2) s (fun t => lane t 5 0 == 0xFFFFFFFF && lane t 5 3 == 0xFFFFFFFD) = true ∧
      after (.vmax G .n32 5 1 2) s (fun t => lane t 5 2 == 0xFFFFFFFF) = true ∧
      after (.vclamp G .i32 5 1 2 3) s (fun t => lane t 5 3 == 0 && lane t 5 1 == 0x80000000) = true) ∧
    (after (.vadd G .f32 .rne 5 1 2 false) s (fun t => lane t 5 4 == 0x40800000 && lane t 5 5 == 0x7FC00000 && lane t 5 6 == 0x7FC00000 &&
        t.sl.fpstat &&& fNV != 0) = true ∧
      after (.vsub G .f32 .rne 5 2 1 false) s (fun t => lane t 5 4 == 0x40000000 && lane t 5 6 == 0x7F800000) = true ∧
      after (.vmul G .f32 .rne 5 1 2 false) s (fun t => lane t 5 4 == 0x40400000) = true ∧
      after (.vfma G .f32 .rne 5 6 2 6 false) s (fun t => lane t 5 4 == 0x40800000 && lane t 5 5 == 0x40000000) = true ∧
      after (.vfms G .f32 .rne 5 6 2 6 false) s (fun t => lane t 5 4 == 0x40000000 && lane t 5 5 == 0) = true ∧
      after (.vmin G .f32 5 1 2) s (fun t => lane t 5 4 == 0x3F800000 && lane t 5 6 == 0xFF800000) = true ∧
      after (.vmax G .f32 5 1 2) s (fun t => lane t 5 4 == 0x40400000) = true ∧ after (.vclamp G .f32 5 1 6 2) s (fun t => lane t 5 4 == 0x3F800000) = true ∧
      after (.vabs G .f32 5 1 false) s (fun t => lane t 5 6 == 0x7F800000) = true ∧ after (.vchs G .f32 5 6 false) s (fun t => lane t 5 0 == 0xBF800000) = true) := by
  decide +kernel

theorem wit_VectorLogicMovesAndCompares :
    let s := vec16
    (grant s ≠ 0 ∧ drainPending s [1, 2] = false ∧ anyActive s G = true ∧ (s.getS 2).toNat < grant s ∧ grant s ≤ (s.getS 9).toNat) ∧
    (after (.vand G .i32 5 1 2) s (fun t => lane t 5 0 == 1 && lane t 5 3 == 5) = true ∧ after (.vor G .i32 5 1 2) s (fun t => lane t 5 3 == 0xFFFFFFFD) = true ∧
      after (.vxor G .n8 5 1 2) s (fun t => lane t 5 2 == 0xFD) = true ∧ after (.vshl G .i32 5 1 2 true 31) s (fun t => lane t 5 3 == 0x80000000) = true ∧
      after (.vshl G .i8 5 1 2 true 31) s (fun t => lane t 5 3 == 0xFFFFFF80) = true ∧ after (.vshr G .n32 5 1 2 false 0) s (fun t => lane t 5 0 == 0x3FFFFFFF) = true ∧
      after (.vsar G .i32 5 1 2 false 0) s (fun t => lane t 5 2 == 0xFFFFFFFF && lane t 5 1 == 0x80000000) = true ∧
      after (.vsel G .i32 5 1 2 1) s (fun t => lane t 5 0 == 0x7FFFFFFF && lane t 5 1 == 0x80000000 && lane t 5 3 == 0xFFFFFFFD) = true ∧
      after (.vsplat G .i16 5 3) s (fun t => lane t 5 15 == 0xFFFFDEF0) = true) ∧
    (after (.vmov G .i32 5 1 0) s (fun t => lane t 5 4 == 0x3F800000) = true ∧ after (.vmov G .i32 5 1 1) s (fun t => lane t 5 0 == 1 && lane t 5 1 == 0) = true ∧
      after (.vmov G .n8 2 2 2) s (fun t => maskBit t 2 0 && !maskBit t 2 1) = true ∧ after (.vmov G .i32 2 1 3) s (fun t => maskBit t 2 0 && !maskBit t 2 1) = true ∧
      after (.vext G .i32 5 1 2) s (fun t => t.getS 5 == 1) = true ∧ after (.vext M1 .i32 5 1 2) s (fun t => t.getS 5 == 0) = true ∧
      after (.vins G .n8 5 3 2) s (fun t => lane t 5 7 == 0xF0 && lane t 5 6 == 0) = true ∧ after (.vext G .i32 5 1 9) s stoppedBy = true ∧
      after (.vins G .i32 5 1 9) s stoppedBy = true) ∧
    (anyActive s M1 = true ∧
      after (.vcmp G .i32 1 1 2 .set) s (fun t => (List.range 4).map (maskBit t 2) == [false, false, true, false] && maskBit t 3 1 && !maskBit t 3 0) = true ∧
      after (.vcmp G .n32 1 1 2 .or) s (fun t => (List.range 4).map (maskBit t 2) == [false, false, false, true]) = true ∧
      after (.vcmp G .f32 0 1 2 .and) s (fun t => maskBit t 0 4 == maskBit s 0 4 && !maskBit t 1 4) = true ∧
      after (.vcmp M1 .f32 1 1 2 .xor) s (fun t => maskBit t 2 4 && maskBit t 2 6 && !maskBit t 3 5) = true) := by
  decide +kernel

theorem wit_VectorConversionsAndReductions :
    let s := vec16
    (grant s ≠ 0 ∧ drainPending s [1, 2, 6] = false ∧ drainPending s [6, 7, 1] = false ∧ anyActive s G = true) ∧
    (after (.vcvt G .i32 .rne 5 6 .rtz .f32) s (fun t => lane t 5 0 == 1) = true ∧ after (.vcvt G .f32 .rne 5 2 .rne .i32) s (fun t => lane t 5 3 == 0xC0400000) = true ∧
      after (.vmxq G .f32 8 6) s (fun t => t.sl.wait == .none) = true ∧ after (.vmxd G .f32 .rne 8 1) s (fun t => t.sl.wait == .none) = true ∧
      after (.vtern G .f32 5 6 1 true) s (fun t => (lanes8 t 5).all fun x => x == 0 || x == 1 || x == 0xFFFFFFFF) = true ∧
      after (.vtern G .f32 5 6 6 false) s (fun t => (lanes8 t 5).all fun x => x == 0 || x == 1 || x == 0xFFFFFFFF) = true) ∧
    (after (.vred G .i32 .rne 5 1 .add) s (fun t => t.getS 5 == 0xBEC00004) = true ∧ after (.vred M1 .i32 .rne 5 1 .add) s (fun t => t.getS 5 == 0xBEFFFFFE) = true ∧
      after (.vred G .i32 .rne 5 1 .min) s (fun t => t.getS 5 == 0xFFFFFFFF80000000) = true ∧
      after (.vred G .n32 .rne 5 1 .max) s (fun t => t.getS 5 == 0xFFFFFFFF) = true ∧ after (.vred G .f32 .rne 5 6 .add) s (fun t => t.getS 5 == 0x41800000) = true ∧
      after (.vred ⟨2, false⟩ .i32 .rne 5 1 .add) (s.setS 5 9) (fun t => t.getS 5 == 0) = true) := by
  decide +kernel

/-- The strided forms with a stride of 2, of 0 (the highest lane last) and one that misaligns lane 0. -/
theorem wit_VectorMemoryResults :
    let s := vec16
    let k := 2 ^ 52 + 2 ^ 16 + 0x200
    let e : Eng := ⟨0, 0, 5, 1⟩
    (anyActive s M1 = true ∧ (waitParcel s e).2 = true ∧ drainPending (issuedAt s e) [1] = false ∧ lanesCheck s .read 4 [0x208, 0x210] = none ∧
      (lanesXlate s .read 4 [0x208, 0x210] |> fun r => got r fun _ es => es.length == 2) = true) ∧
    (after (.vst M1 .w 1 4 8 (some e)) s (fun t => t.num (k + 8) 4 == 0x7FFFFFFF && t.num (k + 12) 4 == 0 && t.num (k + 16) 4 == 0xFFFFFFFF && semGet t 0 5 == 1)
        = true ∧
      after (.vsts G .h 1 4 11 0 none) s (fun t => t.num k 8 == 0x0005FFFF0000FFFF) = true ∧
      after (.vsts G .h 6 4 0 0 none) s (fun t => t.num k 8 == 0) = true ∧ after (.vsts G .h 1 12 11 0 none) s stoppedBy = true ∧
      after (.vlds G .h 1 12 11 0 none) s stoppedBy = true ∧ lanesCheck s .read 2 [0x203] = some (memTrap 8 .read 0x203)) ∧
    (let q := s.writeNum k 8 0x8877665544332211;
      after (.vld M1 .b 1 4 0 none) q (fun t => lanes8 t 1 == [0x11, 0x80000000, 0x33, 5, 0x55, 0x7FC00000, 0x77, 1]) = true ∧
      after (.vlds G .w 1 4 10 0 none) q (fun t => lane t 1 1 == 0x88776655 && lane t 1 2 == 0) = true) := by
  decide +kernel

theorem wit_LaneClaimsAndSpecialFunctions :
    let p := fun q => { env (laneSlot 0 [(1, 17), (2, 0)] []) [] with pools := [(0, q)] }
    let s := p ⟨256, [], []⟩
    let v := vec16
    (s.guardTrue G = true ∧ grant s = 0 ∧ grant v ≠ 0 ∧
      after (.vclaim G 5 1 true 256) s (fun t => (pool t 0).reqs == [.claim 4 5 32 32 true] && t.sl.wait == .lanes) = true ∧
      after (.vclaim G 5 2 false 0) s (fun t => (pool t 0).reqs == [.claim 4 5 0 16 false]) = true ∧ after (.vclaim G 5 1 true 16) v stoppedBy = true ∧
      after (.vrel G) s (fun t => t.pools == s.pools) = true ∧ after (.vrel G) v (fun t => (pool t 0).reqs == [.back 16] && t.sl.claim.g == 0) = true ∧
      after (.vreneg G 5 1 40) s stoppedBy = true ∧ after (.vreneg G 5 1 40) v (fun t => (pool t 0).reqs == [.reneg 4 5 16 48]) = true) ∧
    (yields (exec (.vlpRequestService 0) (p ⟨240, [.back 16], []⟩)) (fun t => pool t 0 == ⟨256, [], []⟩) = true ∧
      yields (exec (.vlpRequestService 0) (p ⟨32, [.claim 4 5 64 32 true], []⟩)) (fun t => pool t 0 == ⟨0, [], []⟩ && t.getS 5 == 32 && t.sl.claim.g == 32) = true ∧
      yields (exec (.vlpRequestService 0) (p ⟨16, [.claim 4 5 64 32 true], []⟩)) (fun t => (pool t 0).blocked == [.claim 4 5 64 32 true]) = true ∧
      yields (exec (.vlpRequestService 0) (p ⟨16, [.claim 4 5 64 32 false], []⟩)) (fun t => t.getS 5 == 0 && t.sl.claim.g == 0 && (pool t 0).blocked == []) = true) ∧
    (anyActive v M1 = true ∧ drainPending v [6] = false ∧ after (.sfn M1 5 6 .rcp .f32 .rne) v (fun t => t.sl.wait == .sfu && (tget [] t.sfus 0).length == 1 &&
        yields (exec (.sfuReturn 0) t) (fun u => lane u 5 0 == 0x3F800000 && lane u 5 1 == 0 && (tget [] u.sfus 0).isEmpty)) = true ∧
      (match fdec .f32 0x80000000 with | .fin true 0 _ => true | _ => false) = true ∧ sfnElt .rcp .f32 .rne 0x80000000 = (0xFF800000, fDZ) ∧ sfnElt .sqrt .f32 .rne 0x40800000 = (0x40000000, 0) ∧
      sfnElt .sqrt .f32 .rne 0xC0800000 = (0x7FC00000, fNV) ∧ sfnElt .rcp .f32 .rne 0x40000000 = (0x3F000000, 0)) := by
  decide +kernel

/-- R211: 2^0.5 is 1.41421356..., so that 0x3FB504F3 and 0x3FB504F4 are within 1 ulp of it, and their neighbours are not. -/
theorem test_sfn_bound :
    (List.range 4).map (fun k => sfnWithin .exp2 false 1 (-1) (0x3FB504F2 + k)) = [false, true, true, false] := by decide +kernel

/-- A re-negotiation from 16 lanes up to 48 with 20 free and 16 of them given, and down to none; requests behind one that waits. -/
theorem wit_LaneClaims_service :
    let p := fun q => { vec16 with pools := [(0, q)] }
    let none0 := fun q => { env (laneSlot 0 [] []) [] with pools := [(0, q)] };
    yields (exec (.vlpRequestService 0) (p ⟨16, [.reneg 4 5 16 32], []⟩)) (fun t => pool t 0 == ⟨0, [], []⟩ && t.getS 5 == 32 && t.sl.claim.g == 32 &&
        lane t 1 3 == 5 && lane t 1 16 == 0 && lane t 6 15 == 0x3F800000 && lane t 6 31 == 0) = true ∧
      yields (exec (.vlpRequestService 0) (p ⟨0, [.reneg 4 5 0 0], []⟩)) (fun t => pool t 0 == ⟨16, [], []⟩ && t.getS 5 == 0 && t.sl.claim == Claim.none) = true ∧
      yields (exec (.vlpRequestService 0) (p ⟨16, [.reneg 4 5 16 32], [.claim 5 1 32 32 true]⟩)) (fun t => t.sl.claim.g == 16 && (pool t 0).free == 16) = true ∧
      yields (exec (.vlpRequestService 0) (none0 ⟨16, [.claim 4 5 16 16 false], [.claim 5 1 32 32 true]⟩)) (fun t => t.getS 5 == 0 && t.sl.claim.g == 0) = true ∧
      yields (exec (.vlpRequestService 0) (none0 ⟨16, [.claim 4 5 16 16 true], [.claim 5 1 32 32 true]⟩)) (fun t => (pool t 0).blocked.length == 2) = true ∧
      yields (exec (.vlpRequestService 0) (none0 ⟨32, [.claim 4 5 16 16 true], [.claim 5 1 32 32 true]⟩)) (fun t => (t.slot 5).claim.g == 32 && (pool t 0).reqs.length == 1) = true := by
  decide +kernel

/-- `vext` of lane 16 traps with no active lane too; `sfn` of a signalling NaN sets NV; infinities and zeros. -/
theorem wit_Lanes_edges :
    let s := vec16
    let x := fun fn n => sfnElt fn .f32 .rne n;
    (laneForm (.vext ⟨2, false⟩ .i32 5 1 9) = some (⟨2, false⟩, [1], none, some 9) ∧ anyActive s ⟨2, false⟩ = false ∧ grant s ≤ (s.getS 9).toNat ∧
      after (.vext ⟨2, false⟩ .i32 5 1 9) s stoppedBy = true ∧ after (.vext ⟨2, false⟩ .i32 5 1 2) s (fun t => t.sl.wait == .none && t.getS 5 == 0) = true) ∧
    (fdec .f32 0x7F800000 = .inf false ∧ fdec .f32 0xFF800000 = .inf true ∧ (match fdec .f32 0x7F800001 with | .nan sig => sig | _ => false) = true ∧
      (fdec .f32 0 == .fin false 0 (-149)) = true ∧
      x .rcp 0x7F800000 = (0, 0) ∧ x .sqrt 0xFF800000 = (0x7FC00000, fNV) ∧ x .exp2 0xFF800000 = (0, 0) ∧ x .log2 0 = (0xFF800000, fDZ) ∧
      x .cos 0x80000000 = (0x3F800000, 0) ∧ x .tanh 0xFF800000 = (0xBF800000, 0) ∧ x .sigmoid 0 = (0x3F000000, 0) ∧ x .sin 0x7F800001 = (0x7FC00000, fNV)) ∧
    (let r : SfuReq := ⟨4, 5, .rcp, .f32, .rne, [some 0x7F800001, none, some 0]⟩
      let q := { s.setSl { s.sl with wait := .sfu } with sfus := [(0, [r])] };
      yields (exec (.sfuReturn 0) q) (fun t => lane t 5 0 == 0x7FC00000 && lane t 5 1 == 0 && lane t 5 2 == 0x7F800000 && t.sl.fpstat == fNV ||| fDZ) = true) := by
  decide +kernel

/-- 2^24 + 1 in f32 lies half way between two values; 65,535 is beyond f16; 2^-150 is half of the least f32 value. -/
theorem wit_VectorArithmetic_rounding :
    (Rounds .rne false 0x1000001 0 1 0x800000 ∧ Rounds .rup false 0x1000001 0 1 0x800001 ∧ Rounds .rdn true 0x1000001 0 1 0x800001 ∧ Rounds .rtz true 0x1000001 0 1 0x800000 ∧
      Rounds .rne false 3 0 (-2) 12 ∧ Inexact 0x1000001 0 1 ∧ ¬Inexact 0x1000002 0 1) ∧
    (roundTo .f32 .rne false 0x1000001 0 = (0x4B800000, fNX) ∧ roundTo .f32 .rup false 0x1000001 0 = (0x4B800001, fNX) ∧ roundTo .f32 .rne true 3 0 = (0xC0400000, 0) ∧
      roundTo .f16 .rup false 65535 0 = (0x7C00, fOF ||| fNX) ∧ roundTo .f16 .rdn false 65535 0 = (0x7BFF, fNX) ∧ roundTo .f16 .rtz true 65536 0 = (0xFBFF, fOF ||| fNX) ∧
      roundTo .f32 .rne false 1 (-150) = (0, fUF ||| fNX) ∧ roundTo .f32 .rup false 1 (-150) = (1, fUF ||| fNX) ∧ roundTo .bf16 .rne true 0 5 = (0x8000, 0)) ∧
    (addVal .f16 .rne (.inf true) (.inf false) = (0x7E00, fNV) ∧ addVal .f16 .rdn (.fin false 1 0) (.fin true 1 0) = (0x8000, 0) ∧
      addVal .f16 .rne (.fin false 1 0) (.fin true 1 0) = (0, 0) ∧ fmul .bf16 .rne (.inf true) (.fin true 0 0) = (0x7FC0, fNV) ∧
      ffma .f32 .rne (.fin false 3 0) (.fin true 5 0) (.fin false 15 0) = (0, 0) ∧ ffma .f32 .rne (.nan false) (.fin true 5 0) (.nan true) = (0x7FC00000, fNV)) := by
  refine ⟨by simp [Rounds, Inexact, roundsAway], by decide +kernel, by decide +kernel⟩

/-- Conversions at the ends of their ranges; a block whose greatest value is 3; a tree of four with an absent leaf. -/
theorem wit_VectorConversionsAndReductions_values :
    (cvtElt .f32 .i32 .rne .rne 0x4F000000 = (0x7FFFFFFF, fNV) ∧ cvtElt .f32 .n8 .rne .rtz 0xBF000000 = (0, fNX) ∧ cvtElt .f32 .i8 .rne .rne 0x7FC00000 = (0, fNV) ∧
      cvtElt .i32 .f32 .rup .rne 0x1000001 = (0x4B800001, fNX) ∧ cvtElt .i32 .i8 .rne .rne 300 = (127, fSAT) ∧ cvtElt .i32 .n8 .rne .rne 0xFFFFFFFF = (0, fSAT) ∧
      cvtElt .f32 .bf16 .rne .rne 0xFF800000 = (0xFF80, 0)) ∧
    (mxScale .f32 [0x3F800000, 0x40400000, 0] = 128 ∧ mxScale .f32 [0x3F800000, 0x7F800000] = 255 ∧ mxScale .f32 [0] = 0 ∧ mxElement .f32 128 0x40400000 = (96, 0) ∧
      mxElement .f32 127 0x3FFFFFFF = (127, fSAT ||| fNX) ∧ mxElement .f32 127 0x80000000 = (0, 0) ∧ mxElement .f32 255 0x40400000 = (0, fNV) ∧
      mxValue .f32 .rne 96 128 = (0x40400000, 0) ∧ mxValue .f16 .rne 1 255 = (0x7E00, 0)) ∧
    (reduce .f32 .rne .add [some 0x3F800000, none, some 0x40000000, some 0x40400000] = (0x40C00000, 0) ∧ reduce .f32 .rne .min [none, none] = (0x7F800000, 0) ∧
      reduce .f32 .rne .add [some 0x7F800001, some 0] = (0x7FC00000, fNV) ∧ reduce .f32 .rne .add [none] = (0, 0) ∧ wordN (reduce .i8 .rne .min [some 5, some 0xFF]).1 = -1) := by
  decide +kernel

/-! ## Matrix engines -/

/-- A row field: one row to row 3, of 64 elements, added to the old cells. -/
def row1 : RowSpec := ⟨0, 3, true, true, true, 0⟩

/-- A machine whose slot has 64 lanes and addresses in WS and CSP, with this engine. -/
def withTme (e : Tme) : State :=
  let s := env (laneSlot 64 [(1, 0x200000), (2, 0x800000), (3, 0x140), (4, 0x200040), (5, 0x200010), (7, 0x201000)] []) [];
  { s with clusters := [(0, { Cluster.init with launch := some 7, allocs := [⟨0, 16, 0, 0, 0, true, 7⟩] })], tmes := [(0, e)] }

/-- An operation with SEQ 7. -/
def tmeOp (k : TmeKind) (started : Bool) : TmeOp := ⟨7, 36, 1, 4, 1, k, ⟨false, 0x3EC, false⟩, .none, ⟨0, 0, 5, 1⟩, started, 0, [], none, 0, [], [], .none⟩

/-- An engine whose latch A holds bytes 121 = 1 + 3 + 9 + 27 + 81, five trits of 1 each, with an operation. -/
def tme1 (k : TmeKind) (started hlt : Bool) : Tme :=
  { Tme.init with
    la := ⟨true, false, 0x200000, 0, 0, false, 0, List.replicate 4096 121⟩, halt := hlt, ops := [tmeOp k started]
    acc := [(16 + 3, List.replicate 64 ⟨5, true⟩)] }

theorem wit_MatrixAcceptance :
    let s := withTme { Tme.init with seq := 0xFFFF }
    let full := withTme { Tme.init with ops := (List.range 8).map fun i => { tmeOp .swap false with seq := BitVec.ofNat 16 i } }
    let e : Eng := ⟨0, 0, 5, 1⟩
    let ok := fun (i : Instr) (f : TmeOp → Bool) => after i s (fun t => let x := t.tme 0; x.ops.length == 1 && x.ops.all (fun o => o.seq == 0xFFFF && f o) && x.seq == 0 &&
      t.sl.wait == .none) = true ∧ after i full (fun t => t.sl.wait == .poll) = true
    (s.guardTrue G = true ∧ isCompute s.myCore = true ∧ (waitParcel s e).2 = true ∧ (s.tme 0).ops.length < 8 ∧ 8 ≤ (full.tme 0).ops.length ∧
      operandChecks s [(0x200000, .read)] [[⟨0x200000, 4288, .read, true⟩]] = none) ∧
    (ok (.mlw G 1 true true e) (fun o => o.sets == .act true && o.maj == 36) ∧ ok (.mrun G 0 1 2 row1 e) (fun o => o.kind == .run 0x200000 64 none row1) ∧
      ok (.mrunq G 1 2 row1 true e) (fun o => o.kind == .runq 2 (some 1) row1) ∧ ok (.mrunq G 1 2 row1 false e) (fun o => o.kind == .runq 2 none row1) ∧
      ok (.mdrain G 6 4 3 3 true false e) (fun o => o.kind == .drain false 3 3 true none (2 ^ 53 + 64)) ∧
      ok (.mdrs G 6 4 3 3 true true e) (fun o => o.kind == .drain true 3 3 true (some 6) 0)) ∧
    (ok (.mclr G 3 e) (fun o => o.kind == .clear 3) ∧ ok (.mswap G true true e) (fun o => o.sets == .act true) ∧ ok (.mswap G true false e) (fun o => o.sets == .flip) ∧
      ok (.mpass G 1 7 0 2 3 e) (fun o => o.kind == .pass (2 ^ 53) (2 ^ 53 + 0x1000) 0 4 3) ∧ ok (.mcfg G 4 true false true 0x3EC) (fun o => o.sets == .cfg true 0x040) ∧
      ok (.mcfg G 4 true true false 0x3EC) (fun o => o.kind == .cfg true && o.sets == .cfg true 0x3EC) ∧
      ok (.msave G 1 2 e) (fun o => o.kind == .save 2 (2 ^ 53)) ∧ ok (.mrest G 1 1 e) (fun o => o.kind == .rest 1 (2 ^ 53))) ∧
    ((s.getS 5).toNat % 64 ≠ 0 ∧ after (.mrun G 0 5 2 row1 e) s stoppedBy = true ∧ (s.getS 5).toNat % 64 ≠ 0 ∧
      after (.mrun G 5 1 2 { row1 with nrow := 1 } e) s stoppedBy = true ∧ after (.mlw G 5 true true e) s stoppedBy = true ∧
      after (.mdrs G 6 4 3 3 true true e) (s.setSl { s.sl with claim := Claim.none }) stoppedBy = true) := by
  decide +kernel

/-- A row of 320 elements to row 3. -/
def row2 : RowSpec := { row1 with tr := false }

/-- `mrun` of one row at WS address 0x200000. -/
def run1 : TmeKind := .run 0x200000 320 none row2

/-- A machine with such an engine, whose first row begins with the elements 1, 2, −1 and 4. -/
def runState (k : TmeKind) (started hlt : Bool) : State :=
  { withTme (tme1 k started hlt) with mem := Memory.puts [] (2 ^ 53) [1, 2, 0xFF, 4] }

/-- What the event of the engine's only operation leaves. -/
def completes (s : State) (f : State → Bool) : Bool := yields (exec (.tmeOperationComplete 0 0) s) f
def starts (s : State) (f : State → Bool) : Bool := yields (exec (.tmeOperationStart 0) s) f

/-- A unit of work of an operation of the engine. -/
def unitOf (s : State) (o : TmeOp) (f : State → TmeOp → TmeEnd → Bool) : Bool := let r := tmeUnit s 0 o; f r.1 r.2.1 r.2.2

/-- Starts: a halted engine skips, an empty latch and a column that is not one-hot fault, `mcfg` that clears the fault starts. -/
theorem wit_MatrixOperations_starts :
    (tmeNext (tme1 run1 false false) = some 0 ∧ engHalted (withTme (tme1 run1 false false)) 0 = false ∧ run1.reads = true ∧
      starts (withTme (tme1 run1 false false)) (fun t => (t.tme 0).ops.map (·.started) == [true]) = true ∧
      starts (withTme (tme1 run1 false true)) (fun t => (t.tme 0).ops == [] && t.net.length == 1) = true ∧
      starts (withTme { tme1 run1 false false with la := Latch.init }) (fun t => (t.tme 0).halt && (t.tme 0).fcode == 2) = true ∧
      starts (withTme (tme1 (.pass 0 0 0 1 0) false false)) (fun t => (t.tme 0).halt && (t.tme 0).fcode == 3) = true ∧
      starts (withTme (tme1 (.runq 0 (some 1) row1) false false)) (fun t => (t.tme 0).fcode == 8 && (t.tme 0).detail == 1) = true ∧
      starts (withTme (tme1 (.cfg true) false true)) (fun t => (t.tme 0).ops.map (·.started) == [true]) = true ∧
      starts (withTme (tme1 (.load true (2 ^ 53) 0x200000) false false)) (fun t => (t.tme 0).lb.loading && (t.tme 0).ops.map (·.rows) == [1]) = true) ∧
    (let e := tme1 (.pass 0 0 0 1 0) false false;
      starts (withTme { e with la := { e.la with oneh := true } }) (fun t => !(t.tme 0).halt && (t.tme 0).ops.map (·.started) == [true]) = true) := by
  decide +kernel

/-- A row of elements 1, 2, −1, 4 and zeros: by trits all 1 the cells go from 5 to 11; a lost latch, a lost cell and a freed row end it; ENGHALT holds it; a guard parks it. -/
theorem wit_MatrixOperations_run :
    let s := runState run1 true false
    let o := tmeOp run1 true
    ((s.tme 0).ops[0]? = some o ∧ (s.tme 0).resume = [] ∧ engHalted s 0 = false ∧ engParks s 0 o.wait (2 ^ 53) 320 = false ∧ readFault s o 0 (2 ^ 53) 320 = none ∧
      s.anyLost [latchWord 0 false] = false ∧ s.anyLost (rowWords 0 true 3) = false ∧
      completes s (fun t => (t.tme 0).ops == [] && semGet t 0 5 == 1 && ((t.tme 0).row true 3).getD 63 Cell.zero == ⟨11, true⟩ &&
        ((t.tme 0).row false 3).getD 0 Cell.zero == Cell.zero) = true) ∧
    (completes { s with lost := [latchWord 0 false] } (fun t => (t.tme 0).fcode == 5 && (t.tme 0).detail == 3) = true ∧
      completes { s with lost := [accWord 0 true 3 7] } (fun t => (t.tme 0).fcode == 5 && (t.tme 0).detail == 4) = true ∧
      completes { s with lost := [2 ^ 50] } (fun t => (t.tme 0).fcode == 5 && (t.tme 0).detail == 0) = true ∧
      unitOf s { o with freed := [(2 ^ 53 + 63, 1)] } (fun _ _ x => x == .fault 9 0 0) = true) ∧
    (let g := s.setCluster 0 { s.cluster 0 with guards := [⟨2 ^ 53, 64, 2 ^ 54, 0⟩] };
      tmeParked g 0 o = some (2 ^ 53, 320) ∧ completes g (fun t => (t.tme 0).ops.map (·.wait) == [.parked g.older.age (2 ^ 53) 320]) = true) ∧
    (let q := { s with enghalt := [(1, true)], engStop := [] };
      engHalted q 0 = true ∧ completes q (fun t => (t.tme 0).ops.map (·.rows) == [0] && t.net.isEmpty && semGet t 0 5 == 0) = true) := by
  decide +kernel

/-- Entries of an input queue of core 1: 40 make a row of INT8 elements, 42 one of MXINT8; a control value between rows ends `mrunq`, one inside a row is a fault. -/
theorem wit_MatrixOperations_runq :
    let o := { tmeOp (.runq 2 none row2) true with got := List.replicate 40 0x0101010101010101 }
    let mx := { o with got := List.replicate 40 0x0101010101010101 ++ [0x8685, 0], conf := ⟨true, 0, false⟩ }
    let s := withTme (tme1 (.runq 2 none row2) true false)
    let port := fun (c : Bool) => setPortQueue s (4 * 1 + 2) ⟨[⟨7, c⟩], []⟩;
    (unitOf s o (fun t x e => e == .more && x.rows == 1 && x.got == [] && ((t.tme 0).row true 3).getD 0 Cell.zero == ⟨325, true⟩) = true ∧
      mx.got.length = 42 ∧ s.anyLost [latchWord 0 false] = false ∧ s.anyLost (rowWords 0 true 3) = false ∧
      cellAfter true 0 (some [133, 134]) (List.replicate 64 1) (List.replicate 64 1) ⟨5, true⟩ = (⟨5 + 32 * 1 + 32 * 2, true⟩, false) ∧
      cellAfter false 0 (some [132, 255]) (List.replicate 64 1) (List.replicate 33 1 ++ List.replicate 31 (-1)) ⟨5, true⟩ = (⟨16, true⟩, false)) ∧
    (unitOf (port false) { o with got := [] } (fun t x e => e == .more && x.got == [7] && (portQueue t 6).entries.isEmpty) = true ∧
      unitOf (port true) { o with got := [] } (fun _ _ e => e == .done) = true ∧ unitOf (port true) { o with got := [7] } (fun _ _ e => e == .fault 4 0 0) = true ∧
      unitOf s { o with got := [] } (fun _ _ e => e == .stall) = true ∧
      unitOf { port false with lost := [portWord 6] } { o with got := [] } (fun _ _ e => e == .fault 5 5 0) = true ∧
      unitOf (port false) { o with got := [], fwd := some (9, none) } (fun _ x e => e == .more && x.fwd == some (9, some 7)) = true ∧
      unitOf s { o with fwd := some (9, some 7) } (fun t x e => e == .more && x.fwd == some (9, none) && (portQueue t 9).landing.length == 1) = true ∧
      unitOf s { o with got := [], rows := 1 } (fun _ _ e => e == .done) = true) := by
  decide +kernel

/-- Drains of 3 × 2^−20 and of a NaN to WS and to a vector register, `mpass` by columns whose only trit is at k = 0, and the pieces of `msave` and `mrest`. -/
theorem wit_MatrixOperations_moves :
    let s0 := runState run1 true false
    let e := { s0.tme 0 with acc := [(16 + 3, ⟨3, false⟩ :: List.replicate 63 ⟨3, true⟩)],
                             la := { (s0.tme 0).la with oneh := true, data := (List.replicate 64 (1 :: List.replicate 63 0)).flatten } }
    let s := s0.setTme 0 e
    let d := fun v => tmeOp (.drain true 0 3 true v (2 ^ 53 + 0x1000)) true;
    s.memOk = true ∧ (e.row true 3).length = 64 ∧
      unitOf s (d none) (fun t x r => r == .more && x.rows == 1 && t.num (2 ^ 53 + 0x1000) 8 == 0x7FC0000036400000 && ((t.tme 0).row true 3).getD 0 Cell.zero == Cell.zero) = true ∧
      unitOf s (d (some 6)) (fun t _ r => r == .more && lane t 6 0 == 0x36400000 && lane t 6 63 == 0x7FC00000) = true ∧
      unitOf s { d none with freed := [(2 ^ 53 + 0x10FF, 1)] } (fun _ _ r => r == .fault 9 1 0) = true ∧
      unitOf s { d none with rows := 1 } (fun _ _ r => r == .done) = true ∧
      unitOf s (tmeOp (.pass (2 ^ 53 + 0x1000) (2 ^ 53) 0 1 0) true) (fun t _ r => r == .more && t.num (2 ^ 53 + 0x1000) 8 == 0x0101010101010101) = true ∧
      unitOf s { tmeOp (.save 1 (2 ^ 53 + 0x2000)) true with rows := 24 } (fun t _ r => r == .more && t.num (2 ^ 53 + 0x2600) 8 == 3 && t.num (2 ^ 53 + 0x2608) 8 == 2 ^ 63 + 3) = true ∧
      unitOf s { tmeOp (.rest 1 (2 ^ 53 - 64 * 8)) true with rows := 8 } (fun t _ r => r == .more && ((t.tme 0).row true 1).getD 0 Cell.zero == ⟨0x04FF0201, false⟩) = true := by
  decide +kernel

/-- The state block: bad fields from the lowest offset, and a block of two latches of which A is to be reloaded; `mclr`, `mswap` and `mcfg`; a load of a record that is none. -/
theorem wit_MatrixOperations_state :
    let k := 2 ^ 53 + 0x1000
    let o := tmeOp (.rest 2 k) true
    let block := fun (l : List Byte) => { withTme (tme1 (.rest 2 k) true false) with mem := Memory.puts [] k l };
    (unitOf (block [2, 7]) o (fun _ _ r => r == .fault 7 0 0) = true ∧ unitOf (block [1, 0, 0, 2]) o (fun _ _ r => r == .fault 7 2 0) = true ∧
      unitOf (block [0, 0, 0, 0, 2, 0, 0, 0, 8]) o (fun _ _ r => r == .fault 7 8 0) = true ∧ unitOf (block (List.replicate 63 0 ++ [1])) o (fun _ _ r => r == .fault 7 32 0) = true ∧
      unitOf (block [1, 1, 0xFF, 1, 0, 0, 1]) o (fun t x r => r == .more && x.rows == 1 && (t.tme 0).conf == ⟨true, 0x1FF, true⟩ && (t.tme 0).movf && !(t.tme 0).la.loaded) = true) ∧
    (let w : List Word := [0x0000000200000000, 0x200000, 0, 0, 0, 0, 0, 0];
      unitOf (block []) { o with rows := 1, got := w } (fun t x r => r == .more && x.rows == 2 && (t.tme 0).la.loading) = true ∧
      unitOf (block []) { o with rows := 2, got := w } (fun t _ r => r == .fault 1 1 0 && !(t.tme 0).la.loading) = true ∧
      unitOf (block []) { o with rows := 3, got := w } (fun _ x r => r == .more && x.rows == 5) = true ∧ unitOf (block []) { o with rows := 5, got := w } (fun _ _ r => r == .done) = true ∧
      unitOf (block []) (tmeOp (.save 2 k) true) (fun t _ r => r == .done && t.num k 8 == 0x0000000203EC0000 + 0xFC00000000 * 0 + 0xFC000000 && t.num (k + 8) 8 == 0x200000) = true) ∧
    (let w := fun q hlt => unitOf (withTme (tme1 q true hlt)) (tmeOp q true);
      w (.clear 2) false (fun t _ r => r == .done && (t.tme 0).row true 3 == List.replicate 64 Cell.zero) = true ∧
      w (.cfg true) true (fun t _ r => r == .done && !(t.tme 0).halt) = true ∧ w (.cfg false) true (fun t _ r => r == .done && (t.tme 0).halt) = true ∧
      w .swap false (fun _ _ r => r == .done) = true ∧ w (.load true (2 ^ 53) 0x200000) false (fun t x r => r == .more && x.rows == 1 && (t.tme 0).lb.loading) = true ∧
      unitOf (withTme (tme1 (.load true (2 ^ 53) 0x200000) true false)) { tmeOp (.load true (2 ^ 53) 0x200000) true with rows := 1 } (fun _ _ r => r == .fault 1 1 0) = true) := by
  decide +kernel

/-- A head that reads the destination of a drain waits, with no active lane as with some (R188). -/
theorem wit_Lanes_drain :
    let s := withTme (tme1 (.drain false 0 3 true (some 6) 0) true false)
    drainPending s [6] = true ∧ anyActive s ⟨2, false⟩ = false ∧ after (.vadd ⟨2, false⟩ .i32 .rne 5 6 6 false) s (fun t => t.sl.wait == .poll) = true ∧
      after (.vadd G .i32 .rne 5 6 6 false) s (fun t => t.sl.wait == .poll) = true ∧ drainPending s [5] = false := by
  decide +kernel

/-- While an `mrest` of the state block waits, `mrun` records its scales in INT8 mode too; a store that another slot of the core has retired is performed first. -/
theorem wit_MatrixAcceptance_pending :
    let e : Eng := ⟨0, 0, 5, 1⟩
    let s := withTme { Tme.init with ops := [{ tmeOp (.rest 2 (2 ^ 53)) false with seq := 3 }] }
    let q := s.setSlot 5 { regs [] with sq := [(2 ^ 52 + 2 ^ 16, 0, [9])] };
    s.guardTrue G = true ∧ operandChecks s [] [[⟨0x800000, 2, .read, false⟩]] = none ∧
      after (.mrun G 0 1 2 row1 e) s (fun t => (t.tme 0).ops.map (·.kind) == [.rest 2 (2 ^ 53), .run 0x200000 64 (some 0x800000) row1]) = true ∧
      after (.mclr G 3 e) q (fun t => (t.slot 5).sq.isEmpty && t.num (2 ^ 52 + 2 ^ 16) 1 == 9) = true := by
  decide +kernel

/-- A row in MXINT8 mode for which no scales were recorded goes on with free ones; a lost operand is reported after a freed one. -/
theorem wit_MatrixOperations_order :
    let o := { tmeOp run1 true with conf := ⟨true, 0, false⟩ }
    let s := runState run1 true false
    let lost : State := { s with lost := [2 ^ 50] };
    unitOf s o (fun t x e => e == .more && x.rows == 1 && t.free == s.free + 1) = true ∧
      unitOf lost { o with freed := [(2 ^ 53 + 63, 1)] } (fun _ _ e => e == .fault 9 0 0) = true ∧
      starts (withTme { tme1 (.runq 0 (some 1) row1) false false with la := Latch.init }) (fun t => (t.tme 0).fcode == 2) = true := by
  decide +kernel

/-- A parked operation behind an older parked read of the cluster stays parked when its region opens. -/
theorem wit_MatrixOperations_parked :
    let o := { tmeOp run1 true with wait := .parked 5 (2 ^ 53) 320 }
    let s := (runState run1 true false).setSlot 9 { regs [] with wait := .parked 3 (2 ^ 53) 8 0 };
    parkedOlder s 0 5 = true ∧ tmeParked s 0 o = some (2 ^ 53, 320) ∧ tmeParked (s.setSlot 9 (regs [])) 0 o = none ∧
      (let q := s.setTme 0 { s.tme 0 with ops := [o] }; completes q (fun t => (t.tme 0).ops.map (·.wait) == [.parked 5 (2 ^ 53) 320]) = true) := by
  decide +kernel

/-! ## Semaphores, ports and rings -/

/-- Semaphore 5 of tile 0 holds `v`. -/
def semOn (v : Nat) (l : Slot) : State := { env l [] with tiles := [(0, { Tile.init with sem := [(5, BitVec.ofNat 16 v)] })] }

theorem wit_Semaphores :
    let r := regs [(1, 65535), (2, 65536)]
    let s := semOn 5 r
    let two := ((semOn 3 r).setSlot 6 { r with wait := .sem 5 6 2 }).setSlot 1 { r with wait := .sem 5 4 3 }
    (s.guardTrue G = true ∧ s.guardTrue M1 = false ∧ after (.swt G 5 0) s (fun t => semGet t 0 5 == 5) = true ∧
      after (.swt G 5 5) s (fun t => semGet t 0 5 == 0 && t.sl.wait == .none) = true ∧
      after (.swt G 5 6) s (fun t => t.sl.wait == .sem 5 6 1) = true ∧
      after (.swt G 5 6) (s.setSl { r with taken := some (5, 6) }) (fun t => t.sl.wait == .none && t.sl.taken == none) = true ∧
      after (.ssig M1 5 3) s (fun t => semGet t 0 5 == 8) = true ∧ after (.srd G 9 5) s (fun t => t.getS 9 == 5) = true ∧
      after (.sset G 9 1 5) s (fun t => semGet t 0 5 == 65535 && t.getS 9 == 5 && !(t.tile 0).semSat) = true ∧
      after (.sset G 9 2 5) s (fun t => semGet t 0 5 == 65535 && (t.tile 0).semSat && (t.tile 0).semFirst == 5) = true) ∧
    (semWaiters s 0 = [] ∧ semGet (semSignal (semOn 65535 r) 0 5 1) 0 5 = 65535 ∧ ((semSignal (semOn 65535 r) 0 5 1).tile 0).semFirst = 5 ∧
      semGet (semSignal (semOn 65534 r) 0 5 1) 0 5 = 65535 ∧ ((semSignal (semOn 65534 r) 0 5 1).tile 0).semSat = false) ∧
    (let one := fun n => (semOn 3 r).setSlot 6 { r with wait := .sem 5 n 1 }
      let after3 := fun n => semTested (semSignal (one n) 0 5 3) 0;
      semWaiters (one 6) 0 = [(1, 6, 5, 6)] ∧ (semSignal (one 6) 0 5 3).slots = (one 6).slots ∧ ((semSignal (one 6) 0 5 3).tile 0).upd = 3 ∧
      (tick (semSignal (one 6) 0 5 3)).cc = 0 ∧ semGet (after3 6) 0 5 = 0 ∧ ((after3 6).slot 6).taken = some (5, 6) ∧
      semGet (after3 7) 0 5 = 6 ∧ ((after3 7).slot 6).wait = .sem 5 7 1 ∧
      after (.srd G 9 5) { one 6 with tiles := [(0, { (one 6).tile 0 with sem := [(5, 6)], upd := 3 })] } (fun t => t.getS 9 == 0 && (t.slot 6).taken == some (5, 6)) = true) ∧
    (semWaiters two 0 = [(3, 1, 5, 4), (2, 6, 5, 6)] ∧
      (let x := semTested (semSignal (semSignal two 0 5 1) 0 5 4) 0; semGet x 0 5 = 2 ∧ (x.slot 6).taken = some (5, 6) ∧ (x.slot 1).wait = .sem 5 4 3) ∧
      (let y := semTested (semSignal two 0 5 1) 0; semGet y 0 5 = 0 ∧ (y.slot 6).wait = .sem 5 6 2 ∧ (y.slot 1).taken = some (5, 4))) := by
  decide +kernel

/-- Queue 2 of core 1. -/
def portOn (l : Slot) (q : List PortEntry) (lnd : List (Nat × PortEntry)) (dir : Nat) : State :=
  (env l []).setCore 1 { CoreSt.init with q := (Vector.replicate 4 ⟨[], []⟩).set 2 ⟨q, lnd⟩, linkdir := BitVec.ofNat 32 dir }

theorem wit_QueuePorts :
    let r := regs [(1, 77)]
    let s := portOn r [⟨8, false⟩, ⟨7, true⟩] [(3, ⟨9, true⟩)] 0x05050505
    let c := fun l => portOn l [⟨8, true⟩] [] 0x05050505
    (s.guardTrue G = true ∧ after (.qportRead G 9 0) s (fun t => t.sl.wait == .port 0) = true ∧
      after (.qportRead G 9 2) s (fun t => t.getS 9 == 8 && (portQueue t 6).entries == [⟨7, true⟩]) = true ∧
      after (.qportRead G 9 2) (c { r with lhact := true, lhvec := codeVa }) stoppedBy = true ∧ after (.qportRead G 9 2) (c r) stoppedBy = true ∧
      after (.qportRead G 9 2) (c { r with lhvec := codeVa }) (fun t => t.sl.pc == codeVa && t.sl.lhact && t.sl.lhval == 8 && (portQueue t 6).entries == []) = true) ∧
    (portTarget (portOn r [] [] 0) 1 2 = none ∧ after (.qportWrite G 9 1 2) (portOn r [] [] 0) stoppedBy = true ∧ after (.qctl G 2 1) (portOn r [] [] 0) stoppedBy = true) ∧
    (let k := (portTarget s 1 2).getD 0;
      let y := portQueue s k;
      let u := setPortQueue s k { y with entries := List.replicate (16 - y.landing.length) ⟨1, false⟩ };
      (portTarget s 1 2).isSome = true ∧ pushAge s s.cur k = none ∧ olderPush s (some s.cur) k (s.age + 1) = false ∧ y.entries.length + y.landing.length < 16 ∧
        after (.qportWrite G 9 1 2) s (fun t => (portQueue t k).landing == y.landing ++ [(1, ⟨77, false⟩)] && t.getS 9 == 0) = true ∧
        after (.qctl G 2 1) s (fun t => (portQueue t k).landing == y.landing ++ [(1, ⟨77, true⟩)]) = true ∧
        16 ≤ (portQueue u k).entries.length + (portQueue u k).landing.length ∧ after (.qctl G 2 1) u (fun t => t.sl.wait == .push k (s.age + 1)) = true) ∧
    (yields (exec (.queueEntryLanding 1) { s with sel := 2 }) (fun t => portQueue t 6 == ⟨[⟨8, false⟩, ⟨7, true⟩, ⟨9, true⟩], []⟩) = true ∧
      yields (exec (.queueEntryLanding 1) { s with sel := 3 }) (fun t => portQueue t 7 == ⟨[], []⟩) = true ∧
      after (.qstat G 9 2) s (fun t => (t.getS 9).toNat % 64 == 2 && (t.getS 9).toNat / 2048 == 1) = true ∧
      after (.qdir G 9 2 4 3) s (fun t => linkByte t 1 2 == 28 && t.getS 9 == 5 && linkByte t 1 1 == 5) = true ∧
      after (.qflush G 4) s (fun t => portQueue t 6 == ⟨[], [(3, ⟨9, true⟩)]⟩) = true) := by
  decide +kernel

/-- What an instruction leaves, where it answers a next state. -/
def next (i : Instr) (s : State) : State := match exec i s with | .next t => t | _ => s

/-- A ring of three slots of 64 bytes at CSP 0x801000 and a stage ring of three stages and two roles at 0x801100. -/
theorem wit_RingInstructions :
    let s := memEnv [(1, 0x801000), (2, 0x801800), (3, 0x801840), (4, 0x801100), (5, 0x20), (6, 1), (7, 0x8017C0)]
    let k := 2 ^ 54 + 0x1000
    let r1 := next (.rbinit G 1 2 2 0) s
    let r2 := next (.rbacq G 9 1 2 true) r1
    let r3 := next (.rbpub G 1 2 2) r2
    (s.guardTrue G = true ∧ s.memOk = true ∧ rangeAddress s s.cur .write 0x801000 128 = none ∧ spanAccess s 0x801000 128 = none ∧ rangeAddress s s.cur .write 0x801800 192 = none ∧
      spanAccess s 0x801800 192 = none ∧ ringAt r1 k = ⟨0x801800, 3, 64, 3, 0, 0, 0, 0, 0, 0, true, 0, 0⟩ ∧ got (headerKey r1 0x801000 128) (fun _ x => x == k) = true) ∧
    ((ringAt s k).ok = false ∧ after (.rbacq G 9 1 1 true) s stoppedBy = true ∧ (ringAt r1 k).ok = true ∧ after (.rbtake G 9 1 4 true) r1 stoppedBy = true ∧
      olderRing r1 (some r1.cur) k 0 (myRingAge r1 k 0).2 = false ∧ r2.getS 9 = 0x801800 ∧ (ringAt r2 k).acq = 2 ∧
      after (.rbacq G 9 1 2 true) r2 (fun t => t.getS 9 == 0) = true ∧ after (.rbacq G 9 1 2 false) r2 (fun t => t.sl.wait == .ring k 0 (myRingAge r2 k 0).2) = true ∧
      after (.rbtake G 9 1 1 true) r2 (fun t => t.getS 9 == 0) = true ∧ after (.rbtake G 9 1 2 true) r3 (fun t => t.getS 9 == 0x801800 && (ringAt t k).take == 2) = true ∧
      (ringAt r2 k).slotAt 0x801800 = some 0 ∧ (ringAt r3 k).filled = 2 ∧ (ringAt r2 k).slotAt 0x8017C0 = none ∧ after (.rbpub G 1 7 1) r2 stoppedBy = true ∧
      after (.rbrel G 1 2 1) r3 stoppedBy = true ∧ after (.rbrel G 1 2 1) (next (.rbtake G 9 1 1 true) r3) (fun t => (ringAt t k).free == 2) = true) ∧
    (let q : State := { s with mem := Memory.puts s.mem (k + 0x100) ([3, 2, 0, 1] ++ List.replicate 12 0 ++ [0, 0, 0x19, 0, 0, 0]) };
      stageOk q (k + 0x100) = true ∧ stageOk s (k + 0x100) = false ∧ after (.stacq G 9 4 0 true) s stoppedBy = true ∧
      after (.stacq G 9 4 0 true) q (fun t => t.getS 9 == 0 && t.num (k + 0x102) 1 == 1) = true ∧
      after (.stacq G 9 4 1 false) q (fun t => t.getS 9 == 1 && t.num (k + 0x103) 1 == 2) = true ∧ after (.stacq G 9 4 2 true) q stoppedBy = true ∧
      after (.stacq G 9 4 0 true) (q.write (k + 0x102) [1]) (fun t => t.getS 9 == BitVec.allOnes 64) = true ∧
      after (.stacq G 9 4 0 false) (q.write (k + 0x102) [1]) (fun t => t.sl.wait != .none) = true ∧
      after (.strel G 4 6 1) q (fun t => t.num (k + 0x112) 2 == 0x20) = true ∧ after (.strel G 4 0 0) q (fun t => t.num (k + 0x110) 2 == 9) = true ∧
      after (.strel G 4 6 0) q stoppedBy = true ∧ after (.strel G 4 5 0) q stoppedBy = true) := by
  decide +kernel

/-- The states after `rbinit`, `rbacq` of two slots and `rbpub` of them meet the invariant; the ring of one run of all slots is whole. -/
def ring0 : State := next (.rbinit G 1 2 2 0) (memEnv [(1, 0x801000), (2, 0x801800), (3, 0x801840)])
def ring1 : State := next (.rbacq G 9 1 2 true) ring0
def ring2 : State := next (.rbpub G 1 2 2) ring1
def ringAll : State := next (.rbacq G 9 1 3 true) ring0

theorem wit_RingInvariant :
    let k := 2 ^ 54 + 0x1000
    let good := fun s => (ringAt s k).consistent && s.memOk && s.guardTrue G && got (headerKey s (s.getS 1) 128) (fun _ x => x == k) && s.sl.wait == .none;
    good ring0 = true ∧ good ring1 = true ∧ good ring2 = true ∧ good ringAll = true ∧ (ringAt ringAll k).whole = 1 ∧ (ringAt ringAll k).free = 0 ∧
      (ringAt (next (.rbpub G 1 3 1) ringAll) k).pbit = 2 ∧ (ringAt (next (.rbpub G 1 3 1) ringAll) k).whole = 1 ∧
      (let u := next (.rbpub G 1 2 1) (next (.rbpub G 1 3 1) ringAll); (ringAt u k).filled = 2 ∧ (ringAt u k).pub = 2 ∧ (ringAt u k).pbit = 0 ∧ (ringAt u k).whole = 0) := by
  decide +kernel

/-- An older request of another slot goes before `rbacq`; a store that the slot has retired is performed before `rbpub`. -/
theorem wit_RingInstructions_waits :
    let w := ring1.setSl { ring1.sl with sq := [(2 ^ 54 + 0x1800, 0, [7])] }
    let k := 2 ^ 54 + 0x1000
    let o := ring0.setSlot 5 { regs [] with wait := .ring k 0 0 };
    after (.rbpub G 1 2 2) w (fun t => t.sl.sq.isEmpty && t.num (2 ^ 54 + 0x1800) 1 == 7 && (ringAt t k).filled == 2) = true ∧ olderRing o (some 4) k 0 (myRingAge o k 0).2 = true ∧
      after (.rbacq G 9 1 1 true) o (fun t => t.getS 9 == 0) = true ∧ after (.rbacq G 9 1 1 false) o (fun t => t.sl.wait == .ring k 0 (myRingAge o k 0).2) = true := by
  decide +kernel

/-- An oldest entry that is lost stays, and its read is a data-loss fault with an error entry. -/
theorem wit_QueuePorts_lost :
    let s := { portOn (regs []) [⟨8, false⟩] [] 0 with lost := [portWord 6] };
    s.anyLost [portWord (4 * s.myCore + 2)] = true ∧ after (.qportRead G 9 2) s (fun t => stoppedBy t && (portQueue t 6).entries == [⟨8, false⟩] && t.getS 9 == 0) = true ∧
      after (.qportRead G 9 0) s (fun t => t.sl.wait == .port 0) = true := by
  decide +kernel

/-! ## Streams -/

/-- Descriptors in the TCM of core 1: dense, compressed, bitmap, singleton, and one of no kind; positions 1 and 4, coordinates 20, 30 and 90 from entry 1. -/
def fibres : State :=
  let d := fun (a kind pos crd val : Nat) => bytesOf 1 kind ++ bytesOf 1 2 ++ bytesOf 2 0 ++ bytesOf 4 100 ++ bytesOf 8 pos ++ bytesOf 8 crd ++ bytesOf 8 val ++ bytesOf a 0;
  let s := memEnv [(1, 0x200), (2, 0x220), (3, 0x240), (4, 0x260), (5, 0x280), (6, 3), (7, 0x1000), (8, 2), (10, 1)];
  let k := 2 ^ 52 + 2 ^ 16;
  { s with mem := Memory.puts (Memory.puts (Memory.puts s.mem (k + 0x200) (d 0 0 0 0 0x400 ++ d 0 1 0x500 0x540 0x400 ++ d 0 2 0x1000 0 0x400 ++ d 0 3 0 0x540 0 ++ d 0 4 0 0 0))
      (k + 0x400) (bytesOf 4 0 ++ bytesOf 4 0xFFFFFFF0)) (k + 0x500) (bytesOf 4 1 ++ bytesOf 4 4 ++ bytesOf 4 2 ++ bytesOf 52 0 ++ bytesOf 4 10 ++ bytesOf 4 20 ++ bytesOf 4 30 ++ bytesOf 4 90) }

/-- The head of a stream is what is expected. -/
def headIs (s : State) (f : StreamReg) (p : StreamReg → Bool) : Bool := match headOf s f with | .ok _ x => p x | _ => false

/-- Stream 1 is dense with parent 3, stream 2 compressed, stream 3 a singleton. -/
def opened : State := next (.sopen G 3 4 6 0) (next (.sopen G 2 2 0 0) (next (.sopen G 1 1 6 0) fibres))

theorem wit_StreamOpenAndState :
    let s := fibres
    let o := opened
    let z1 : List Byte := [1, 0, 2, 0] ++ bytesOf 4 0 ++ bytesOf 4 100 ++ bytesOf 44 0 ++ [100]
    (s.guardTrue G = true ∧ got (streamLoad s 0x200 32) (fun t n => decide (t = s) && descriptorOk (bytesOf 32 n)) = true ∧
      got (streamLoad s 0x280 32) (fun _ n => !descriptorOk (bytesOf 32 n)) = true ∧ got (streamLoad s 0x504 4) (fun _ n => n == 4) = true ∧
      after (.sopen G 1 1 6 0) s (fun t => strm t 1 == ⟨true, .dense, 2, 100, 0, 0, 0x400, 3, 0, 100, [], 0, false, 0, 0, false⟩) = true ∧
      after (.sopen G 2 2 0 0) s (fun t => strm t 2 == ⟨true, .compressed, 2, 100, 0x500, 0x540, 0x400, 0, 1, 4, [], 0, false, 0, 0, false⟩) = true ∧
      after (.sopen G 2 3 0 0) s (fun t => (strm t 2).kind == .bitmap && (strm t 2).fend == 100) = true ∧
      after (.sopen G 3 4 6 0) s (fun t => (strm t 3).kind == .singleton && (strm t 3).fend == 1) = true ∧
      after (.sopen G 3 5 6 0xFFE0) s (fun t => (strm t 3).kind == .singleton) = true ∧ after (.sopen G 3 5 6 0) s stoppedBy = true) ∧
    ((strm o 1).win = [] ∧ (strm o 1).fc.toNat < (strm o 1).fend.toNat ∧ (strm o 1).fend.toNat ≤ 2 ^ 32 ∧ (strm o 3).fend = 1 ∧
      headIs o (strm o 1) (fun x => x.win.length == 32 && x.win.head? == some (0, 300) && x.fc == 32 && x.lastc == 31) = true ∧
      headIs o { strm o 1 with fc := 99 } (fun x => x.win == [(99, 399)]) = true ∧ headIs o { strm o 1 with fc := 100 } (fun x => x.win == []) = true ∧
      headIs o (strm o 3) (fun x => x.win == [(90, 3)] && x.fc == 1) = true) ∧
    (let z := fun bs => { s with mem := Memory.puts s.mem (2 ^ 52 + 2 ^ 16 + 0x1000) bs };
      (strm o 2).image.length = 640 ∧ leAt (strm o 2).image 0 1 = 1 ∧ StreamReg.init.opened = false ∧
      leAt (strm o 2).image 0 8 = 0x20101 ∧ leAt (strm o 2).image 8 4 = 100 ∧
      got (piecesLoc o .write true 0x1000 10 0) (fun v l => l.length == 10 && got (piecesWrite v (strm v 2).image 0 (l.take 1)) fun w _ =>
        w.num (2 ^ 52 + 2 ^ 16 + 0x1000) 8 == 0x20101) = true ∧
      after (.srest G 2 7) o (fun t => strm t 2 == StreamReg.init) = true ∧ after (.srest G 2 7) (z [2]) stoppedBy = true ∧
      leAt z1 0 1 = 1 ∧ imageFault z1 = none ∧ streamOf z1 = { StreamReg.init with opened := true, esz := 2, dim := 100, fend := 100 }) := by
  decide +kernel

theorem wit_StreamStepsAndValues :
    let o := opened
    let p := next (.snext G 9 2) (next (.snext G 9 1) o)
    let e := next (.sskip G 9 1 7) p
    (o.guardTrue G = true ∧ (strm o 5).opened = false ∧ after (.snext G 9 5) o stoppedBy = true ∧ after (.sdone G 3 5) o stoppedBy = true ∧
      (strm o 1).opened = true ∧ after (.snext G 9 2) o (fun t => t.getS 9 == 20 && (strm t 2).dp == 1 && (strm t 2).dv) = true ∧
      after (.sdone G 3 2) o (fun t => !t.getG 3) = true ∧ (strm e 1).win = [] ∧ after (.sdone G 3 1) e (fun t => t.getG 3) = true ∧
      after (.snext G 9 1) e (fun t => t.getS 9 == BitVec.allOnes 64 && !(strm t 1).dv) = true ∧
      headIs p (strm p 1) (fun x => x.win.head? == some (1, 301)) = true ∧ headIs p (strm p 2) (fun x => x.win.head? == some (30, 2)) = true) ∧
    (after (.sisect G 9 1 2) p (fun t => t.getS 9 == 30 && (strm t 1).dp == 330 && (strm t 2).dp == 2) = true ∧
      after (.sisect G 9 1 2) e (fun t => t.getS 9 == BitVec.allOnes 64 && !(strm t 2).dv) = true ∧
      after (.sisect G 9 2 1) e (fun t => t.getS 9 == BitVec.allOnes 64) = true ∧
      (∃ x ∈ (strm p 1).win, (p.getS 8).toNat ≤ x.1.toNat) ∧ after (.sskip G 9 1 8) p (fun t => t.getS 9 == 2 && (strm t 1).win.head? == some (2, 302)) = true ∧
      after (.sskip G 9 1 10) p (fun t => t.getS 9 == 1) = true) ∧
    (after (.sunion G 9 1 2) p (fun t => t.getS 9 == 0x100000001 && (strm t 1).dv && !(strm t 2).dv) = true ∧
      after (.sunion G 9 2 1) p (fun t => t.getS 9 == 0x200000001) = true ∧ after (.sunion G 9 1 2) e (fun t => t.getS 9 == 0x20000001E) = true ∧
      after (.sunion G 9 1 2) (p.setSl { p.sl with f := p.sl.f.set 2 (strm p 1) }) (fun t => t.getS 9 == 0x300000001) = true ∧
      after (.sunion G 9 1 2) (e.setSl { e.sl with f := e.sl.f.set 2 (strm e 1) }) (fun t => t.getS 9 == BitVec.allOnes 64) = true) ∧
    (after (.scrd G 9 2 11) p (fun t => t.getS 9 == 20 && t.getS 11 == 1) = true ∧ after (.scrd G 9 3 11) p (fun t => t.getS 9 == BitVec.allOnes 64) = true ∧
      (strm p 3).vala = 0 ∧ after (.sval G 9 3 true) p stoppedBy = true ∧ (strm o 2).dv = false ∧ after (.sval G 9 2 true) o (fun t => t.getS 9 == 0) = true ∧
      after (.sval G 9 2 true) p (fun t => t.getS 9 == 0xFFFFFFFFFFFFFFF0) = true ∧ after (.sval G 9 2 false) p (fun t => t.getS 9 == 0xFFFFFFF0) = true ∧
      after (.sclose G 2) p (fun t => strm t 2 == StreamReg.init) = true) := by
  decide +kernel

/-- Positions that go down; a compressed fibre whose third coordinate is not below DIM, or does not increase, keeps the two before it. -/
theorem wit_StreamOpen_faults :
    let s := fibres
    let k := 2 ^ 52 + 2 ^ 16
    let down : State := { s with mem := Memory.puts s.mem (k + 0x508) (bytesOf 4 0) }
    let high : State := { opened with mem := Memory.puts opened.mem (k + 0x54C) (bytesOf 4 100) }
    let same : State := { opened with mem := Memory.puts opened.mem (k + 0x548) (bytesOf 4 20) }
    let faults := fun (t : State) (n : Nat) => match headOf t (strm t 2) with | .fault _ x q _ => x.win.length == n && x.fc == wordN (1 + n) && q == (if n = 2 then 5 else 3) | _ => false;
    (got (streamLoad down 0x504 4) (fun v lo => lo == 4 && got (streamLoad v 0x508 4) fun _ hi => hi == 0) = true ∧ after (.sopen G 2 2 10 0) down stoppedBy = true) ∧
    (headIs opened (strm opened 2) (fun x => x.win == [(20, 1), (30, 2), (90, 3)] && x.fc == 4) = true ∧ faults high 2 = true ∧ faults same 1 = true ∧
      after (.snext G 9 2) high stoppedBy = true) := by
  decide +kernel

/-- A bitmap fibre of DIM 100 with bits 3, 63 and 64 in its first two words; one whose bit 101 is set. -/
theorem wit_StreamOpen_bitmap :
    let k := 2 ^ 52 + 2 ^ 16 + 0x1000
    let s : State := { fibres with mem := Memory.puts fibres.mem k (bytesOf 8 0x8000000000000008 ++ bytesOf 8 1) }
    let o := next (.sopen G 2 3 0 0) s
    let bad : State := { o with mem := Memory.puts o.mem (k + 8) (bytesOf 8 (2 ^ 37)) };
    headIs o (strm o 2) (fun x => x.win == [(3, 3), (63, 63), (64, 64)] && x.fc == 100 && x.lastc == 64) = true ∧
      headIs o { strm o 2 with fc := 65 } (fun x => x.win == [] && x.fc == 100) = true ∧
      (match headOf bad (strm bad 2) with | .fault _ x q _ => x.win == [(3, 3), (63, 63)] && q == 5 | _ => false) = true := by
  decide +kernel

/-- `sskip` beyond the window of a dense stream moves its cursor; on a compressed one it refills; a value beyond the end gives all ones. -/
theorem wit_StreamSteps_skip :
    let p := next (.snext G 9 2) (next (.snext G 9 1) opened)
    let w := fun v => p.setS 11 v;
    (strm (w 50) 1).win.all (fun e => e.1.toNat < 50) = true ∧ after (.sskip G 9 1 11) (w 50) (fun t => t.getS 9 == 50 && (strm t 1).win.head? == some (50, 350)) = true ∧
      after (.sskip G 9 1 11) (w 99) (fun t => t.getS 9 == 99 && (strm t 1).win.length == 1) = true ∧
      after (.sskip G 9 1 11) (w 100) (fun t => t.getS 9 == BitVec.allOnes 64) = true ∧
      after (.sskip G 9 2 11) (w 31) (fun t => t.getS 9 == 90 && (strm t 2).win == [(90, 3)]) = true ∧
      after (.sskip G 9 2 11) (w 91) (fun t => t.getS 9 == BitVec.allOnes 64) = true ∧
      after (.sisect G 9 2 3) (w 0) (fun t => t.getS 9 == 90 && (strm t 2).dp == 3 && (strm t 3).dp == 3) = true := by
  decide +kernel

/-- The first field that R294 does not permit, at the lowest offset; a window of two entries whose LASTC is that of the second. -/
theorem wit_StreamState_images :
    let z := fun (kind wn flags : Nat) (lastc : Nat) (es : List Nat) =>
      [1, BitVec.ofNat 8 kind, 2, BitVec.ofNat 8 wn, BitVec.ofNat 8 flags, 0, 0, 0] ++ bytesOf 4 100 ++ bytesOf 4 lastc ++ bytesOf 40 0 ++ bytesOf 8 100 ++ bytesOf 64 0 ++
        es.flatMap fun e => bytesOf 16 e;
    imageFault (z 0 2 2 7 [3, 7]) = none ∧ imageFault (z 0 2 2 7 [7, 7]) = some 144 ∧ imageFault (z 0 2 2 8 [3, 7]) = some 12 ∧ imageFault (z 0 2 0 7 [3, 7]) = some 4 ∧
      imageFault (z 0 33 2 0 []) = some 3 ∧ imageFault (z 4 0 0 0 []) = some 1 ∧ imageFault (z 0 1 2 100 [100]) = some 128 ∧ imageFault (z 0 1 2 3 [3, 5]) = some 144 := by
  decide +kernel

/-- A closed second register, two closed ones, and a second operand whose refill faults: SFDET names the register. -/
theorem wit_StreamSteps_second :
    let o := opened
    let high : State := { o with mem := Memory.puts o.mem (2 ^ 52 + 2 ^ 16 + 0x54C) (bytesOf 4 100) }
    let names := fun (r k : Nat) (t : State) => stoppedBy t && t.sl.sfdet.toNat % 2 ^ 32 == k * 2 ^ 16 + r;
    (strm o 1).opened = true ∧ (strm o 5).opened = false ∧ after (.sisect G 9 1 5) o (names 5 1) = true ∧ after (.sunion G 9 1 6) o (names 6 1) = true ∧
      after (.sisect G 9 5 6) o (names 5 1) = true ∧ (strm high 1).opened = true ∧ headIs high (strm high 1) (fun x => !x.win.isEmpty) = true ∧
      (match headOf high (strm high 1) with | .ok v _ => (match headOf v (strm high 2) with | .fault _ y k _ => y.win.length == 2 && k == 5 | _ => false) | _ => false) = true ∧
      after (.sisect G 9 1 2) high (fun t => names 2 5 t && (strm t 2).win.length == 2) = true ∧ after (.sunion G 9 1 2) high (names 2 5) = true := by
  decide +kernel

/-! ## Caches and home slices -/

/-- The data cache of cluster 0 holds bytes at two lines, its instruction cache two blocks of the code page, and an invalidation waits. -/
def caches : State :=
  let s := memEnv [(1, 0x20000000040), (2, 200), (3, 0x1F), (4, 0xFFFFFFFFFFFFFFF0), (5, 0x20000000200), (6, 0x20000010000), (7, 0x200), (10, 0x20000010040)];
  let s := cdcStore (cdcStore s 0 0x40000040 0 [1, 2, 3, 4]) 0 0x40000200 0 [7];
  let s := s.setCluster 0 { s.cluster 0 with icache := [⟨0x1000400, []⟩, ⟨0x1000401, []⟩, ⟨0x1000404, []⟩], iinvs := [⟨4, [(0x1000401, 3)]⟩] };
  { s with live := [(0x200001, 0)] }

/-- The walk and the checks of a global access answer a place. -/
def reaches (s : State) (k : Access) (va : Word) : Bool :=
  got (xlate s s.cur k va) fun v p => match globLoc v v.cur k va false p.1 p.2 with | .ok _ => true | .error _ => false

/-- Ranges of 200 bytes from 0x40 (lines 1 to 4), of none, below 2^41, and past 2^64; zeroing of a written line. -/
theorem wit_CacheRangesAndPrefetch :
    let s := caches
    let here := s.num 0x40000040 4
    (s.guardTrue G = true ∧ (0x20000000040 + 200 - 1) / 64 / 1024 = 0x20000000040 / 64 / 1024 ∧ whereIs 0x20000000040 = .global ∧
      reaches s .read 0x20000000040 = true ∧ reaches s .write 0x20000000040 = true ∧ here = 0 ∧
      after (.cwb G 1 2) s (fun t => t.sl.wait == .poll && t.sl.rel.isSome && writesPending t (whoCdc 0) && t.num 0x40000040 4 == 0 &&
        (cdcFind (t.cluster 0) 0x200000).map (·.dirty) == some 0 && (cdcFind (t.cluster 0) 0x200001).map (·.dirty) == some 1) = true ∧
      after (.cwbi G 1 2) s (fun t => t.sl.wait == .poll && (slice t (homeSlice s 0x200000)).reqs.map (·.data) == [[(64, 1), (65, 2), (66, 3), (67, 4)]]) = true ∧
      after (.cwb G 1 2) (next (.l2RequestService (homeSlice s 0x200000)) (next (.cwb G 1 2) s)) (fun t => t.sl.wait == .none && t.num 0x40000040 4 == 0x04030201) = true ∧
      after (.cwb G 1 0) (next (.cwb G 1 2) s |> fun t => t.setSl { t.sl with rel := none, wait := .none }) (fun t => t.sl.wait == .none) = true ∧
      after (.cinv G 1 2) s (fun t => t.num 0x40000040 4 == 0 && t.num 0x40000200 1 == 0) = true ∧
      after (.iinv G 10 2) s (fun t => (t.cluster 0).iinvs == [⟨4, [(0x1000401, 3)]⟩, ⟨4, [(0x1000401, 4)]⟩]) = true ∧
      after (.cwb G 1 0) s (fun t => t.num 0x40000040 4 == 0) = true ∧ after (.cwb G 3 2) s (fun t => t.sl.wait != .stopped) = true ∧
      after (.cinv G 4 2) s stoppedBy = true ∧ after (.iinv G 4 2) s stoppedBy = true) ∧
    ((∃ i ∈ (s.cluster 0).iinvs, i.slot = s.cur) ∧ after (.ibar G) s (fun t => t.sl.wait == .poll) = true ∧
      after (.iinvComplete 0) s (fun t => (t.cluster 0).iinvs.isEmpty && (t.cluster 0).icache.map ILine.la == [0x1000400, 0x1000404]) = true ∧
      after (.ibar G) (next (.iinvComplete 0) s) (fun t => t.sl.wait == .none) = true) ∧
    (after (.l2zero G 1) s stoppedBy = true ∧ after (.l2zero G 7) s stoppedBy = true ∧
      (0x20000000200 : Nat) % 512 = 0 ∧ s.memOk = true ∧ reaches s .write 0x20000000200 = true ∧ ownMemory s 0x40000200 = true ∧
      (s.live.find? fun p => p.1 == 0x40000200 / 512).isSome = true ∧
      after (.l2zero G 5) { s with mem := s.mem.puts 0x400003FF [9, 9] } (fun t => t.num 0x40000200 1 == 0 && t.num 0x400003FF 2 == 0x900 &&
        (match cdcFind (t.cluster 0) 0x200001 with | some x => x.valid == 0 | _ => true)) = true) := by
  decide +kernel

/-- A slice header of `n` sectors, and a request of data cache 0. -/
def hdrOf (n : Nat) : BitVec 32 := BitVec.ofNat 32 (n * 2 ^ 24)
def l2req (la : Nat) (k : L2Kind) (data : List (Nat × Byte)) : L2Req := ⟨la, 0, k, 0, data, 0, 0⟩

/-- Slice 3 with lines 0x10 (dirty, 4 sectors) and 0x20 (2 sectors), these queues, and a line in the write-back buffer. -/
def sliceOn (reqs refused fills : List L2Req) : State :=
  { memEnv [] with live := [(0x10, 0), (0x20, 0), (0x30, 0), (5, 0)], slices := [(3, { Slice.init with
      lines := [⟨0x10, 0, true, hdrOf 4, [], []⟩, ⟨0x20, 0, false, hdrOf 2, [], []⟩], freeSec := 16368 - 6, reqs := reqs, refused := refused, fills := fills,
      wbuf := [⟨5, 0, [1, 2, 3], [7]⟩] })] }

/-- Slice 3 with one line, no free sector and a full write-back buffer. -/
def fullSlice (r : L2Req) : State :=
  { memEnv [] with live := [(0x40, 0)], slices := [(3, { Slice.init with
      lines := [⟨0x10, 0, true, hdrOf 4, [], []⟩], freeSec := 0, reserve := 0, refused := [r], wbuf := List.replicate 16 ⟨5, 0, [], []⟩ })] }

/-- Requests of slice 3 and what they leave: the lines in their order of use. -/
def slice3 (t : State) : Slice := slice t 3
def lines3 (t : State) : List Nat := (slice3 t).lines.map fun l => l.la

theorem wit_HomeSliceEvents :
    let p := l2req 0x20 .part [(0, 9)]
    let a := sliceOn [l2req 0x20 .read [], p] [] []
    let w := sliceOn [] [p, l2req 0x30 .full [(0, 1)]] []
    let f := sliceOn [] [] [l2req 0x20 .fetch [], l2req 0x30 .read []]
    let full := fullSlice (l2req 0x40 .full [(0, 1)]);
    (servable a 3 = [l2req 0x20 .read [], p] ∧ ordered (l2req 0x20 .read []) p = false ∧ ordered { p with who := 1 } p = true ∧
      after (.l2RequestService 3) a (fun t => (slice3 t).reqs == [p] && lines3 t == [0x20, 0x10]) = true ∧
      servable (sliceOn [] [] []) 3 = [] ∧ servable (sliceOn [l2req 5 .read []] [] []) 3 = [] ∧
      after (.l2RequestService 3) (sliceOn [l2req 0x30 .fetch []] [] []) (fun t => (slice3 t).fills.length == 1 && (slice3 t).reqs.isEmpty) = true ∧
      after (.l2RequestService 3) (sliceOn [p] [] []) (fun t => t.num (512 * 0x20) 2 == 9 && lines3 t == [0x20, 0x10] && (slice3 t).freeSec + (slice3 t).reserve == 16379) = true) ∧
    (after (.l2WriteReplay 3 1) w (fun t => (slice3 t).refused == [p] && lines3 t == [0x30, 0x10, 0x20] && t.num (512 * 0x30) 1 == 1) = true ∧
      after (.l2WriteReplay 3 0) full (fun t => (slice3 t).refused.length == 1 && (slice3 t).refusedN == 1 && t.num (512 * 0x40) 1 == 0) = true ∧
      after (.l2WriteReplay 3 0) (sliceOn [] [l2req 5 .part [(0, 1)]] []) (fun t => (slice3 t).refused.length == 1 && (slice3 t).refusedN == 0) = true) ∧
    (after (.writeBackBufferDrain 3) a (fun t => (slice3 t).wbuf == [] && t.num (512 * 5) 4 == 0x030201 && t.owed.isEmpty) = true ∧
      after (.writeBackBufferDrain 3) { a with lost := [64 * 5] } (fun t => t.num (512 * 5) 2 == 7 && !lineBad t 5) = true ∧
      after (.writeBackBufferDrain 3) w (fun t => (slice3 t).wbuf.map (·.la) == [0x10] && lines3 t == [0x20]) = true) ∧
    ((slice3 f).find 0x30 = none ∧ after (.l2FillReturn 3 1) f (fun t => lines3 t == [0x30, 0x10, 0x20] && (slice3 t).fills.length == 1) = true) := by
  decide +kernel

theorem wit_SliceSectorsAddUp :
    let p := l2req 0x20 .part [(0, 9)]
    let a := sliceOn [l2req 0x20 .read [], l2req 0x30 .full [(0, 1)]] [p] [l2req 0x50 .fetch []]
    let sum := fun t : State => let c := slice t 3; c.freeSec + c.reserve + (c.lines.map fun l => nsecOf l.hdr).sum
    sum a = 16384 ∧ (slice a 3).reserve ≤ 16 ∧ ((slice a 3).lines.map fun l => l.la).Nodup ∧ after (.l2RequestService 3) a (fun t => sum t == 16384) = true ∧
      after (.l2WriteReplay 3 0) a (fun t => sum t == 16384) = true ∧ after (.writeBackBufferDrain 3) a (fun t => sum t == 16384) = true ∧
      after (.l2FillReturn 3 0) a (fun t => sum t == 16384) = true := by
  decide +kernel

/-- `l2zero` of a resident line of two sectors, of a line that the host may hold, of one of another module, and of addresses that it may not name. -/
theorem wit_L2zero_places :
    let s := caches
    let h := homeSlice s 0x200001
    let r : State := { s with slices := [(h, { Slice.init with lines := [⟨0x200001, 0, false, hdrOf 2, [], []⟩], freeSec := 16366 })] }
    let snooped : State := { r with mgmt := { r.mgmt with snoops := [0x200001] } }
    let away := r.setCluster 0 { r.cluster 0 with tlb := [page 0x2000000 (2 ^ 42 + 0x40000000) false true] };
    (ownMemory r 0x40000200 = true ∧ after (.l2zero G 5) r (fun t => let z := (slice t h).find 0x200001;
        (z.map fun z => nsecOf z.hdr) == some 0 && (z.map (·.dirty)) == some true && (slice t h).zlines == 1 && (slice t h).freeSec + (slice t h).reserve == 16384) = true ∧
      after (.l2zero G 5) snooped (fun t => t.sl.wait == .performs none && (slice t h).reqs.length == 1) = true ∧
      after (.l2zero G 5) away (fun t => t.away.length == 1 && t.sl.wait == .performs none) = true ∧
      yields (proceed (r.setSl { r.sl with wait := .performs none }) ⟨4, 0, .performed, false⟩) (fun t => t.sl.wait == .none && t.sl.pc != r.sl.pc) = true) ∧
    (let at' := fun v => s.setS 5 v;
      after (.l2zero G 5) (at' 0x10000000000) stoppedBy = true ∧ after (.l2zero G 5) (at' (2 ^ 41 - 512)) stoppedBy = true ∧
        after (.l2zero G 5) (at' (2 ^ 56)) stoppedBy = true ∧ after (.l2zero G 5) (at' (2 ^ 56 + 2 ^ 36 - 512)) stoppedBy = true ∧ after (.l2zero G 5) (at' (2 ^ 57)) stoppedBy = true ∧
        whereIs (wordN (2 ^ 57)) = .beyond) := by
  decide +kernel

/-- A write to a line that the host may hold waits for its response; one to a dirty line with an error is served after the line is lost; an atomic's place is kept while its slot replays it. -/
theorem wit_HomeSliceEvents_snoops :
    let p := l2req 0x20 .part [(0, 9)]
    let s := sliceOn [p] [] []
    let held : State := { s with mgmt := { s.mgmt with held := [0x20] } }
    let waits := next (.l2RequestService 3) held
    let q := l2req 0x10 .part [(8, 9)]
    let bad : State := { sliceOn [q] [] [] with lost := [64 * 0x10] }
    let a : State := sliceOn [] [{ l2req 0x20 .atomic [] with who := whoSlot 4 }] [];
    (servable held 3 = [p] ∧ waits.mgmt.held = [] ∧ waits.mgmt.snoops = [0x20] ∧ (slice3 waits).reqs = [p] ∧ servable waits 3 = [] ∧
      after (.l2WriteReplay 3 0) { sliceOn [] [p] [] with mgmt := { s.mgmt with held := [0x20] } } (fun t => t.mgmt.snoops == [0x20] && (slice3 t).refused == [p]) = true ∧
      servable { s with mgmt := { s.mgmt with held := [0x20] } } 3 = [p] ∧ (serve (setSlice bad 3 { slice3 bad with reqs := [] }) 3 q false).2 = .lost ∧
      after (.l2RequestService 3) bad (fun t => (slice3 t).reqs.isEmpty && t.num (512 * 0x10 + 8) 1 == 9 && !lineBad t 0x10) = true) ∧
    (after (.l2WriteReplay 3 0) (a.setSl { a.sl with wait := .poll }) (fun t => (slice3 t).refused.length == 1) = true ∧
      after (.l2WriteReplay 3 0) a (fun t => (slice3 t).refused.isEmpty) = true) := by
  decide +kernel

/-- `l2pf` leaves the lines of its range that are global for its cluster to prefetch. -/
theorem wit_Prefetch :
    after (.l2pf G 5 1 true) caches (fun t => (t.cluster 0).fetches == [(4, 0x20000000200, true, true), (4, 0x20000000400, true, true)] && t.sl.wait == .none) = true := by
  decide +kernel

/-! ## Translation -/

/-- Lines of these addresses stand in their home slices. -/
def resident (ks : List Nat) (s : State) : State :=
  ks.foldl (fun s k => { s with
    live := tset s.live (k / 512) 0,
    slices := tset s.slices (homeSlice s (k / 512)) { Slice.init with lines := [⟨k / 512, 0, false, hdrOf 1, [], []⟩], freeSec := 16367 } }) s

/-- The page-table entries that lead to a page of 64 KiB, from a root at 0x80000000: four tables, and the leaf `e`. -/
def mapped (va e : Nat) (s : State) : State :=
  let s := s.writeNum (ctxTable + 64 + 8) 8 0x80000000;
  let s := s.writeNum (0x80000000 + 8 * (va / 2 ^ 48)) 8 (0x80001000 + 3);
  let s := s.writeNum (0x80001000 + 8 * (va / 2 ^ 39 % 512)) 8 (0x80002000 + 3);
  let s := s.writeNum (0x80002000 + 8 * (va / 2 ^ 30 % 512)) 8 (0x80003000 + 3);
  let s := s.writeNum (0x80003000 + 8 * (va / 2 ^ 21 % 512)) 8 (0x80004000 + 3);
  let s := s.writeNum (0x80004000 + 8 * (va / 2 ^ 16 % 32)) 8 e;
  resident [ctxTable + 64, 0x80000000, 0x80001000 + 8 * (va / 2 ^ 39 % 512), 0x80002000 + 8 * (va / 2 ^ 30 % 512), 0x80003000 + 8 * (va / 2 ^ 21 % 512), 0x80004000] s

/-- A readable and writable leaf at frame 0x40010000, and the environment in which it maps address 0x20000230000. -/
def walked : State := mapped 0x20000230000 (0x40010000 + 1 + 4 + 8) (withContext (memEnv [(1, 0x20000230000), (4, 0x10000), (8, 0)]))

/-- A walk that these slots wait for. -/
def walking (s : State) (dead : Bool) (sl : List (Nat × Access × Bool)) : State :=
  let s := sl.foldl (fun s x => s.setSlot x.1 { s.slot x.1 with wait := .walk }) s;
  { s with dies := [(0, { Die.init with walks := [⟨0, 1, 0x20000230000, sl, dead⟩] })] }

/-- The walk waits. -/
def waits {α : Type} (r : Res α) (f : State → Wait → Bool) : Bool := match r with | .wait t w => f t w | _ => false

/-- One step of a walk. -/
def leafIs (w : WalkOut) (f : TlbEntry → Bool) : Bool := match w with | .leaf l => f l | _ => false

/-- One entry of a table at 0x80000000, at depth `d`, that serves address 0x20000010000. -/
def entryAt (d e : Nat) : State :=
  (withContext (memEnv [])).writeNum (0x80000000 + 8 * (0x20000010000 / 2 ^ ([48, 39, 30, 21, 16].getD d 16) % (if d = 4 then 32 else 512))) 8 e

theorem wit_TranslationAndWalks :
    let s := withContext (memEnv [])
    let u := s.setSl { s.sl with priv := false }
    let z := s.setSl { s.sl with walkRes := some (0x2000002, 5) }
    (got (xlate s 4 .read 0x20000000040) (fun _ p => p == (0x40000040, 0)) = true ∧ got (xlate s 4 .fetch 0x2000001FFFE) (fun _ p => p == (0x4001FFFE, 0)) = true ∧
      trapped (xlate s 4 .fetch 0x20000000040) 6 = true ∧ trapped (xlate s 4 .atomic 0x20000010000) 6 = true ∧ trapped (xlate u 4 .read 0x20000000040) 6 = false ∧
      waits (xlate s 4 .read 0x20000020000) (fun t w => w == .walk && (t.die 0).walks.length == 1) = true ∧
      trapped (xlate z 4 .read 0x20000020000) 5 = true) ∧
    (ownMemory s 0x80000000 = true ∧ ownMemory s (2 ^ 42) = false ∧ (walkGo s 1 0x20000010000 1 (2 ^ 42)).2 = .fault 5 ∧
      (walkGo (entryAt 0 0x80001002) 1 0x20000010000 5 0x80000000).2 = .fault 5 ∧ (walkGo (entryAt 4 0x80010045) 1 0x20000010000 1 0x80000000).2 = .fault 5 ∧
      (walkGo (entryAt 0 0x8000100B) 1 0x20000010000 5 0x80000000).2 = .fault 5 ∧ (walkGo (entryAt 4 0x80010003) 1 0x20000010000 1 0x80000000).2 = .fault 5 ∧
      (walkGo (entryAt 1 0x80000005) 1 0x20000010000 4 0x80000000).2 = .fault 5 ∧ (walkGo (entryAt 2 0x80001005) 1 0x20000010000 3 0x80000000).2 = .fault 5 ∧
      (walkGo (entryAt 4 0x80010009) 1 0x20000010000 1 0x80000000).2 = .fault 5 ∧
      leafIs (walkGo (entryAt 2 0x80000005) 1 0x20000010000 3 0x80000000).2 (fun l => l.size == 30 && l.pa == 0x80000000 && l.rd && !l.w) = true ∧
      leafIs (walkGo (entryAt 4 0x8001000D) 1 0x20000010000 1 0x80000000).2 (fun l => l.size == 16 && l.vpn == 0x2000001 && l.pa == 0x80010000 && l.rd && l.w) = true ∧
      keyUsable s 1 3 = false ∧ (walkGo (entryAt 4 (0x80010005 + 3 * 2 ^ 52)) 1 0x20000010000 1 0x80000000).2 = .fault 6 ∧
      leafIs (walkTable walked 1 0x20000230000).2 (fun l => l.pa == 0x40010000) = true) := by
  decide +kernel

theorem wit_GatherWindowsAndTlbs :
    let c := memEnv [(1, 0x20000000040), (2, 0x20000000044), (3, 0x20000000041), (4, 0x100), (5, 0x100000000000000), (6, 0x1000FF0000000)]
    let b := next (.gbind G 20 1 2 3 2 true false 100) c
    let full := { c with windows := (List.range 256).map fun w => (256 + w, ⟨true, 0x20000000040, 0x20000000040, 1, 1, false, false, 1⟩) }
    let x := walking walked false [(4, .read, true)]
    let m := walking walked false [(4, .read, true), (5, .fetch, true)]
    let z := { x with mem := walked.mem.puts 0x80004018 (bytesOf 8 0) }
    let inv := fun (s : State) r all f => after (.tlbinv G r 4 all) s f
    (c.guardTrue G = true ∧ after (.gbind G 20 3 2 3 2 true false 1) c stoppedBy = true ∧ after (.gbind G 20 4 2 3 2 true false 1) c stoppedBy = true ∧
      after (.gbind G 20 1 4 3 2 true false 1) c stoppedBy = true ∧ (b.getS 20 = 0x100000000000000) ∧
      after (.gbind G 20 1 2 0 0 false true 1) b (fun t => t.getS 20 == 0x100000010000000) = true ∧ after (.gbind G 20 1 2 0 0 false true 1) full (fun t => t.getS 20 == 0) = true ∧
      after (.gunb G 20 5) b (fun t => t.getS 20 == 0 && !(tget Window.init t.windows 256).bound) = true ∧ after (.gunb G 20 6) b (fun t => t.getS 20 == 1) = true ∧
      after (.gstat G 20 5) b (fun t => t.getS 20 == 0x8000000000006433) = true ∧ after (.gstat G 20 1) b (fun t => t.getS 20 == 0) = true) ∧
    (c.sl.priv = true ∧ c.sl.wait ≠ .poll ∧ inv c 1 true (fun t => (t.cluster 0).tlb.isEmpty && t.sl.wait == .none) = true ∧
      inv c 1 false (fun t => (t.cluster 0).tlb.map TlbEntry.vpn == [0x2000001]) = true ∧
      inv { x with slots := c.slots } 1 true (fun t => t.sl.wait == .poll) = true) ∧
    (after (.tableWalk 0) x (fun t => t.sl.wait == .none && (t.cluster 0).tlb.length == 3 && (t.die 0).walks.isEmpty) = true ∧
      after (.tableWalk 0) m (fun t => t.sl.wait == .none && (t.slot 5).wait == .none && (t.cluster 0).tlb.length == 3) = true ∧
      after (.tableWalk 0) (walking walked true [(4, .read, true)]) (fun t => t.sl.wait == .none && (t.cluster 0).tlb.length == 2) = true ∧
      (walkTable z 1 0x20000230000).2 = .fault 5 ∧ after (.tableWalk 0) z (fun t => t.sl.walkRes == some (0x2000023, 5) && (t.cluster 0).tlb.length == 2) = true ∧
      after .walkQueueRetry (c.setSl { c.sl with wait := .walkFull 16 }) (fun t => t.sl.wait == .none) = true) := by
  decide +kernel

/-- An entry whose line is dirty in its home slice and lost to an error; walks that are one short of the limit, and at it. -/
theorem wit_TranslationAndWalks_limits :
    let pa := 0x80000000 + 8 * (0x20000010000 / 2 ^ 48 % 512)
    let e := entryAt 0 0x80001003
    let l : State := { e with lost := [pa / 8], live := [(pa / 512, 0)],
                              slices := [(homeSlice e (pa / 512), { Slice.init with lines := [⟨pa / 512, 0, true, hdrOf 1, [], []⟩], freeSec := 16367 })] }
    let other := fun n => List.replicate n (⟨1, 1, 0, [], false⟩ : WalkReq)
    let q := fun n => { memEnv [] with dies := [(0, { Die.init with walks := other n })] };
    (walkGo l 1 0x20000010000 5 0x80000000).2 = .fault 26 ∧
      waits (xlate (q 575) 4 .read 0x20000020000) (fun t w => w == .walk && (t.die 0).walks.length == 576) = true ∧
      waits (xlate (q 576) 4 .read 0x20000020000) (fun _ w => w == .walkFull 16) = true ∧
      (let s := memEnv []; let z := s.setSl { s.sl with walkRes := some (0x2000002, 26) }; trapped (xlate z 4 .read 0x20000020000) 26 = true) := by
  decide +kernel

/-- A window of 8-byte elements by 4-byte indices, all of them 0. -/
def windowed : State :=
  resident [0x40000000] (next (.gbind G 20 1 2 3 2 true false 100) (memEnv [(1, 0x20000000040), (2, 0x20000000080), (3, 7)]))

/-- A store to a window is performed at the home slice before its head retires; it waits while the host may hold the line. -/
theorem wit_LoadsAndStores_window :
    let w := windowed
    let held : State := { w with mgmt := { w.mgmt with held := [0x200000] } };
    got (locate w 4 .write true true 0x100000000000000 8) (fun _ l => match l with | .win _ _ => true | _ => false) = true ∧
      after (.st G .d 3 20 0 none) w (fun t => t.sl.wait == .none && t.num 0x40000080 8 == 7) = true ∧
      after (.ld G .d 9 20 0 none) (w.writeNum 0x40000080 8 41) (fun t => t.getS 9 == 41) = true ∧
      after (.st G .d 3 20 0 (some ⟨0, 0, 5, 1⟩)) held (fun t => t.sl.wait == .performs (some ⟨0, 0, 5, 1⟩) && unperformed t 4 && t.num 0x40000080 8 == 0 && semGet t 0 5 == 0) = true := by
  decide +kernel

/-- Walks for agents that are no heads join the pool of the die; a walk behind a write that waits for a snoop is made again; the copy operation of a walk goes on. -/
theorem wit_Translation_pool :
    let s := withContext (memEnv [])
    let ask := fun (t : State) => xlateFor t 0 1 (whoOp 3) true .read 0x20000020000 none
    let other := fun n => { memEnv [] with dies := [(0, { Die.init with walks := List.replicate n (⟨1, 1, 0, [], false⟩ : WalkReq) })] }
    let h := homeSlice walked (0x80004000 / 512)
    let c := slice walked h
    let x : State := setSlice walked h { c with reqs := [⟨0x80004000 / 512, 0, .part, whoPlane, [(0, 1)], 0, 0⟩] }
    let late : State := { x with mgmt := { x.mgmt with snoops := [0x80004000 / 512] } };
    whereIs 0x20000020000 = .global ∧ (ask s).2 = .later .walk ∧ ((ask s).1.die 0).walks.map (·.slots) = [[(whoOp 3, .read, true)]] ∧ ((ask (ask s).1).1.die 0).walks.length = 1 ∧
      (ask (other 576)).2 = .later (.full 16) ∧ (homeRead late whoWalk (0x80004000 + 8 * 3) 0 8).2 = .later ∧ (walkTable late 1 0x20000230000).2 = .later ∧
      after (.tableWalk 0) { walking walked false [(4, .read, true)] with slices := late.slices, mgmt := late.mgmt } (fun t => (t.die 0).walks.length == 1 && t.sl.wait == .walk) = true ∧
      deadWalk (walking walked true []) 1 = true ∧ deadWalk (walking walked false []) 1 = false := by
  decide +kernel

/-! ## Copies -/

/-- Copy options: conversion, snapshot, transaction barrier, arrival, notification. -/
def copt (c : Nat) (snap tb arr : Bool) (n : Nat) : CopyOpt := ⟨BitVec.ofNat 4 c, snap, tb, arr, BitVec.ofNat 2 n⟩

/-- Addresses and operands of copies; the first bytes of the source at 0x210000 are 1 to 10. -/
def copyEnv : State :=
  let s := memEnv [(1, 0x210000), (2, 0x20000000040), (3, 64), (4, 0x600), (5, 0x20000000200), (6, 64 + 2 ^ 32 + 2 * 2 ^ 40), (7, 0x802100), (10, 0x240),
    (11, 64 + 4 * 2 ^ 32), (12, 1 + 2 ^ 16 + 2 ^ 32), (13, 128), (15, 0x210001), (16, 16), (17, 0x200400), (18, 65544), (19, 2 ^ 24), (20, 1024), (21, 0x801200), (22, 0x300)];
  { s with mem := s.mem.puts (2 ^ 53 + 0x10000) [1, 2, 3, 4, 5, 6, 7, 8, 9, 10] }

/-- The operations of the copy engine of cluster 0. -/
def copiesOf (s : State) : List CopyOp := (s.copyEng (engineOf 0)).ops

/-- The copy is accepted as one operation more, of this length, kind and destination. -/
def accepts (i : Instr) (s : State) (p : CopyOp → Bool) : Bool :=
  after i s fun t => (copiesOf t).length == (copiesOf s).length + 1 && (match (copiesOf t).getLast? with | some o => p o && !o.started | none => false) && t.sl.wait == .none

/-- Every form accepted, one operand refused for each, and the two waits: for the inbox and for the source table. -/
theorem wit_CopyAcceptance :
    let s := copyEnv
    let o := copt 0 false false false 0
    let n := copt 0 true false false 1
    let push := fun (d a b : Reg) opt glb ring => Instr.cpush G d a b 0 opt glb ring E0
    let first := (copiesOf (next (push 4 1 3 o false false) s)).map fun x : CopyOp => { x with id := 9 }
    let full := s.setCopyEng (engineOf 0) { s.copyEng (engineOf 0) with ops := (List.replicate 32 first).flatten }
    let held := s.setCluster 0 { s.cluster 0 with sources := List.replicate 32 ⟨[(0, 1)], 9⟩ }
    (s.guardTrue G = true ∧ (waitParcel s E0).2 = true ∧ inboxFull s = false ∧
      accepts (push 4 1 3 o false false) s (fun x => x.len == 64 && x.dst == .rect false 0 1 1 0x600 && x.ranges != []) = true ∧
      after (push 4 1 3 o false false) s (fun t => (t.cluster 0).sources.length == 1 && (t.core 1).cseq == 1) = true ∧
      accepts (push 4 1 3 n false false) s (fun x => x.data == some ([1, 2, 3, 4, 5, 6, 7, 8, 9, 10] ++ List.replicate 54 0)) = true ∧
      accepts (push 5 2 3 o true false) s (fun x => x.dst == .glob 0x20000000200 && x.ranges == []) = true ∧
      accepts (push 7 10 3 o false true) s (fun x => x.dst == .ring 0 0x802100) = true ∧
      after (push 4 15 3 o false false) s stoppedBy = true ∧ after (push 4 1 18 n false false) s stoppedBy = true ∧ after (push 4 1 19 o false false) s stoppedBy = true ∧
      inboxFull full = true ∧ after (push 4 1 3 o false false) full (fun t => t.sl.wait == .poll) = true ∧
      (held.cluster 0).sources.length = 32 ∧ after (push 4 1 3 o false false) held (fun t => t.sl.wait == .poll) = true ∧ accepts (push 5 2 3 o true false) held (fun _ => true) = true) ∧
    (accepts (.cmcast G 4 1 6 0 o false E0) s (fun x => x.dst == .rect false 0 1 2 0x600 && x.min == 2) = true ∧
      accepts (.cmcast G 4 1 6 0 n false E0) s (fun x => x.data.isSome) = true ∧ after (.cmcast G 4 1 3 0 o false E0) s stoppedBy = true) ∧
    (accepts (.cslab G 4 1 13 12 11 0 o false E0) s (fun x => x.nrows == 4 && x.stride == 128 && x.kind == .rows 1) = true ∧
      after (.cslab G 4 1 16 12 11 0 o false E0) s stoppedBy = true) ∧
    (accepts (.cthr G 17 1 13 30 16 29 false false 2 true E0) s (fun x => x.nrows == 320 && x.note == 2 && x.dst == .own (2 ^ 53 + 0x400)) = true ∧
      after (.cthr G 4 1 13 30 16 29 false false 2 true E0) s stoppedBy = true) ∧
    (accepts (.cconv G 4 1 3 0 2 1 E0) s (fun x => x.maj == 50 && x.tslot == 2 && x.dst == .own (2 ^ 52 + 2 ^ 16 + 0x600)) = true ∧
      after (.cconv G 4 1 30 0 2 1 E0) s stoppedBy = true) := by
  decide +kernel

/-- SNAP reads every row of a slab, and parks on a guarded source. -/
theorem wit_CopyAcceptance_snap :
    let s := copyEnv
    let n := copt 0 true false false 0
    let g := s.setCluster 0 { s.cluster 0 with guards := [⟨2 ^ 53 + 0x10000 + 3 * 128, 8, 2 ^ 54, 0⟩] };
    accepts (.cslab G 4 1 13 12 11 0 n false E0) s (fun x => (x.data.map List.length) == some 256 && x.nrows == 4) = true ∧
      after (.cslab G 4 1 13 12 11 0 n false E0) g (fun t => (match t.sl.wait with | .parked a k n _ => a == 1 && k == 2 ^ 53 + 0x10000 + 384 && n == 64 | _ => false) && (copiesOf t).isEmpty) = true ∧
      accepts (.cslab G 4 1 13 12 11 0 (copt 0 false false false 0) false E0) g (fun x => x.ranges.length == 4) = true := by
  decide +kernel

/-- SNAP of a global source: the bytes at its home slice; the waits for a walk, for a place in the walk queue, and behind a write; a failing read is accepted with its code. -/
theorem wit_CopyAcceptance_snapWaits :
    let s := copyEnv
    let r := resident [0x40000040] (s.writeNum 0x40000040 8 41)
    let n := copt 0 true false false 0
    let push := Instr.cpush G 4 2 3 0 n false false E0
    let toPage := fun (t : State) (p : TlbEntry) => t.setCluster 0 { t.cluster 0 with tlb := [p] }
    let none' := toPage s (page 0x2000001 0x40010000 true false)
    let fullPool := { none' with dies := [(0, { Die.init with walks := List.replicate 576 (⟨1, 1, 0, [], false⟩ : WalkReq) })] }
    let h := homeSlice r 0x200000
    let behind' : State := { setSlice r h { slice r h with reqs := [⟨0x200000, 0, .part, whoPlane, [(64, 1)], 0, 0⟩] } with mgmt := { r.mgmt with snoops := [0x200000] } }
    let lost' : State := { s with lost := [(2 ^ 53 + 0x10000) / 8] };
    accepts push r (fun x => (x.data.map (List.take 2)) == some [41, 0]) = true ∧
      after push none' (fun t => t.sl.wait == .walk && (copiesOf t).isEmpty) = true ∧ after push fullPool (fun t => t.sl.wait == .walkFull 16) = true ∧
      after push behind' (fun t => t.sl.wait == .poll && (copiesOf t).isEmpty) = true ∧
      accepts push (none'.setSl { none'.sl with walkRes := some (0x2000000, 5) }) (fun x => x.conds.map (·.1) == [1]) = true ∧
      accepts (.cpush G 4 1 3 0 n false false E0) lost' (fun x => x.conds.map (·.1) == [5]) = true ∧
      accepts (.cpush G 4 1 3 0 n false false E0) (s.setSl { s.sl with sq := [(2 ^ 53 + 0x10001, 0, [9])] }) (fun x => (x.data.map (List.take 3)) == some [1, 9, 3]) = true := by
  decide +kernel

/-- A push of 1024 bytes to the CSP at 0x801200 of core 0 with a notification, and one to the TCM of a core of a cluster that runs no launch. -/
def pushed : State := next (.cpush G 21 1 20 1 (copt 0 false false false 0) false false ⟨0, 0, 3, 1⟩) copyEnv
def pushedFar : State := next (.cpush G 22 1 20 64 (copt 0 false false false 1) false false E0) copyEnv

/-- The next event of the engine of cluster 0. -/
def startC (s : State) : State := next (.copyOperationStart (engineOf 0)) s
def landC (c : Nat) (s : State) : State := next (.copyChunkLanding (engineOf 0) 1 c) s

theorem wit_CopyEngineEvents :
    let e := engineOf 0
    let p := startC pushed
    let q := landC 1 p
    let f := startC pushedFar
    let g := landC 0 f
    let code := fun (s : State) c => (copiesOf s).map (fun o => o.conds.map (·.1)) == [c]
    ((copyNext pushed (pushed.copyEng e)).map CopyOp.conv = some 0 ∧ (copiesOf p).map CopyOp.started = [true] ∧
      (copiesOf p).map CopyOp.pending = [[0, 1]] ∧ (copiesOf p).all (fun o => o.lostSource == false && !opHalted p o.ctx o.launch) = true ∧
      (copiesOf q).map CopyOp.pending = [[0]] ∧ q.num (2 ^ 54 + 0x1400) 2 = 0 ∧
      yields (exec (.copyChunkLanding e 1 0) q) (fun t => t.num (2 ^ 54 + 0x1200) 10 == 0x0A090807060504030201 && (copiesOf t).all fun o => o.pending == []) = true ∧
      (let d := landC 0 q;
        after (.copyOperationComplete e 1) d (fun t => (copiesOf t).isEmpty && (t.cluster 0).sources.isEmpty && semGet t 0 3 == 1) = true) ∧
      after (.copyOperationComplete e 1) q (fun t => t == q) = true) ∧
    ((copiesOf f).map (fun o => targetCode f o 0) = [2] ∧ code g [2] = true) ∧
    (let t := startC (next (.cconv G 4 1 3 7 2 1 E0) copyEnv);
      code t [6] = true) := by
  decide +kernel

/-- A table load from WS and from global memory, the ends of a credit (a count of 0, of 255, a semaphore beyond 255), and the arrival at a core of the launch, of another and in no cluster. -/
theorem wit_TablesAndCredits :
    let s := (copyEnv.setSl { copyEnv.sl with s := (copyEnv.sl.s.set 25 0x10000).set 26 0x300 |>.set 27 0x305 |>.set 28 0x20000000041 })
    let sent := next (.cfree G 27 5) s
    let a := { sent with sel := 1 }
    let full := { s with copies := (startC pushed).copies }
    (s.guardTrue G = true ∧ firstTrap [copyAlign .read (s.getS 1) 64, copyAddress .read (s.getS 1) 512, copyAccess s .read (s.getS 1) 512] = none ∧ inboxFull s = false ∧
      (s.cluster s.myCl).sources.length < 32 ∧ after (.ctab G 29 1 3 1) s (fun t => t.sl.wait == .table && (copiesOf t).map CopyOp.maj == [50] && (t.cluster 0).sources.length == 1) = true ∧
      got (tableBlocks s 0x20000000040 8 []) (fun _ bl => bl.length == 8 && bl.getLast? == some (0x40000200, 0)) = true ∧ after (.ctab G 29 2 3 1) s (fun t => t.sl.wait == .table && (t.cluster 0).sources.isEmpty) = true ∧
      after (.ctab G 29 28 3 1) s stoppedBy = true ∧ (copiesOf full).length = 1 ∧ after (.ctab G 29 1 3 1) full (fun t => (copiesOf t).length == 2) = true) ∧
    (placeCore s.myCore 0x8000 = none ∧ after (.cfree G 27 0x8000) s stoppedBy = true ∧ placeCore s.myCore 5 = some 3 ∧ after (.cfree G 25 5) s stoppedBy = true ∧
      after (.cfree G 26 5) s (fun t => t.net == s.net) = true ∧ sent.net.length = s.net.length + 1) ∧
    (arriving a = some (.cfree 3 7 1 3 5) ∧ clusterOn a 0 = true ∧ after .cfreeArrival a (fun t => semGet t 1 3 == 5 && t.net.isEmpty) = true ∧
      after .cfreeArrival (a.setCluster 0 { a.cluster 0 with launch := some 9 }) (fun t => semGet t 1 3 == 0 && t.net.isEmpty) = true ∧
      clusterOn { a with clen := a.clen.set 0 0 } 0 = false ∧ after .cfreeArrival { a with clen := a.clen.set 0 0 } (fun t => semGet t 1 3 == 0) = true) := by
  decide +kernel

/-- The load of a table slot completes, and fills it; and a credit that is owed to a transaction barrier is given before the operation ends. -/
theorem wit_TablesAndCredits_load :
    let e := engineOf 0
    let s := { copyEnv with mem := copyEnv.mem.puts (2 ^ 53 + 0x10000) [1, 2, 3, 4] }
    let t := startC (next (.ctab G 29 1 3 1) s);
    (t.copyEng e).ops.map (·.started) = [true] ∧ (t.slot 4).wait = .table ∧
      after (.copyOperationComplete e 1) t (fun u => (u.slot 4).wait == .none && u.getS 29 == 0 && (u.copyEng e).ops.isEmpty &&
        ((u.copyEng e).tabs.map fun x => (x.1, x.2.owner, x.2.fmt, x.2.data.take 2)) == [(3, 1, 1, [0x0201, 0x0403])]) = true ∧
      (let d := landC 0 (landC 1 (startC pushed));
        let c := d.setCopyEng e { d.copyEng e with ops := (copiesOf d).map fun o => { o with credits := [64], tb := true, bar := 0x300 } };
        after (.copyOperationComplete e 1) c (fun u => (copiesOf u).map (·.credits) == [[]]) = true) := by
  decide +kernel

/-- A chunk for global memory: its places, a walk, a failed translation, a line that is lost before it; credits and publications of a target that is gone. -/
theorem wit_CopyEngineEvents_global :
    let e := engineOf 0
    let g := startC (next (.cpush G 5 1 3 0 (copt 0 false false false 0) true false E0) copyEnv)
    let o := fun (s : State) (f : CopyOp → CopyOp) => s.setCopyEng e { s.copyEng e with ops := (copiesOf s).map f }
    let unmapped := g.setCluster 0 { g.cluster 0 with tlb := [] }
    let failed := o (landC 0 unmapped) fun x => { x with wait := .walked 0x2000000 5 }
    let places := fun (s : State) (w : EngWait) => placePieces engXlate s ⟨whoOp 1, 0, 1, true, w⟩ 0x20000000200 (piecesOf 0x20000000200 64)
    let code := fun (s : State) c => (copiesOf s).map (fun x => x.conds.map (·.1)) == [c]
    let d := landC 0 (landC 1 (startC pushed))
    let far := startC pushedFar
    let owes := fun (s : State) => o s fun x => { x with conds := [], landed := [0, 1], credits := [64], tb := true, bar := 0x300 };
    (targetCode g ((copiesOf g).headD (newCopy g 0 0 (.rows 0) (.key 0) 0 (.own 0) E0)) 0 = 0 ∧ (match places g .none with | .ok _ ps => ps.length == 1 | _ => false) = true ∧
      (match places unmapped .none with | .later _ w => w == .walk | _ => false) = true ∧ (match places unmapped (.walked 0x2000000 5) with | .err _ c _ => c == 1 | _ => false) = true ∧
      yields (exec (.copyChunkLanding e 1 0) g) (fun t => (copiesOf t).map (·.landed) == [[0]] && t.num 0x40000200 4 == 0x04030201) = true ∧
      yields (exec (.copyChunkLanding e 1 0) unmapped) (fun t => (copiesOf t).map (·.wait) == [.walk] && (copiesOf t).map (·.landed) == [[]]) = true ∧
      yields (exec (.copyChunkLanding e 1 0) failed) (fun t => code t [1] && !engPending t 1) = true) ∧
    (let l := landC 0 { g with live := [(0x200001, 0)], mgmt := { g.mgmt with held := [0x200001] } }; let s := next (.l2RequestService (homeSlice l 0x200001)) { l with mgmt := { l.mgmt with snoops := [] } };
      (copiesOf l).map (·.pending) = [[]] ∧ after (.copyOperationComplete e 1) l (fun t => (copiesOf t).length == 1) = true ∧
        engPending s 1 = false ∧ s.num 0x40000200 4 = 0x04030201 ∧ after (.copyOperationComplete e 1) s (fun t => (copiesOf t).map (·.credits) == [[]] && after (.copyOperationComplete e 1) t fun u => (copiesOf u).isEmpty) = true) ∧
    ((copiesOf far).map (fun x => targetCode far x 0) = [2] ∧ after (.copyOperationComplete e 1) (owes far) (fun t => (copiesOf t).all fun x => x.credits == [] && x.conds.map (·.1) == [2]) = true ∧
      after (.copyOperationComplete e 1) (owes d) (fun t => (copiesOf t).all fun x => x.credits == [] && x.conds.map (·.1) == [4]) = true ∧
      after (.copyOperationComplete e 1) ((copiesOf (owes d)).foldl (fun s x => setBarrier s (x.barKey 0) ⟨0, 128, 1, 1, 0, 0, false⟩) (owes d)) (fun t => (copiesOf t).all fun x => x.credits == [] && x.conds == []) = true ∧
      (let r := { (copiesOf far).headD (newCopy g 0 0 (.rows 0) (.key 0) 0 (.own 0) E0) with dst := .ring 64 0x802100, ring := some 0x802100, conds := [] };
        targetCode far r 0 ≠ 0 ∧ ((publishRing far r).2.conds.map (·.1)) = [targetCode far r 0])) := by
  decide +kernel

/-! ## Transaction barriers -/

/-- A barrier at TCM 0x300 of core 1 that expects two arrivals. -/
def barEnv : State :=
  next (.tbinit G 1 2) (memEnv [(1, 0x300), (2, 0x308), (3, 0x20000000040), (4, 1), (5, 0x200240 + 64 * 2 ^ 24), (7, 2 ^ 48), (8, 0x500 + 0xFFFF * 2 ^ 24), (10, 100), (13, 0xFFFFFFFF)])

/-- That barrier. -/
def bar0 (s : State) : Barrier := barrierAt s (2 ^ 52 + 2 ^ 16 + 0x300)

theorem wit_TransactionBarriers :
    let s := barEnv
    let e := next (.tbexp G 20 1 10 true) s
    let f := next (.tbarr G 20 1) (next (.tbinit G 1 0) s)
    let c := next (.tbarr G 20 1) (next (.tbarr G 20 1) s)
    let g := s.setCluster 0 { s.cluster 0 with guards := List.replicate 16 ⟨2 ^ 53 + 0x240, 64, 2 ^ 52 + 2 ^ 16 + 0x300, 0⟩ }
    (let b := fun l e a f => (⟨l, e, a, 5, 7, 15, f⟩ : Barrier);
      (b 0 0 0 true).update 1 1 1 = (b 0 0 0 true, false) ∧ (b 0 0 1 false).update 0 0 2 = (b 0 0 1 true, false) ∧
      (b 1 (2 ^ 32 - 1) 3 false).update 0 1 0 = (b 1 (2 ^ 32 - 1) 3 true, false) ∧ (b 0 0 1 false).update 1 0 0 = (b 0 0 1 true, false) ∧
      (b 2 3 1 false).update 1 0 1 = (⟨0, 0, 5, 5, 7, 0, false⟩, true) ∧ (b 2 3 1 false).update 0 1 1 = (b 2 4 0 false, false)) ∧
    (s.guardTrue G = true ∧ trapped (barrierKey s .write 0x308) 8 = true ∧ after (.tbarr G 20 2) s stoppedBy = true ∧ after (.tbwait G 20 2 4) s stoppedBy = true ∧
      got (barrierKey s .write 0x300) (fun _ k => k == 2 ^ 52 + 2 ^ 16 + 0x300) = true ∧ got (barrierKey s .read 0x300) (fun t k => decide (t = s) && k == 2 ^ 52 + 2 ^ 16 + 0x300) = true ∧
      bar0 s = ⟨0, 0, 2, 2, 0, 0, false⟩ ∧ bar0 e = ⟨0, 100, 1, 2, 0, 0, false⟩ ∧ bar0 c = ⟨0, 0, 2, 2, 0, 1, false⟩ ∧ bar0 f = ⟨0, 0, 0, 0, 0, 0, true⟩ ∧
      (c.getS 20 = 0x21 ∧ f.getS 20 = 0x10) ∧ after (.tbtest G 20 1 4) c (fun t => t.getS 20 == 1) = true ∧ after (.tbtest G 20 1 7) c (fun t => t.getS 20 == 0x21) = true) ∧
    (after (.tbwait G 20 1 7) c (fun t => t.getS 20 == 0x21 && t.sl.wait == .none) = true ∧ after (.tbwait G 20 1 7) f (fun t => t.getS 20 == 0x10) = true ∧
      after (.tbwait G 20 1 7) s (fun t => t.sl.wait == .barrier (2 ^ 52 + 2 ^ 16 + 0x300) 20 0 && (bar0 t).wait == 1) = true) ∧
    (guardRegion s 0x240 0xFFFF true ≠ none ∧ after (.tbguard G 20 1 7) s stoppedBy = true ∧ guardRegion s 0x200240 64 false = none ∧ (g.cluster 0).guards.length = 16 ∧
      after (.tbguard G 20 1 5) s (fun t => t.getS 20 == 0 && (t.cluster 0).guards == [⟨2 ^ 53 + 0x240, 64, 2 ^ 52 + 2 ^ 16 + 0x300, 0⟩]) = true ∧
      after (.tbguard G 20 1 5) g (fun t => t.getS 20 == 1) = true ∧ after (.tbguard G 20 1 4) g (fun t => t.getS 20 == 16 && (t.cluster 0).guards.isEmpty) = true) ∧
    (barrierWaiters s (2 ^ 52 + 2 ^ 16 + 0x300) = [] ∧ (barrierUpdate g (2 ^ 52 + 2 ^ 16 + 0x300) 0 0 1).2 = false ∧
      (barrierUpdate g (2 ^ 52 + 2 ^ 16 + 0x300) 0 0 2).2 = true ∧ ((barrierUpdate g (2 ^ 52 + 2 ^ 16 + 0x300) 0 0 2).1.cluster 0).guards = []) := by
  decide +kernel

/-! ## Messages -/

/-- Operands of messages: selections of the inbox, control words, neighbour offsets, journal entries; sixteen bytes at 0x200400. -/
def msgEnv : State :=
  let s := memEnv [(1, 0x200400), (2, 5), (3, 1 * 2 ^ 24 + 0x200400), (5, 64), (7, 128), (8, 0x300), (9, 0x20000000040), (10, 2 ^ 24 * 2 + 0x200400), (11, 0x301), (12, 65 * 2 ^ 24),
    (13, 2 ^ 54), (14, 31), (15, 7), (16, 0x1000000), (17, 32), (18, 127)];
  { s with mem := s.mem.puts (2 ^ 53 + 0x400) [1, 2, 3, 4, 5, 6, 7, 8, 9, 10, 11, 12, 13, 14, 15, 16] }

/-- A machine whose core 1 is changed. -/
def core1 (s : State) (f : CoreSt → CoreSt) : State := s.setCore 1 (f (s.core 1))

/-- Messages of channels 5 and 7, and journal entries in every state. -/
def inmsg (c : Nat) (p : Word) : InMsg := ⟨⟨wordN (1024 * c + 5), 1, 2, 3, p⟩, true⟩
def withInbox : State := core1 msgEnv fun k => { k with inbox := [inmsg 5 4, inmsg 7 8, inmsg 5 9], out := 8 }
def posted : JEntry := ⟨.posted, 0, 4, 0, 5, 0x300, .d, 9, true, false⟩
def withJournal : State := core1 msgEnv fun k => { k with journal := [(0, posted), (1, { posted with act := 77 }), (7, ⟨.refused, 3, 4, 0, 4, 0x301, .b, 0x99, false, true⟩)] }

theorem wit_MessageInstructions :
    let s := msgEnv
    let i := withInbox
    let j := withJournal
    let full := core1 s fun k => { k with journal := (List.range 32).map fun e => (e, posted) }
    let sent := next (.msend G 1 2 30 5 7 3) s
    (s.guardTrue G = true ∧ firstTrap (payloadChecks s (s.getS 30) 0 5) = none ∧ (s.core 1).out < 8 ∧
      after (.msend G 30 2 30 5 7 3) s (fun t => t.net.length == 1 && (t.core 1).out == 1 && t.sl.msgsOut == 1) = true ∧
      firstTrap (payloadChecks s (s.getS 1) (s.getS 10) 5) = none ∧
      after (.msend G 1 2 10 5 7 3) s (fun t => t.net.map (·.2) == [.user 4 3 7 false ⟨coreWord 3 7 3, 5, 1 * 2 ^ 24 + 0x200400, 2 * 2 ^ 24 + 0x200400, 0x200400⟩
        [1, 2, 3, 4, 5, 6, 7, 8, 9, 10, 11, 12, 13, 14, 15, 16]]) = true ∧
      after (.msend G 1 2 12 5 7 3) s stoppedBy = true ∧ after (.msend G 30 2 30 0x8000 7 3) s stoppedBy = true ∧ after (.msend G 30 2 30 5 7 3) i (fun t => t.sl.wait == .poll) = true) ∧
    ((s.getS 7).toNat = 128 ∧ after (.mrecv G 20 7 26) i stoppedBy = true ∧ after (.mpeek G 20 7) i stoppedBy = true ∧
      (i.core 1).inbox.findIdx? (selects (i.getS 2)) = some 0 ∧ after (.mrecv G 20 2 26) i (fun t => t.getS 26 == 1 && t.getS 20 == 0x1405 && t.getS 24 == 4 && (t.core 1).inbox.length == 2) = true ∧
      (i.core 1).inbox.findIdx? (selects (i.getS 14)) = none ∧ after (.mrecv G 20 14 26) i (fun t => t.getS 26 == 0 && (t.core 1).inbox.length == 3) = true ∧
      after (.mpeek G 20 2) i (fun t => t.getS 20 == 2) = true ∧ after (.mpeek G 20 18) i (fun t => t.getS 20 == 3) = true) ∧
    (remoteChecks s .write 0x300 5 8 = none ∧ (remoteChecks s .write 0x301 5 8).isSome = true ∧ (remoteChecks s .read 0x1000000 5 8).isSome = true ∧ freeJentry s 1 = some 0 ∧
      after (.rst G .d 18 8 5 true) s (fun t => t.net.map (·.2) == [.store 1 3 7 0 true 0x300 (bytesOf 8 127)] && (jentry t 1 0).st == .posted) = true ∧
      freeJentry full 1 = none ∧ after (.rst G .d 18 8 5 true) full (fun t => t.sl.wait == .poll) = true ∧ after (.rst G .d 18 11 5 true) s stoppedBy = true ∧
      after (.rld G .d 20 16 5 true) s stoppedBy = true ∧ after (.rld G .w 20 8 5 true) s (fun t => t.sl.wait == .reply 20 4 true none 0x10005000300 && t.net.length == 1) = true ∧
      after (.rld G .w 20 8 5 true) j (fun t => t.sl.wait == .poll) = true) ∧
    (after (.jread G 20 17 21) j stoppedBy = true ∧ after (.jread G 20 15 21) j (fun t => t.getS 21 == 0x99) = true ∧ after (.jread G 20 14 21) j (fun t => t.getS 21 == 0) = true ∧
      (jentry j 1 7).st = .refused ∧ after (.jack G 20 15) j (fun t => t.getS 20 == 0 && (jentry t 1 7).st == .free) = true ∧
      after (.jack G 20 30) j (fun t => t.getS 20 == 1 && (jentry t 1 0).st == .posted) = true ∧
      after (.nfence G true false) j (fun t => t.sl.wait == .poll) = true ∧ after (.nfence G false true) j (fun t => t.sl.wait != .poll) = true ∧
      after (.nfence G false true) sent (fun t => t.sl.wait == .poll) = true ∧ after (.nfence G true false) sent (fun t => t.sl.wait == .none) = true) := by
  decide +kernel

/-- A machine with message `m` in flight, chosen to arrive next. -/
def inFlight (s : State) (m : Flight) : State := { s with net := [(3, m)], sel := 3 }

theorem wit_MessageArrivals :
    let s := msgEnv
    let off := { s with clen := s.clen.set 0 0 }
    let other := s.setCluster 0 { s.cluster 0 with launch := some 9 }
    let busy := s.setCore 3 { s.core 3 with inbox := List.replicate 64 (inmsg 5 4) }
    let full := setChannel (core1 s fun k => { k with rch := 9, inbox := List.replicate 64 (inmsg 5 4) }) 1 9 { channel s 1 9 with pend := true }
    let a := fun (w3 p : Word) => (⟨coreWord 3 5 0, 1, 2, w3, p⟩ : Args)
    let b16 := s.read (2 ^ 53 + 0x400) 16
    let msg := fun o => Flight.user 4 3 7 o (a (2 * 2 ^ 24 + 0x801200) 0x801200) b16
    (let x := inFlight s (msg false);
      messageCode (unsend x 3) 3 7 (a (2 * 2 ^ 24 + 0x801200) 0x801200) b16 = 0 ∧
      after .messageArrival x (fun t => (t.core 3).inbox.length == 1 && t.num (2 ^ 54 + 0x1200) 4 == 0x04030201 && t.net.map (·.2) == [.ack 4 7]) = true ∧
      messageCode other 3 7 (a (2 * 2 ^ 24 + 0x801200) 0x801200) b16 = 3 ∧ messageCode off 3 7 (a 0 0) [] = 1 ∧ messageCode busy 3 7 (a 0 0) [] = 4 ∧
      after .messageArrival (inFlight off (msg true)) (fun t => t.num (2 ^ 54 + 0x1200) 4 == 0 &&
        t.net.map (·.2) == [.back 4 7 ⟨coreWord 3 5 0 ||| wordN (2 ^ 47), 1, 2, 2 * 2 ^ 24 + 0x801200, 0⟩]) = true ∧
      (let y := { inFlight s (msg true) with net := [(2, msg true), (3, msg true)] };
        orderedBehind y 3 (coreOf 4) 3 = true ∧ after .messageArrival y (fun t => t.net.length == 2 && (t.core 3).inbox.isEmpty) = true)) ∧
    (let e := Flight.engine 3 7 9 (a 3 4) [(0x40000000, 512)] 0;
      runsLaunch s 3 7 = true ∧ runsLaunch other 3 7 = false ∧ engineBehind (inFlight s e) 3 3 9 0 = false ∧ startBehind (inFlight s (.start 3 7 (a 3 4))) 3 3 = false ∧
      after .messageArrival (inFlight s e) (fun t => (t.core 3).inbox.length == 1 && t.net.isEmpty) = true ∧
      after .messageArrival (inFlight other e) (fun t => (t.core 3).inbox.isEmpty && t.net.isEmpty) = true ∧
      after .messageArrival (inFlight s (.start 3 7 (a 3 4))) (fun t => (t.core 3).inbox.length == 1) = true) ∧
    ((arrive s 1 5 0 (a 3 4) .message).2 = false ∧ (arrive s 1 5 1 (a 3 4) .message).2 = true ∧ ((deliver s 1 5 1 (a 3 4) .message true).core 1).inbox = [] ∧
      after .returnedMessage (inFlight s (.back 4 7 (a 3 4))) (fun t => (channel t 1 0).pend && t.net.isEmpty) = true ∧
      wouldPend full 1 9 1 (a 3 4) = false ∧ after .returnedMessage (inFlight full (.back 4 7 (a 3 4))) (fun t => t.net.length == 1) = true ∧
      (let x := (core1 s fun k => { k with out := 3 }).setSlot 4 { s.slot 4 with msgsOut := 2 };
        after .acknowledgementArrival (inFlight x (.ack 4 7)) (fun t => (t.core 1).out == 2 && (t.slot 4).msgsOut == 1) = true) ∧
      after .acknowledgementArrival (inFlight withJournal (.storeAck 1 7 0)) (fun t => (jentry t 1 0).st == .free && (jentry t 1 1).st == .posted) = true) ∧
    (after .remoteStoreArrival (inFlight s (.store 1 3 7 0 false 0x801200 [1, 2, 3, 4])) (fun t => t.num (2 ^ 54 + 0x1200) 4 == 0x04030201 && t.net.map (·.2) == [.storeAck 1 7 0]) = true ∧
      remoteCode s 3 7 0x805200 4 true = 5 ∧ remoteCode off 3 7 0x801200 4 true = 1 ∧ remoteCode other 3 7 0x801200 4 true = 3 ∧
      after .remoteStoreArrival (inFlight other (.store 1 3 7 0 false 0x801200 [1, 2, 3, 4])) (fun t => t.num (2 ^ 54 + 0x1200) 4 == 0 && t.net.map (·.2) == [.storeRefused 1 7 0 3]) = true ∧
      after .journalRefusal (inFlight withJournal (.storeRefused 1 7 0 3)) (fun t => (jentry t 1 0).st == .refused && (jentry t 1 0).cause == 3) = true ∧
      after .journalRefusal (inFlight withJournal (.storeRefused 1 7 1 3)) (fun t => (jentry t 1 1).st == .free && (t.slot 4).wait == (s.slot 4).wait) = true ∧
      after .journalRefusal (inFlight s (.late 1 4 0 3 0x10003000300)) (fun t => t.net.isEmpty && (t.slot 4).wait == (s.slot 4).wait) = true) ∧
    (let w := fun zx => s.setSlot 4 { s.slot 4 with wait := .reply 9 4 zx none 0x10004000300 };
      let g := s.setCluster 0 { s.cluster 0 with guards := [⟨2 ^ 53 + 0x400, 16, 5, 0⟩] };
      after .remoteLoadService (inFlight s (.load 4 1 7 0x200400 8 0)) (fun t => t.net.map (·.2) == [.loadReply 4 7 0 0x0807060504030201]) = true ∧
      after .remoteLoadService (inFlight g (.load 4 1 7 0x200400 8 0)) (fun t => t.net.length == 1 && t.net.map (·.1) == [3]) = true ∧
      after .remoteLoadService (inFlight s (.load 4 1 7 0x805200 8 0)) (fun t => t.net.map (·.2) == [.loadReply 4 7 5 0]) = true ∧
      after .remoteLoadReply (inFlight (w false) (.loadReply 4 7 0 0xFFFFFFFF80000000)) (fun t => t.getS 9 == 0xFFFFFFFF80000000 && t.sl.wait == .none) = true ∧
      after .remoteLoadReply (inFlight (w true) (.loadReply 4 7 0 0xFFFFFFFF80000000)) (fun t => t.getS 9 == 0x80000000) = true ∧
      after .remoteLoadReply (inFlight (w true) (.loadReply 4 7 5 0)) stoppedBy = true ∧ after .remoteLoadReply (inFlight (w true) (.loadReply 4 7 7 0)) (fun t => t.sl.wait != .none) = true ∧
      after .remoteReplyTimeout ({ s with tb := 8 }.setSl { s.sl with wait := .remote 9 0x10004000300 }) (fun t => t.sl.wait == .remote 9 0x10004000300) = true ∧
      after .remoteReplyTimeout ({ s with tb := 9 }.setSl { s.sl with wait := .remote 9 0x10004000300 }) (fun t => t.sl.wait != .remote 9 0x10004000300) = true) := by
  decide +kernel

/-- The payload of `msgEnv`'s messages in a guarded region, and lost. -/
def guardedPay : State := msgEnv.setCluster 0 { msgEnv.cluster 0 with guards := [⟨2 ^ 53 + 0x400, 16, 5, 0⟩] }
def lostPay : State := { withContext msgEnv with lost := [2 ^ 50 + 0x80] }

theorem wit_MessageInstructions_payload :
    let m := Instr.msend G 1 2 10 5 7 3
    let p := next m guardedPay
    (firstTrap (payloadChecks guardedPay (guardedPay.getS 1) (guardedPay.getS 10) 5) = none ∧ guarded guardedPay 0 (2 ^ 53 + 0x400) 16 = true ∧
      p.sl.wait = .parked (guardedPay.age + 1) (2 ^ 53 + 0x400) 16 0 ∧ p.age = guardedPay.age + 1 ∧ parks guardedPay 4 (2 ^ 53 + 0x400) 16 = true ∧ p.net.isEmpty = true ∧ after m { p with age := p.age + 5 } (fun t => t.sl.wait == p.sl.wait) = true) ∧
    (lostPay.lostIn (2 ^ 53 + 0x400) 16 = true ∧ guarded lostPay 0 (2 ^ 53 + 0x400) 16 = false ∧ after m lostPay (fun t => t.sl.intrap && t.sl.ecause == 26 && t.net.isEmpty) = true) ∧
    ((msgEnv.getS 13).getLsbD 54 = true ∧ firstTrap (payloadChecks msgEnv (msgEnv.getS 30) (msgEnv.getS 13) 5) = none ∧
      after (.msend G 30 2 13 5 7 3) msgEnv (fun t => t.net.map (·.2) == [.user 4 3 7 true ⟨coreWord 3 7 3 ||| wordN (2 ^ 46), 5, 1 * 2 ^ 24 + 0x200400, 2 ^ 54, 0⟩ []]) = true) := by
  decide +kernel

/-- What arrives where it must wait, is diverted, or meets a loss. -/
theorem wit_MessageArrivals_waiting :
    let s := msgEnv
    let a : Args := ⟨coreWord 3 5 0, 1, 2, 3, 4⟩
    let e := fun h => Flight.engine 3 7 9 a [] h
    let busy := setChannel (s.setCore 3 { s.core 3 with inbox := List.replicate 64 (inmsg 5 4) }) 3 5 { channel s 3 5 with pend := true }
    let two := { inFlight s (e 0) with net := [(2, e 4), (3, e 0)] }
    let saved : Saved := ⟨[], [], [], [], [], [], [], [], [], [], [], [], [], [], 0⟩
    let out := { inFlight s (e 0) with launches := [(7, { launch7 with out := true })], qm := { s.qm with saved := [(7, saved)] } }
    let starts := { inFlight s (.start 3 7 a) with net := [(2, .start 3 7 a), (3, .start 3 7 a)] }
    (wouldPend busy 3 5 0 a = false ∧ engineBehind (inFlight busy (e 0)) 3 3 9 0 = false ∧
      after .messageArrival (inFlight busy (e 0)) (fun t => t.net == [(3, e t.age)] && t.age == s.age + 1) = true ∧
      after .messageArrival (inFlight busy (e 2)) (fun t => t.net == [(3, e 2)]) = true ∧ engineBehind two 3 3 9 0 = true ∧
      after .messageArrival two (fun t => t.net == [(2, e 4), (3, e t.age)]) = true) ∧
    (launchOut out 7 = true ∧ after .messageArrival { out with net := [(3, .start 3 7 a)] } (fun t => t.net.isEmpty && t.qm.saved.map (fun p => p.2.held) == [[.start 3 7 a]]) = true ∧ after .messageArrival out (fun t => t.net.isEmpty && t.qm.saved.map (fun p => p.2.held) == [[e 0]]) = true) ∧
    (startBehind starts 3 3 = true ∧ after .messageArrival starts (fun t => t.net.length == 2 && (t.core 3).inbox.isEmpty) = true) ∧
    (let w := lostPay.setSlot 4 { lostPay.slot 4 with wait := .reply 9 4 true none 0x10004200400 };
      after .remoteLoadReply (inFlight w (.loadReply 4 7 7 0)) (fun t => t.sl.intrap && t.sl.ecause == 26 && t.sl.eaddr == 0x10004200400) = true ∧
      remoteCode lostPay 1 7 0x200400 8 false = 7 ∧ after .remoteLoadService (inFlight lostPay (.load 4 1 7 0x200400 8 0)) (fun t => t.net.map (·.2) == [.loadReply 4 7 7 0]) = true ∧
      (let g := lostPay.setCluster 0 { lostPay.cluster 0 with guards := [⟨2 ^ 53 + 0x400, 16, 5, 0⟩] };
        after .remoteLoadService (inFlight g (.load 4 1 7 0x200400 8 0)) (fun t => t.net.map (·.1) == [3]) = true)) ∧
    (let h := s.setCluster 0 { s.cluster 0 with sources := [⟨[(2 ^ 53 + 0x400, 16)], 1⟩] };
      heldSource h 0 (2 ^ 53 + 0x400) 8 = true ∧ remoteCode h 1 7 0x200400 8 true = 6 ∧ rangeOk s 1 0x805200 4 = false ∧
      messageBytes s 1 7 { a with w3 := wordN (2 ^ 32) } [] = none ∧ messageCode s 1 7 { a with w3 := wordN (5 * 2 ^ 31 + 0x1000) } [1] = 2 ∧
      messageCode s 1 7 { a with w3 := 0x805200 } [1, 2, 3, 4, 5, 6, 7, 8] = 5) := by
  decide +kernel

/-- The reads of a guarded region park with their ages: a remote load, and a younger message behind it. What arrives at a core whose teardown has reached its network interfaces is discarded. -/
theorem wit_MessageArrivals_parkedAndTorn :
    let m := Instr.msend G 1 2 10 5 7 3
    let g := guardedPay
    let p := next .remoteLoadService (inFlight g (.load 4 1 7 0x200400 8 0))
    let open' := fun (s : State) => s.setCluster 0 { s.cluster 0 with guards := [] }
    let q := next m p
    let torn := fun (m : Flight) => { inFlight msgEnv m with tear := [(1, 7)] };
    (p.net = [(3, .load 4 1 7 0x200400 8 (g.age + 1))] ∧ after .remoteLoadService p (fun t => t == p) = true ∧
      after .remoteLoadService (open' p) (fun t => t.net.map (·.2) == [.loadReply 4 7 0 0x0807060504030201]) = true ∧
      q.sl.wait = .parked (g.age + 2) (2 ^ 53 + 0x400) 16 0 ∧ guarded (open' q) 0 (2 ^ 53 + 0x400) 16 = false ∧ parks (open' q) 4 (2 ^ 53 + 0x400) 16 = true ∧
      after m (open' q) (fun t => t.sl.wait == q.sl.wait) = true ∧ after m (next .remoteLoadService (open' q)) (fun t => t.sl.wait == .none) = true) ∧
    (tornCore (torn (.ack 4 7)) 1 = true ∧ after .acknowledgementArrival (torn (.ack 4 7)) (fun t => t.net.isEmpty && (t.core 1).out == (msgEnv.core 1).out) = true ∧
      after .messageArrival (torn (.start 3 7 ⟨0, 1, 2, 3, 4⟩)) (fun t => t.net.isEmpty && (t.core 3).inbox.isEmpty) = true ∧
      tornCore { torn (.ack 4 7) with tear := [(1, 6)] } 1 = false ∧ tornCore { torn (.ack 4 7) with tear := [(2, 7)] } 1 = false) := by
  decide +kernel

/-! ## Collectives -/

/-- Context 1 with a page table for its data page, and a descriptor of three modules at 0x20000001000; operand data at 0x20000000040. -/
def collEnv : State :=
  let s := mapped 0x20000000000 (0x40000000 + 1 + 4 + 8) (withContext (memEnv [(1, 0x20000000040), (2, 0x20000000200), (3, 64), (4, 0x20000001000), (5, 0x20000002000), (6, 65),
    (7, 0x200400), (8, 0x20000000204)]));
  let d := bytesOf 2 3 ++ bytesOf 2 0 ++ bytesOf 4 512 ++ bytesOf 8 1000 ++ bytesOf 4 0x13 ++ bytesOf 44 0 ++ bytesOf 2 0 ++ bytesOf 2 1 ++ bytesOf 2 5;
  resident [0x40001000, 0x40000040, 0x40000200, 0x40002000] { s with mem := (s.mem.puts 0x40001000 d).puts 0x40000040 [1, 2, 3, 4, 5, 6, 7, 8] }

/-- An all-reduce of 64 bytes of i32, the operation started, the contribution of rank 1 in, and all three. -/
def reduceOf (n : Reg) : Instr := .coll G 2 1 n 4 5 .allReduce .i32 .add .rne
def coll1 : State := next (reduceOf 3) collEnv
def coll2 : State := next (.collectiveStart 3) coll1
def collOp (s : State) : List CollOp := collOps s 3
def share (tag : Nat) (n : Nat) : Option Contrib := (collOp coll2).head?.map fun o => { o.own with bytes := List.replicate n 5, tag := o.own.tag + tag }
def coll3 : State := next (.collectiveContribution 3 1 1 0 (share 0 64)) coll2
def coll4 : State := next (.collectiveContribution 3 1 2 0 (share 0 64)) (next (.collectiveContribution 3 1 0 0 none) coll3)

theorem wit_Collectives :
    let s := collEnv
    let first := (collOp coll1).head?.toList
    let full := { coll1 with colls := tset coll1.colls 3 (List.replicate 16 first).flatten }
    let late := { coll3 with tb := 5000 }
    let part := fun (t : State) (f : CollChunk → Bool) => (collOp t).length == 1 && (collOp t).all fun o => f (o.part 0)
    (s.guardTrue G = true ∧ (match collEngine s 0x20000001000 with | .ok p => p.2 == 3 | _ => false) = true ∧ (collOp coll1).map (fun o => (o.len, o.started)) = [(64, false)] ∧ coll1.sl.wait = .none ∧
      after (reduceOf 6) s (fun t => t.sl.intrap) = true ∧ after (.coll G 8 1 3 4 5 .allReduce .i32 .add .rne) s (fun t => t.sl.intrap) = true ∧
      after (.coll G 7 1 3 4 5 .allReduce .i32 .add .rne) s (fun t => t.sl.intrap) = true ∧ (collOp full).length = 16 ∧ after (reduceOf 3) full (fun t => t.sl.wait == .poll) = true) ∧
    ((collOp coll2).map (fun o => (o.started, o.nrank, o.rank, o.chunk)) = [(true, 3, 0, 512)] ∧ (collOp coll2).map (fun o => (o.timeout, o.tag, o.nch)) = [(1000, 0x13, 1)]) ∧
    (part coll3 (fun p => p.got.map (·.1) == [1] && p.first == coll2.tb && p.head.isSome) = true ∧
      after (.collectiveContribution 3 1 2 0 (share 0 64)) coll3 (fun t => part t fun p => p.got.map (·.1) == [1, 2] && !p.closed) = true ∧
      after (.collectiveContribution 3 1 2 0 (share 0 60)) coll3 (fun t => part t fun p => p.got.map (·.1) == [1] && !p.closed) = true ∧
      after (.collectiveContribution 3 1 2 0 (share 1 64)) coll3 (fun t => part t fun p => p.got.map (·.1) == [1] && !p.closed) = true ∧
      after (.collectiveContribution 3 1 2 0 (share 0 64)) late (fun t => part t fun p => p.got.map (·.1) == [1] && p.closed) = true ∧
      after (.collectiveChunkTimeout 3 1 0) late (fun t => part t fun p => p.closed) = true ∧
      after (.collectiveChunkTimeout 3 1 0) { coll3 with tb := 1000 } (fun t => part t fun p => !p.closed) = true) ∧
    (after (.collectiveComplete 3 1) coll3 (fun t => t.net.isEmpty && (collOp t).length == 1) = true ∧
      after (.collectiveComplete 3 1) coll4 (fun t => t.net.length == 1 && (collOp t).isEmpty && t.num 0x40000200 8 == 0x1211100F0E0D0C0B) = true) := by
  decide +kernel

/-- The operation of `coll1` in engine 3, changed; a reduce-scatter of 64 bytes whose second block is past the page. -/
def collWith (s : State) (f : CollOp → CollOp) : State := { s with colls := tset s.colls 3 ((collOp s).map f) }
def scatter : State := collWith coll2 fun o => { o with kind := .reduceScatter, src := 0x2000000FFC0 }

/-- The line of an address is dirty in its home slice and lost to an error. -/
def lose (s : State) (k : Nat) : State :=
  { s with lost := [k / 8], live := tset s.live (k / 512) 0,
           slices := tset s.slices (homeSlice s (k / 512)) { Slice.init with lines := [⟨k / 512, 0, true, hdrOf 1, [], []⟩], freeSec := 16367 } }

/-- Collectives that end: on a descriptor or a source that faults or is lost, and on a block of another rank; and one whose writes are not performed. -/
theorem wit_Collectives_ends :
    let start := Instr.collectiveStart 3
    let own := Instr.collectiveContribution 3 1 0 0 none
    let codes := fun (t : State) => (collOp t).map fun o => (o.started, o.code, o.fva)
    let away : State := { coll4 with away := [⟨0x40000200, whoOp 1, 1, 99, 0, 0⟩] }
    (codes (next start (collWith coll1 fun o => { o with desc := 0x20000010000 })) = [(true, 2, 0x20000010000)] ∧ codes (next start (lose coll1 0x40001000)) = [(true, 5, 0)] ∧
      codes (next start (collWith coll1 fun o => { o with desc := 0x2000000FFC0 })) = [(true, 3, 0)]) ∧
    (codes (next own scatter) = [(true, 2, 0x20000010000)] ∧ codes (next own (lose coll2 0x40000040)) = [(true, 5, 0)] ∧
      (collOp (next own (lose coll2 0x40000040))).all CollOp.ended = true ∧
      (let x := next (.collectiveComplete 3 1) (next own scatter);
        x.net.length = 1 ∧ (collOp x).isEmpty = true)) ∧
    (let x := next (.collectiveComplete 3 1) away;
      engPending away 1 = true ∧ x.net.isEmpty = true ∧ (collOp x).map (fun o => o.wrote.isSome) = [true] ∧
      after (.collectiveComplete 3 1) { x with away := [] } (fun t => t.net.length == 1 && (collOp t).isEmpty) = true) ∧
    (let r := collWith coll3 fun o => { o with parts := o.parts.map fun p => (p.1, { p.2 with head := p.2.head.map fun h => { h with tag := 9 } }) };
      (collOp r).all (fun o => (o.part 0).head.isSome && (o.part 0).head != some o.own) = true ∧
      (collOp (next own r)).map (fun o => ((o.part 0).refused, o.code, (o.part 0).got.map (·.1))) = [(true, 4, [1])]) := by
  decide +kernel

/-- A read or a write at `k` waits behind a write to its line for which the host is snooped. -/
def heldUp (s : State) (k : Nat) : State :=
  let h := homeSlice s (k / 512)
  { setSlice s h { slice s h with reqs := (slice s h).reqs ++ [⟨k / 512, 0, .part, whoHost, [(0, 1)], 0, 0⟩] } with mgmt := { s.mgmt with snoops := [k / 512] } }

/-- Contributions that come before the collective has started; reads and writes that wait; a result that cannot be written. -/
theorem wit_Collectives_waits :
    let start := Instr.collectiveStart 3
    let own := Instr.collectiveContribution 3 1 0 0 none
    let e0 := next (.collectiveContribution 3 0 1 0 (share 0 64)) collEnv
    let e1 := next (.collectiveContribution 3 1 2 0 (share 0 64)) (next (reduceOf 3) e0)
    let e2 := next (.collectiveContribution 3 0 2 0 (share 9 64)) e1
    let lost' := collWith coll4 fun o => { o with dst := 0x20000010000 };
    ((earlyParts e0 3).map (fun x => (x.op, x.rank, x.chunk)) = [(0, 1, 0)] ∧ (earlyParts e2 3).map (fun x => (x.op, x.rank)) = [(0, 1), (1, 2), (0, 2)] ∧
      after start e2 (fun t => (earlyParts t 3).map (·.rank) == [2] && (collOp t).all fun o => o.started && (o.part 0).got.map (·.1) == [1, 2]) = true) ∧
    ((match planeRead (heldUp collEnv 0x40001000) (snapReader collEnv) 0x20001000 64 with | .later _ w => w == .none | _ => false) = false ∧
      (match planeRead (heldUp collEnv 0x40001000) (snapReader collEnv) 0x20000001000 64 with | .later _ w => w == .none | _ => false) = true ∧
      (match planeRead collEnv (snapReader collEnv) 0x20000010000 64 with | .err _ c va => c == 1 && va == 0x20000010000 | _ => false) = true ∧
      after (reduceOf 3) (heldUp collEnv 0x40001000) (fun t => t.sl.wait == .poll && (collOp t).isEmpty) = true ∧
      after start (heldUp coll1 0x40001000) (fun t => (collOp t).map (fun o => (o.started, o.wait)) == [(false, .none)]) = true ∧
      after own (heldUp coll3 0x40000040) (fun t => (collOp t).all fun o => (o.part 0).got.map (·.1) == [1] && o.code == 0) = true) ∧
    (after (.collectiveComplete 3 1) (heldUp coll4 0x40000200) (fun t => engPending t 1 && (collOp t).all fun o => o.code == 0 && o.wrote == some [(0x40000200, 64), (0x40002000, 8)]) = true ∧
      after (.collectiveComplete 3 1) lost' (fun t => (collOp t).isEmpty && t.net.length == 1) = true ∧
      after (.collectiveComplete 3 1) (heldUp coll4 (0x80004000)) (fun t => (collOp t).map (·.wrote) == [none]) = true) := by
  decide +kernel

/-! ## Streams of launches -/

/-- An entry in 16 bytes: kind, semaphore, value, address. -/
def entry (kind sem value : Nat) (a : Word) : List Byte := bytesOf 1 kind ++ bytesOf 1 0 ++ bytesOf 2 sem ++ bytesOf 4 value ++ bytesOf 8 a.toNat

/-- A stream descriptor of context 1, privileged, with 16 entries at `base`: priority, HEAD and TAIL. -/
def strmDesc (prio base h t : Nat) : List Byte :=
  bytesOf 1 (3 + 4 * prio) ++ bytesOf 1 0 ++ bytesOf 1 1 ++ bytesOf 1 0 ++ bytesOf 2 1 ++ bytesOf 2 0 ++ bytesOf 8 base ++ bytesOf 4 16 ++ bytesOf 4 0 ++ bytesOf 8 h ++ bytesOf 8 t

/-- Stream 3 (priority 2) is mapped with entry `e` at its head; stream 4 (priority 3), not mapped, holds a SIGNAL of 5 on semaphore 6; the context owns semaphores 6 and 7;
semaphore 6 holds 9, the others 0. -/
def queueEnv (e : List Byte) : State :=
  let s := mapped 0x20000000000 (0x40000000 + 1 + 4 + 8) (withContext (memEnv [(1, 0x20000000040), (2, 3), (3, 4), (4, 0x20000000041), (5, 0x200000000000000), (6, 9)]));
  let m := (s.mem.puts (streamTable + 64 * 3) (strmDesc 2 0x20000001000 0 1)).puts (streamTable + 64 * 4) (strmDesc 3 0x20000001100 0 1);
  resident [0x40001000, streamTable + 64 * 3, semOff 6] { s with
    mem := ((m.puts 0x40001000 e).puts 0x40001100 (entry 3 6 5 0)).puts (semOff 6) (bytesOf 4 9),
    qm := { s.qm with streams := [(3, { MStream.init with head := 0, tail := 1 })], subs := [4], owners := [(6, 1), (7, 1)] }, sel := 3, launches := [(7, launch7)] }

/-- HEAD of stream 3, whether it is stopped, and the first 8 bytes of its first entry. -/
def headOf3 (t : State) : Option (Nat × Bool × Nat) := (mapped? t 3).map fun m => (m.head, m.stopped, t.num 0x40001000 8)

/-- The entry at the head of stream 3 is found. -/
def found (t : State) (kind : Nat) : Bool := match headEntry t t.sel with | .entry _ _ e => e.kind == kind | _ => false

/-- A submission answers this status. -/
def submits (t : State) (c : Nat) (r : Nat) : Bool := match submit t c 0x20000000040 3 with | .ok _ x => x == r | _ => false

theorem wit_TaskStreams :
    let w := queueEnv (entry 2 6 9 0)
    let b := queueEnv (entry 2 6 10 0)
    let g := queueEnv (entry 3 6 5 0)
    let x := queueEnv (entry 3 8 5 0)
    let full := { w with mem := w.mem.puts (streamTable + 64 * 3 + 32) (bytesOf 8 16), qm := { w.qm with streams := [(3, { MStream.init with head := 0, tail := 16 })] } }
    let long := { b with tb := 50000, qm := { b.qm with streams := [(3, { MStream.init with tail := 1, blocked := some 0 })] } }
    let crowd := { w with qm := { w.qm with streams := w.qm.streams ++ (50, MStream.init) :: (List.range 1022).map fun i => (100 + i, { MStream.init with tail := 1 }) } }
    let st := fun (t : State) => t.getS 20
    (w.guardTrue G = true ∧ after (.lnch G 20 4 2) w (fun t => st t == 3) = true ∧ after (.lnch G 20 5 2) w (fun t => t.sl.intrap) = true ∧
      got (xlate w 4 .read 0x20000000040) (fun _ _ => true) = true ∧ after (.lnch G 20 1 2) w (fun t => st t == 0 && t.num 0x40001010 16 == 0x200000000400000000000000001) = true ∧
      after (.lnch G 20 1 6) w (fun t => st t == 2) = true ∧ submits { w with tear := [(1, 1)] } 1 2 = true ∧ submits w 2 2 = true ∧
      streamNent full 3 = 16 ∧ after (.lnch G 20 1 2) full (fun t => st t == 1) = true) ∧
    (found w 2 = true ∧ semMine w 3 6 = true ∧ streamSem w 6 = 9 ∧ after .streamWaitEntry w (fun t => headOf3 t == some (1, false, 0x900060082) && streamSem t 6 == 0) = true ∧
      after .streamWaitEntry b (fun t => headOf3 t == some (0, false, 0xA00060002) && (mapped? t 3).any fun m => m.blocked == some 0) = true ∧
      after .streamSignalEntry g (fun t => headOf3 t == some (1, false, 0x500060083) && streamSem t 6 == 14) = true ∧
      semMine x 3 8 = false ∧ after .streamSignalEntry x (fun t => headOf3 t == some (1, true, 0x500080A83) && streamSem t 8 == 0) = true ∧
      after .streamWaitEntry (queueEnv (entry 2 8 0 0)) (fun t => headOf3 t == some (1, true, 0x80A82)) = true) ∧
    (found long 2 = true ∧ (searchFor long 1 6).2 = some 4 ∧ after .inheritanceSearch long (fun t => (mapped? t 4).isSome && t.qm.boosts == [(4, 3, 6)]) = true ∧
      after .inheritanceSearch { long with tb := 49999 } (fun t => (mapped? t 4).isNone) = true ∧
      (let n := { long with qm := { long.qm with subs := [] } };
        (searchFor n 1 6).2 = none ∧ after .inheritanceSearch n (fun t => (mapped? t 3).any fun m => m.blocked == some 50000) = true)) ∧
    (nextUnmapped w = some 4 ∧ mappingFree w = true ∧ after .streamMapping w (fun t => (mapped? t 4).isSome && t.qm.subs.isEmpty) = true ∧
      mappingFree crowd = false ∧ idleVictim crowd 4 = some 50 ∧ effPrio crowd 50 < streamPrio crowd 4 ∧
      after .streamMapping crowd (fun t => (mapped? t 4).isSome && (mapped? t 50).isNone && t.qm.streams.length == 1024) = true) := by
  decide +kernel

/-- Entries that cannot be read (the ring of stream 3 at another address) or marked (a page without write permission); a release that waits; a mapping that is not to be had. -/
theorem wit_TaskStreams_stops :
    let far := fun (e : List Byte) => { queueEnv e with mem := (queueEnv e).mem.puts (streamTable + 64 * 3 + 8) (bytesOf 8 0x30000001000) }
    let fixed := fun (e : List Byte) => (queueEnv e).writeNum 0x80004000 8 (0x40000000 + 1 + 4)
    let stopped := fun (t : State) => (mapped? t 3).any fun m => m.stopped && m.head == 0
    let w := queueEnv (entry 2 6 9 0)
    let slow := setSlice w 0 { slice w 0 with refused := [⟨5, 0, .part, whoCdc 0, [(0, 1)], 0, 0⟩] }
    let crowd := { w with qm := { w.qm with streams := w.qm.streams ++ (50, MStream.init) :: (List.range 1022).map fun i => (100 + i, { MStream.init with tail := 1 }), boosts := [(50, 7, 6)] } }
    (after .streamWaitEntry (far (entry 2 6 9 0)) stopped = true ∧ after .streamSignalEntry (far (entry 3 6 9 0)) stopped = true ∧ after .launchCheck (far (entry 1 0 0 0)) stopped = true ∧
      after .streamWaitEntry (fixed (entry 2 6 9 0)) (fun t => stopped t && streamSem t 6 == 9) = true ∧ after .streamSignalEntry (fixed (entry 3 6 9 0)) (fun t => stopped t && streamSem t 6 == 9) = true ∧
      after (.lnch G 20 1 2) (far (entry 2 6 9 0)) (fun t => t.getS 20 == 4) = true) ∧
    (slotReleased (slotRelease slow 5) 5 = false ∧ after (.lnch G 20 1 2) slow (fun t => t.sl.wait == .poll && t.getS 20 == 0) = true) ∧
    (nextUnmapped crowd = some 4 ∧ mappingFree crowd = false ∧ idleVictim crowd 4 = some 50 ∧ effPrio crowd 50 = 7 ∧ effPrio crowd 4 = 3 ∧
      after .streamMapping crowd (fun t => (mapped? t 4).isNone && (mapped? t 50).isSome) = true) := by
  decide +kernel

/-- A read of an entry, its mark and a submission that wait behind a write for which the host is snooped. -/
theorem wit_TaskStreams_waits :
    let w := queueEnv (entry 2 6 9 0)
    let r := heldUp w 0x40001000
    let busy : State := setSlice w 0 { slice w 0 with reqs := [⟨5, 0, .part, whoPlane, [(0, 1)], 0, 0⟩] };
    (match headEntry r 3 with | .later t => (t.qm.waits.map (·.2)) == [.none] | _ => false) = true ∧
      after .streamWaitEntry r (fun t => headOf3 t == some (0, false, 0x900060002) && streamSem t 6 == 9) = true ∧
      after .inheritanceSearch r (fun t => (mapped? t 4).isNone) = true ∧
      (match submit (heldUp w 0x80004000) 1 0x20000000040 3 with | .later _ _ => true | _ => false) = true ∧ after (.lnch G 20 1 2) (heldUp w 0x80004000) (fun t => t.sl.wait == .poll) = true ∧
      planeBusy busy = true ∧ after (.lnch G 20 1 2) busy (fun t => t.sl.wait == .poll && t.sl.rel.isSome) = true := by
  decide +kernel

/-! ## Launches and contracts -/

/-- A record of one cluster, FIXED at (3, 0), with a channel and a start message; with flags 4 (FIXED) or 12 (a reserved bit), and their CRC-32C. -/
def recordBytes (flags : Nat) : List Byte :=
  [1, 1, 1] ++ bytesOf 1 flags ++ [1, 1, 3, 0] ++ bytesOf 2 1 ++ bytesOf 4 0 ++ bytesOf 2 0 ++ bytesOf 2 1 ++ bytesOf 6 0 ++ bytesOf 8 152 ++ bytesOf 28 0 ++
    bytesOf 4 (if flags = 4 then 958686632 else 2074868758) ++ [3, 3] ++ bytesOf 6 0 ++ bytesOf 8 0x20000010000 ++ bytesOf 4 1 ++ bytesOf 4 1 ++ [5, 2, 0x10, 0] ++ bytesOf 12 0 ++
    [0, 0, 0] ++ bytesOf 5 0 ++ bytesOf 8 11 ++ bytesOf 8 22 ++ bytesOf 24 0

/-- Stream 3 with a LAUNCH entry of this record at 0x20000002000. -/
def launchEnv (a : Word) (flags : Nat) : State :=
  let s := queueEnv (entry 1 0 0 a);
  resident [0x40002000] { s with mem := s.mem.puts 0x40002000 (recordBytes flags) }

/-- The record is ready, and the launch runs. -/
def checked : State := next .launchCheck (launchEnv 0x20000002000 4)

/-- Stream 3 runs launch 7, whose cluster is still. -/
def finished : State :=
  let s := queueEnv (entry 1 0 0 0x20000002000);
  { s with slots := [], qm := { s.qm with streams := [(3, { MStream.init with tail := 1, launch := some 7 })] }, sel := 7 }

theorem wit_Launches :
    let s := launchEnv 0x20000002000 4
    let c := checked
    let u := c.age + 1
    let done := fun (t : State) (status : Nat) => headOf3 t == some (1, false, 0x81 + 2 ^ 8 * status)
    let rtc := { finished with launches := [(7, { launch7 with record := { rec1 with rtc := true } })] }
    (found s 1 = true ∧ done (next .launchCheck (launchEnv 0x20000002004 4)) 1 = true ∧ done (next .launchCheck (launchEnv 0x30000002000 4)) 8 = true ∧
      done (next .launchCheck (launchEnv 0x20000002000 12)) 2 = true ∧
      recordCode s (recordBytes 4) = 0 ∧ recordCode s (recordBytes 12) = 2 ∧
      (match preloads s (streamReader s 3) (recordOf (recordBytes 4)).segs with | .ok _ l => l == [] | _ => false) = true ∧
      found (queueEnv (entry 5 0 0 0)) 5 = true ∧ after .launchCheck (queueEnv (entry 5 0 0 0)) (fun t => headOf3 t == some (1, true, 0xB85)) = true) ∧
    ((mapped? c 3).map (fun m => m.ready == some (recordOf (recordBytes 4))) = some true ∧
      (nextLaunch c).map (fun q => (q.1, q.2.2.1)) = some (3, 3, 0) ∧ rangesFree c (recordOf (recordBytes 4)) 3 0 = true ∧
      after .launchStart c (fun t => (t.launch? u).any fun l => l.stream == 3 && l.ctx == 1 && l.priv && l.x == 3 && l.y == 0 && !l.out) = true ∧
      after .launchStart c (fun t => (t.cluster 3).launch == some u && (mapped? t 3).any (fun m => m.launch == some u) && (channel t 63 5).haddr == 0x20000010000 &&
        t.net.map (·.2) == [.start 48 u ⟨coreWord 48 0 11, 22, 0, 0, 0⟩]) = true) ∧
    (launchDone finished launch7 = true ∧ launchDone s launch7 = false ∧ (s.launch? 7).isSome = true ∧
      after .launchEnd finished (fun t => done t 0 && (t.launch? 7).isNone && (t.cluster 0).launch.isNone) = true ∧
      after .launchEnd rtc (fun t => (t.launch? 7).any (·.jobDone) && (t.cluster 0).launch == some 7) = true ∧
      after .launchEnd { rtc with launches := rtc.launches.map fun p => (p.1, { p.2 with cancelled := true }) } (fun t => done t 0 && (t.launch? 7).isNone) = true) := by
  decide +kernel

/-- A record whose tail is past the page, one with a wrong CRC, and a preload that cannot be read; a launch whose release waits, and one of a partition that is out. -/
theorem wit_Launches_waits :
    let s := launchEnv 0x20000002000 4
    let code := fun (t : State) (a : Word) => match readRecord t (streamReader t 3) a with | .ok _ (.error c) => c | .err .. => 8 | _ => 0
    let past := { s with mem := s.mem.puts 0x4000FFC0 ((recordBytes 4).take 64) }
    let wrong := { s with mem := s.mem.puts 0x40002000 [2] }
    let out := { finished with launches := [(7, { launch7 with out := true, jobDone := true })] }
    let slow := setSlice finished 0 { slice finished 0 with refused := [⟨5, 0, .part, whoCdc 0, [(0, 1)], 0, 0⟩] }
    let far := fun t : State => { t with launches := [(7, { launch7 with record := { rec1 with scope := .die } })] }
    (code past 0x2000000FFC0 = 8 ∧ code wrong 0x20000002000 = 1 ∧ code s 0x20000002004 = 1 ∧ (match preloads s (streamReader s 3) [(0x30000000000, 0, 64)] with | .err .. => true | _ => false) = true) ∧
    (after .launchEnd out (fun t => headOf3 t == some (1, false, 0x81)) = true ∧ launchDone slow launch7 = true ∧
      after .launchEnd (far slow) (fun t => (t.launch? 7).isSome && headOf3 t == some (0, false, 1)) = true ∧
      after .launchEnd (far finished) (fun t => (t.launch? 7).isNone) = true) := by
  decide +kernel

/-- Cluster 0 with its save area, where a contract of launch 7 runs its first job: period 1 ms, budget 20 µs, deadline 500 µs; a contract of launch 9 with an earlier deadline is
switched out. -/
def contractEnv (out : Bool) (deadline : Nat) : State :=
  let r := { rec1 with rtc := true, contract := ⟨1000000, 20000, 500000⟩ };
  let l := { launch7 with record := r, rel := 1 };
  let s := withContext (memEnv [(1, 42)]);
  let s := s.setCluster 0 { s.cluster 0 with reserved := true };
  { s with launches := [(7, l), (9, { l with stream := 5, record := { r with contract := ⟨1000000, 20000, deadline⟩ }, out := out })], sel := 7 }

theorem wit_ContractsAndGangSwitches :
    let s := contractEnv true 400000
    let later := contractEnv true 600000
    let l := fun (t : State) (u : Nat) => (t.launch? u).toList
    let done := fun (t : State) => ({ t with launches := t.launches.map fun p => (p.1, { p.2 with jobDone := true }) } : State)
    let o := next .gangSwitchOut s
    let back := { o with sel := 7, launches := o.launches.filter fun p => p.1 == 7 }
    ((l s 7).map (fun x => (x.record.rtc, x.cancelled, x.out, x.jobDone)) = [(true, false, false, false)] ∧
      after .contractJobRelease { s with tb := 999999 } (fun t => (l t 7).map Launch.rel == [1]) = true ∧
      after .contractJobRelease { s with tb := 1000000 } (fun t => (l t 7).map (fun x => (x.job, x.rel)) == [(0, 2)]) = true ∧
      after .contractJobRelease { done s with tb := 1000000 } (fun t => (l t 7).map (fun x => (x.job, x.rel, x.jobDone)) == [(1, 2, false)]) = true ∧
      after .contractBudgetOverrun { s with tb := 19999 } (fun t => (l t 7).map Launch.out == [false]) = true ∧
      after .contractBudgetOverrun { s with tb := 20000 } (fun t => (l t 7).map (fun x => (x.out, x.overrun)) == [(true, true)] && (t.cluster 0).launch.isNone) = true) ∧
    ((l s 7).all (leaves s 7) = true ∧ (l later 7).all (fun x => !leaves later 7 x) = true ∧
      after .gangSwitchOut later (fun t => (t.cluster 0).launch == some 7 && (t.slot 4).chan == some 0) = true ∧
      (l o 7).map Launch.out = [true] ∧ (o.cluster 0).launch = none ∧ (o.slot 4).chan = none ∧ (o.qm.saved.map (·.1)) = [7] ∧ (o.cluster 0).tlb.length = 2) ∧
    ((l back 7).all (enters back 7) = true ∧ (l o 7).all (fun x => !enters o 7 x) = true ∧ after .gangSwitchIn { o with sel := 7 } (fun t => (t.cluster 0).launch.isNone) = true ∧
      after .gangSwitchIn back (fun t => (t.cluster 0).launch == some 7 && (t.slot 4).s[1] == 42 && t.qm.saved.isEmpty && (l t 7).map Launch.out == [false]) = true) := by
  decide +kernel

/-- An overrun job resumes with a fresh budget at its release, also after a CANCEL, whose ended job is not released again; an error in the save area is fatal. -/
theorem wit_ContractsAndGangSwitches_lost :
    let s := contractEnv true 400000
    let l := fun (t : State) (u : Nat) => (t.launch? u).toList
    let upd := fun (t : State) (f : Launch → Launch) => ({ t with launches := t.launches.map fun p => (p.1, f p.2) } : State)
    let o := next .gangSwitchOut s
    let back := { o with sel := 7, launches := o.launches.filter fun p => p.1 == 7 }
    let bad := { back with lost := [cspKey 0 (4096 * 1500) / 8] }
    (after .contractJobRelease { upd s (fun x => { x with overrun := true, out := true, cancelled := true, used := 9 }) with tb := 1000000 }
        (fun t => (l t 7).map (fun x => (x.rel, x.overrun, x.used, x.job)) == [(2, false, 0, 0)]) = true ∧
      after .contractJobRelease { upd s (fun x => { x with jobDone := true, cancelled := true }) with tb := 1000000 } (fun t => (l t 7).map (fun x => (x.rel, x.jobDone)) == [(1, true)]) = true) ∧
    ((l bad 7).all (enters bad 7) = true ∧ (l bad 7).all (fun x => (areaLoss bad x).isSome) = true ∧
      after .gangSwitchIn bad (fun t => (t.cluster 0).launch.isNone && tearing t 1) = true) := by
  decide +kernel

/-- Context 1 of two launches and streams is torn down; entries of context 2 stay. -/
def tearEnv (k : Nat) : State :=
  let s := { pushed with tear := [(1, k)], sel := 1, keys := [(5, ⟨true, 1, 99⟩), (6, ⟨true, 2, 98⟩)] };
  let s := { s with qm := { s.qm with owners := [(6, 1), (7, 2)] }, windows := [(256, ⟨true, 0x20000000040, 0x20000000040, 1, 1, false, false, 1⟩)], colls := coll1.colls };
  let s := core1 s fun x => { x with chans := [(5, { Channel.init with en := true })], inbox := [inmsg 5 4], journal := [(0, posted)] };
  let c := s.cluster 0;
  s.setCluster 0 { c with tlb := { page 0x2000003 0x40030000 false true with ctx := 2 } :: c.tlb }

theorem wit_TeardownOfContext :
    let s := tearEnv 1
    let step := fun (k : Nat) (f : State → Bool) => after .teardownStep (tearEnv k) (fun t => f t && t.tear == [(1, k + 1)]) = true
    (clustersOf s 1 = [0] ∧ (copiesOf s).length = 1 ∧ (collOp s).length = 1 ∧ (s.slot 4).chan = some 0 ∧ keyOf s 1 5 = true ∧ launchesOf s 1 ≠ [] ∧ (s.cluster 0).tlb.length = 3) ∧
    (step 1 (fun _ => true) ∧ step 2 (fun t => t.slot 4 == Slot.init && !(channel t 1 5).en) ∧ step 3 (fun t => t.tme 0 == Tme.init) ∧
      step 4 (fun _ => true) ∧ step 5 (fun t => (copiesOf t).isEmpty) ∧ step 6 (fun t => (collOp t).isEmpty) ∧
      step 7 (fun t => (t.core 1).inbox.isEmpty && (t.core 1).journal.isEmpty) ∧ step 8 (fun _ => true) ∧ step 9 (fun t => (t.cluster 0).tlb.map TlbEntry.ctx == [2]) ∧
      step 10 (fun t => keyOf t 2 6 && !keyOf t 1 5 && (launchesOf t 1).isEmpty && t.qm.owners == [(7, 2)] &&
        !(tget Window.init t.windows 256).bound) ∧ after .teardownStep (tearEnv 11) (fun t => t.tear.isEmpty && tget false t.torn 1) = true) := by
  decide +kernel

/-- Steps 5, 6 and 8 wait for what the copies, the collectives and the caches of the context have written. -/
theorem wit_TeardownOfContext_waits :
    let waits := fun (k : Nat) (f : State → State) => after .teardownStep (f (tearEnv k)) (fun t => t.tear == [(1, k)]) = true
    let away := fun (who : Nat) (s : State) => ({ s with away := [⟨0x40000200, who, 1, 99, 0, 0⟩] } : State)
    let held := fun (s : State) => setSlice s 0 { slice s 0 with refused := [⟨5, 0, .part, whoCdc 0, [(0, 1)], 0, 0⟩] }
    let sent := fun (s : State) => send s (.start 3 7 ⟨0, 1, 2, 3, 4⟩)
    let plane := fun (s : State) => setSlice s 0 { slice s 0 with reqs := [⟨5, 0, .part, whoPlane, [(0, 1)], 0, 0⟩] }
    let owes := fun (s : State) => ({ s with owed := [⟨1, 9, 0, 0, 0, 0, 0, true⟩] } : State)
    (waits 5 (away (whoOp 1)) ∧ waits 6 (away (whoOp 1)) ∧ waits 7 sent ∧ waits 8 held ∧ waits 2 plane ∧ planeBusy (plane (tearEnv 2)) = true ∧
      netQuiet (sent (tearEnv 7)) 1 = false ∧ netQuiet (tearEnv 7) 1 = true) ∧
    ((owes (tearEnv 11)).owed.map (·.ctx) = [1] ∧ waits 11 owes) ∧
    (placementsOf (tearEnv 8) 1 = [0] ∧ l2Quiet (tearL2 (held (tearEnv 8)) 1) 1 = false ∧ copiesQuiet (tearEnv 5) 1 = true ∧ collsQuiet (tearEnv 6) 1 = true) := by
  decide +kernel

/-- A job is not switched out while the store of a trap record of its slots is to be performed; a record whose read waits is read again; a done launch waits for the mark of its entry. -/
theorem wit_Launches_reads :
    let s := contractEnv true 400000
    let l := fun (t : State) (u : Nat) => (t.launch? u).toList
    let w := s.setSl { s.sl with wait := .performs none };
    ((l s 7).all (settled s) = true ∧ (l w 7).all (fun x => !settled w x) = true ∧ after .contractBudgetOverrun { w with tb := 20000 } (fun t => (l t 7).map Launch.out == [false]) = true) ∧
    (let r := heldUp (launchEnv 0x20000002000 4) 0x40002000;
      after .launchCheck r (fun t => headOf3 t == some (0, false, 1) && (mapped? t 3).all fun m => m.ready.isNone && !m.stopped) = true) ∧
    (let e := heldUp finished 0x40001000;
      after .launchEnd e (fun t => headOf3 t == some (0, false, 1) && (t.launch? 7).isSome) = true ∧
      after .launchEnd (finished.writeNum 0x80004000 8 (0x40000000 + 1 + 4)) (fun t => (t.launch? 7).isNone && (mapped? t 3).any (·.stopped)) = true) := by
  decide +kernel

/-! ## Encoders and the time base -/

/-- A ring at CSP 0x801000 with one slot published, whose frame has a pitch of 100. -/
def ringEnv : State :=
  let s := memEnv [(1, 0x801000), (2, 0x801800), (6, 1)];
  let s := next (.rbpub G 1 2 1) (next (.rbacq G 9 1 1 true) (next (.rbinit G 1 2 2 0) s));
  { s with mem := s.mem.puts (2 ^ 54 + 0x1810) (bytesOf 4 100) }

/-- An encoder of die 0 with stream 2: output at 0x20000003000 of 65536 bytes, and the ring of `ringEnv`. -/
def encEnv (wr : Nat) (u : Option EncUnit) : State :=
  let s := mapped 0x20000000000 (0x40000000 + 1 + 4 + 8 + 32) (withContext ringEnv);
  let d := bytesOf 2 1 ++ bytesOf 2 1 ++ bytesOf 2 64 ++ bytesOf 2 64 ++ bytesOf 4 0x801000 ++ [0, 0] ++ bytesOf 2 0 ++ bytesOf 8 0x20000003000 ++ bytesOf 4 65536 ++ bytesOf 4 100 ++ bytesOf 2 1 ++
    bytesOf 30 0;
  resident [0x40003000] { s with mem := s.mem.puts 0x40003000 (bytesOf 8 wr), encs := [(0, ⟨[(2, ⟨true, d, 0, [], u, .none⟩)], 0, false⟩)], tb := 20 }

theorem wit_EncodersAndTimeBase :
    let f := encEnv 0 none
    let u : EncUnit := ⟨[1, 2, 3], true, 9, 20, 0, none, false, false⟩
    let w := encEnv 0 (some u)
    let full := encEnv 65534 (some u)
    let ring := fun (t : State) => ringAt t (2 ^ 54 + 0x1000)
    let pend := fun (t : State) => ((tget Encoder.init t.encs 0).streams.map fun p => p.2.pend.map EncUnit.due)
    let fab := fun (lock : Bool) => { f with module := 3, tbMaster := false, tbLock := lock, mgmt := { f.mgmt with fabric := true, locked := lock, lastSync := 20 } }
    (encNext f 0 = some 2 ∧ ((tget Encoder.init f.encs 0).streams.all fun p => (encRing f p.2.desc).isSome) = true ∧ (ring f).filled = 1 ∧ ((ring f).get true 1).isSome = true ∧
      after (.encoderFrame 0 2) f (fun t => (ring t).free == 3 && (ring t).filled == 0 && t.net.length == 1 && (tget Encoder.init t.encs 0).next == 3) = true ∧
      after (.encoderFrame 0 3) f (fun t => t == f) = true) ∧
    (tget false w.enghalt 1 = false ∧ after (.encoderRdPoll 0 2) w (fun t => t.num 0x40003040 4 == 0x030201 && t.num 0x40003000 8 == 3 && pend t == [none]) = true ∧
      after (.encoderRdPoll 0 2) { w with tb := 19 } (fun t => t.num 0x40003000 8 == 0 && pend t == [some 20]) = true ∧
      after (.encoderRdPoll 0 2) full (fun t => t.num 0x40003000 8 == 65534 && pend t == [some 10020]) = true) ∧
    (after (.timeSyncMessage 1000) (fab false) (fun t => t.tb == 1000 && t.tbLock && t.mgmt.lastSync == 1000) = true ∧
      after (.timeSyncMessage 40) (fab true) (fun t => t.tb == 20 && t.tbLock) = true ∧ after (.timeSyncMessage 41) (fab true) (fun t => t.tb == 20 && !t.tbLock) = true ∧
      after .timeSyncLoss { fab true with tb := 1000019 } (fun t => t.tbLock) = true ∧
      after .timeSyncLoss { fab true with tb := 1000020 } (fun t => !t.tbLock && t.mgmt.losses == f.mgmt.losses + 1) = true ∧
      after (.fabricTraining 575) { f with hib := { f.hib with ready := true } } (fun t => t.module == 575 && !t.tbMaster && !t.tbLock && t.mgmt.fabric) = true ∧
      after (.fabricTraining 0) { f with hib := { f.hib with ready := true } } (fun t => t.module == 0 && t.tbMaster && t.tbLock) = true) := by
  decide +kernel

/-- Frames that end with a status: a slot, a control block or a plane that is lost or faults, and a unit of which a part cannot be written; what waits for its writes. -/
theorem wit_EncodersAndTimeBase_ends :
    let f := encEnv 0 none
    let u : EncUnit := ⟨[1, 2, 3], true, 9, 20, 0, none, false, false⟩
    let base := fun (a : Nat) (s : State) => { s with encs := s.encs.map fun (p : Nat × Encoder) => (p.1, { p.2 with
      streams := p.2.streams.map fun q => (q.1, { q.2 with desc := q.2.desc.take 16 ++ bytesOf 8 a ++ q.2.desc.drop 24 }) }) }
    let code := fun (i : Instr) (s : State) (c : Nat) => after i s fun t => t.net.map (fun p => match p.2 with | .engine _ _ _ a _ _ => a.w1.toNat / 2 ^ 32 % 256 | _ => 99) == [c]
    let poll := Instr.encoderRdPoll 0 2
    let sent := fun (adv gone : Bool) => encEnv 0 (some { u with sent := some (0x40003000, 0, [(0x40003040, 3)]), adv := adv, lost := gone })
    let even := { f with mem := f.mem.puts (2 ^ 54 + 0x1810) (bytesOf 4 64) }
    (code (.encoderFrame 0 2) { f with lost := [(2 ^ 54 + 0x1800) / 8] } 2 = true ∧ code (.encoderFrame 0 2) f 3 = true ∧ code (.encoderFrame 0 2) even 1 = true) ∧
    (code poll (base 0x30000003000 (encEnv 0 (some u))) 1 = true ∧ code poll (lose (encEnv 0 (some u)) 0x40003000) 2 = true ∧
      (let s := base 0x2000000FF80 (encEnv 0 (some u));
        let x := { s with mem := s.mem.puts 0x4000FF80 [63, 0, 0, 0, 0, 0, 0, 0, 63] };
        code poll x 1 = true ∧ after poll x (fun t => t.num 0x4000FFFF 1 == 0) = true)) ∧
    (encPerformed (sent false false) 0 = true ∧ after poll (sent false false) (fun t => t.num 0x40003000 8 == 3 && t.net.length == 1) = true ∧
      after poll (sent true false) (fun t => t.num 0x40003000 8 == 0 && t.net.length == 1) = true ∧ code poll (sent true true) 2 = true ∧
      after poll { sent false false with away := [⟨0x40003000, whoEnc 0, 1, 99, 0, 0⟩] } (fun t => t.net.isEmpty && t.num 0x40003000 8 == 0) = true) := by
  decide +kernel

/-- A ring header that is lost ends its stream; planes that can be read, and that wait; a control block that waits; entries of the table that have become invalid, or stay. -/
theorem wit_EncodersAndTimeBase_waits :
    let f := encEnv 0 none
    let u : EncUnit := ⟨[1, 2, 3], true, 9, 20, 0, none, false, false⟩
    let code := fun (i : Instr) (s : State) (c : Nat) => after i s fun t => t.net.map (fun p => match p.2 with | .engine _ _ _ a _ _ => a.w1.toNat / 2 ^ 32 % 256 | _ => 99) == [c]
    let x := tget EncStream.init (tget Encoder.init f.encs 0).streams 2
    let gone := { f with lost := [(2 ^ 54 + 0x1000) / 8] }
    let held := heldUp (encEnv 0 (some u)) 0x40003000
    let plane := heldUp { f with mem := f.mem.puts (2 ^ 54 + 0x1800) (bytesOf 8 0x20000000000 ++ bytesOf 8 0x20000000000 ++ bytesOf 4 64) } 0x40000000
    let streams := fun (t : State) => (tget Encoder.init t.encs 0).streams.map fun p => (p.1, p.2.valid);
    (encHeaderLost gone x.desc = true ∧ encNext gone 0 = some 2 ∧ code (.encoderFrame 0 2) gone 2 = true ∧ after (.encoderFrame 0 2) gone (fun t => streams t == [(2, false)]) = true) ∧
    (after (.encoderRdPoll 0 2) held (fun t => t.net.isEmpty && (tget Encoder.init t.encs 0).streams.all fun p => p.2.pend == some u) = true ∧
      after (.encoderFrame 0 2) plane (fun t => t.net.isEmpty && (ringAt t (2 ^ 54 + 0x1000)).filled == 1) = true ∧
      (match planeRead plane (encReader 0 x) 0x20000000040 64 with | .later _ w => w == .none | _ => false) = true ∧
      (match frameBytes f (encReader 0 x) 0x20000000000 0x20000000000 64 2 2 with | .ok _ bs => bs.length == 6 | _ => false) = true) ∧
    (streams (entryReread f 0 2 x.desc) = [(2, true)] ∧ (entryReread f 0 2 []).encs.all (fun p => p.2.streams.isEmpty) = true ∧
      streams (entryReread f 0 2 (x.desc.set 32 2)) = [(2, true)] ∧ encDescOk (x.desc.set 4 1) = false ∧ (entryReread f 0 2 (x.desc.set 4 1)).encs.all (fun p => p.2.streams.isEmpty) = true) := by
  decide +kernel

/-! ## The host -/

/-- A command of 64 bytes: OP, flags, and bytes 8 on. -/
def cmd (op flags : Nat) (rest : List Byte) : List Byte := (bytesOf 1 op ++ bytesOf 1 flags ++ bytesOf 6 0 ++ rest ++ bytesOf 56 0).take 64

/-- The queues of `queueEnv`, the link up, and one command taken from ring address 0x1000. -/
def hostEnv (op flags : Nat) (rest : List Byte) : State :=
  let s := queueEnv (entry 2 6 10 0);
  { s with qm := { s.qm with cmds := [(0x1000, cmd op flags rest)] }, hib := { s.hib with ready := true }, mgmt := { s.mgmt with cxl := some true, ktk := some 5 } }

/-- The command has completed with this status: the entry says so, and it is gone. -/
def status (t : State) (op st : Nat) : Bool := t.num (hostKey 0x1000) 1 == 128 + op && t.num (hostKey 0x1002) 2 == st && t.qm.cmds.isEmpty

/-- The command runs and completes with this status. -/
def does (i : Instr) (s : State) (st : Nat) (p : State → Bool := fun _ => true) : Bool :=
  after i s fun t => status t (s.qm.cmds.head?.elim 0 fun q => opOf q.2) st && p t

theorem wit_HostCommands :
    let new := fun n => hostEnv 1 1 (bytesOf 8 n ++ bytesOf 8 0x1000 ++ bytesOf 8 64 ++ bytesOf 8 256 ++ bytesOf 8 64)
    let str := fun n c => hostEnv 2 0 (bytesOf 8 n ++ bytesOf 1 3 ++ bytesOf 1 0 ++ bytesOf 2 1 ++ bytesOf 4 c ++ bytesOf 8 64 ++ bytesOf 8 16)
    let rst := fun (n : Nat) (st : Bool) => let s := hostEnv 3 0 (bytesOf 8 n);
      { s with qm := { s.qm with streams := [(3, { MStream.init with tail := 1, stopped := st })] } }
    let app := fun n => hostEnv 4 0 (bytesOf 8 n ++ entry 3 6 1 0)
    let full := let s := app 3; { s with qm := { s.qm with streams := [(3, { MStream.init with tail := 16 })] } }
    let sem := fun k c => hostEnv 5 0 (bytesOf 2 k ++ bytesOf 2 c ++ bytesOf 4 77)
    let can := fun (u : Option Nat) (r : Bool) => let s := hostEnv 6 0 (bytesOf 8 3);
      { s with qm := { s.qm with streams := [(3, { MStream.init with tail := 1, launch := u })] }, launches := [(7, { launch7 with record := { rec1 with rtc := r } })] }
    let torn := fun (s : State) => { s with tear := [(1, 4)] }
    let hd := fun (t : State) => (mapped? t 3).map fun m => (m.head, m.tail, m.stopped)
    (commandOk (cmd 1 1 (bytesOf 8 2)) = true ∧ does .ctxnew (new 2) 0 (fun t => t.num (ctxTable + 128) 8 == 1 && t.num (ctxTable + 136) 8 == 0x1000 && t.hib.msix0 == 1) = true ∧
      ctxMapped (new 1) 1 = true ∧ does .ctxnew (new 1) 2 = true ∧ does .ctxnew (new 4095) 0 = true ∧ does .ctxnew (torn (new 2)) 0 = true) ∧
    (does .strnew (str 3 1) 2 = true ∧ does .strnew (str 9 1) 0 (fun t => streamValid t 9 && streamCtx t 9 == 1 && t.hib.msix0 == 0) = true ∧ does .strnew (str 9 2) 3 = true ∧
      streamFieldsOk (sliceB (cmd 2 0 (bytesOf 8 9 ++ bytesOf 1 3 ++ bytesOf 1 0 ++ bytesOf 2 1 ++ bytesOf 4 1 ++ bytesOf 8 64 ++ bytesOf 8 16)) 16 40) = true) ∧
    (does .strrst (rst 3 true) 0 (fun t => hd t == some (1, 1, false)) = true ∧ does .strrst (rst 3 false) 2 = true ∧ does .strrst (rst 8 true) 3 = true) ∧
    (does .append (app 3) 0 (fun t => hd t == some (0, 2, false) && t.num 0x40001010 8 == 0x100060003) = true ∧ does .append full 4 = true ∧ does .append (app 8) 3 = true) ∧
    (does .semset (sem 6 1) 0 (fun t => streamSem t 6 == 77) = true ∧ does .semset (sem 4095 1) 0 = true ∧ does .semset (sem 6 2) 3 = true) ∧
    (does .cancel (can (some 7) true) 0 (fun t => (t.launch? 7).any (·.cancelled)) = true ∧ does .cancel (can (some 7) false) 3 = true ∧
      (let s := can none true; does .cancel { s with qm := { s.qm with streams := [] } } 3 = true)) ∧
    (does .teardown (hostEnv 7 0 (bytesOf 8 2)) 3 = true ∧ does .teardown (torn (hostEnv 7 0 (bytesOf 8 1))) 2 = true ∧
      after .teardown (hostEnv 7 0 (bytesOf 8 1)) (fun t => t.qm.late.length == 1 && t.qm.cmds.isEmpty && tearing t 1) = true) ∧
    (does .keyload (hostEnv 8 0 (bytesOf 2 5 ++ bytesOf 6 2)) 3 = true ∧
      (let s := hostEnv 8 0 (bytesOf 2 5 ++ bytesOf 6 1 ++ bytesOf 8 0x3000);
        ctxValid s 1 = true ∧ tearing s 1 = false ∧ hostRead s 0x3000 72 = some (List.replicate 72 0) ∧ s.mgmt.ktk = some 5 ∧ (tget KeyEntry.init s.keys 5).v = false)) ∧
    (after .attest (hostEnv 9 0 []) (fun t => (late? t 9).isSome && t.qm.cmds.isEmpty) = true ∧
      (let t := next .fwupd (hostEnv 10 0 (bytesOf 8 0x3000 ++ bytesOf 8 64));
        (late? t 10).isSome = true ∧ hostRead t 0x3000 64 = some (List.replicate 64 0) ∧ imageWhole (List.replicate 64 0) = false ∧
        after .fwupdCompletion t (fun v => v.num (hostKey 0x1000) 1 == 138 && v.num (hostKey 0x1002) 2 == 5 && v.qm.late.isEmpty) = true ∧
        after .fwupdCompletion { t with lost := [hostKey 0x3008 / 8] } (fun v => v.num (hostKey 0x1002) 2 == 6) = true)) := by
  decide +kernel

/-- Commands that are refused; a SEMSET whose value a blocked WAIT takes at once; a stopped stream that is not mapped; a CANCEL of a contract that is ready. -/
theorem wit_HostCommands_refusals :
    let torn := fun (s : State) => { s with tear := [(1, 4)] }
    let new := fun n root => hostEnv 1 0 (bytesOf 8 n ++ bytesOf 8 root ++ bytesOf 8 64 ++ bytesOf 8 256 ++ bytesOf 8 64)
    let str := fun n (k : Nat) => hostEnv 2 0 (bytesOf 8 n ++ bytesOf 1 k ++ bytesOf 1 0 ++ bytesOf 2 1 ++ bytesOf 4 1 ++ bytesOf 8 64 ++ bytesOf 8 16)
    let app := hostEnv 4 0 (bytesOf 8 3 ++ entry 3 6 1 0)
    let sem := fun k c => hostEnv 5 0 (bytesOf 2 k ++ bytesOf 2 c ++ bytesOf 4 77)
    let wait := let s := sem 6 1; { s with qm := { s.qm with streams := [(3, { MStream.init with tail := 1, blocked := some 0 })] } }
    let ready := fun r => let s := hostEnv 6 0 (bytesOf 8 3); { s with qm := { s.qm with streams := [(3, { MStream.init with tail := 1, ready := some { rec1 with rtc := r } })] } }
    let key := hostEnv 8 0 (bytesOf 2 5 ++ bytesOf 6 1 ++ bytesOf 8 0x3000)
    (does .ctxnew (new 4096 0x1000) 1 = true ∧ does .ctxnew (new 2 0x1001) 1 = true ∧ does .ctxnew (torn (new 1 0x1000)) 2 = true) ∧
    (does .strnew (str 9 0x23) 1 = true ∧ does .strnew (torn (str 9 3)) 2 = true ∧ does .strnew (str 9 2) 0 (fun t => !streamValid t 9) = true) ∧
    (let s := hostEnv 3 0 (bytesOf 8 4);
      (mapped? s 4).isNone = true ∧ streamValid s 4 = true ∧ does .strrst s 2 = true ∧
      does .strrst { s with qm := { s.qm with stops := [4] } } 0 (fun t => t.qm.stops.isEmpty && t.qm.subs.isEmpty && streamField t 4 24 8 == streamField t 4 32 8) = true) ∧
    (after .append (heldUp app 0x80004000) (fun t => t.qm.cmds == app.qm.cmds && (mapped? t 3).any fun m => m.tail == 1) = true ∧ does .append (torn app) 2 = true ∧ does .append { app with mem := app.mem.puts (streamTable + 64 * 3 + 8) (bytesOf 8 0x30000001000) } 7 = true) ∧
    (does .semset (sem 4096 1) 1 = true ∧ (let s := sem 6 1; does .semset { s with mem := s.mem.puts (ctxTable + 128) [1], qm := { s.qm with owners := [(6, 2)] } } 2 = true) ∧
      (wait.qm.streams.filter fun p => p.2.blocked.isSome).length = 1 ∧ does .semset wait 0 (fun t => streamSem t 6 == 67 && headOf3 t == some (1, false, 0xA00060082)) = true) ∧
    (does .cancel (ready true) 0 (fun t => (mapped? t 3).any (·.cancel)) = true ∧ does .cancel (ready false) 3 = true) ∧
    (does .keyload (hostEnv 8 0 (bytesOf 2 0 ++ bytesOf 6 1)) 1 = true ∧ does .keyload (hostEnv 8 0 (bytesOf 2 4096 ++ bytesOf 6 1)) 1 = true ∧ does .keyload (torn key) 2 = true ∧
      does .keyload { key with lost := [hostKey 0x3008 / 8] } 6 = true) := by
  decide +kernel

theorem wit_HostAccesses :
    let s := hostEnv 4 0 (bytesOf 8 3 ++ entry 3 6 1 0)
    let r := { s with
      qm := { s.qm with cmds := [] }
      hib := { s.hib with hcrbase := 0x1000, log2n := 4, head := 0xFFFFFFFF, tail := 0xFFFFFFFF }
      mem := s.mem.puts (hostKey 0x13C0) (cmd 3 0 (bytesOf 8 8)) }
    let busy := { r with hib := { r.hib with head := 0xFFFFFFFE } }
    let recov := { r with hib := { r.hib with recov := true, rcvaddr := 0x3000 } }
    let same := fun i (p : Hib → Bool) (x : State) => after i x fun t => p t.hib && !t.hib.ovr
    let ovr := fun i (x : State) => after i x fun t => t.hib.ovr
    (linkUp r = true ∧ after (.hctailWrite 0) r (fun t => t.hib.head == 0 && t.qm.cmds == [(0x13C0, cmd 3 0 (bytesOf 8 8))]) = true ∧
      after (.hctailWrite 15) r (fun t => t.hib.tail == 15 && !t.hib.ovr) = true ∧ ovr (.hctailWrite 16) r = true ∧
      same (.hcrsizeWrite 4) (fun h => h.log2n == 4 && h.head == 0) r = true ∧ same (.hcrsizeWrite 12) (fun h => h.log2n == 12 && h.tail == 0) r = true ∧
      ovr (.hcrsizeWrite 3) r = true ∧ ovr (.hcrsizeWrite 13) r = true ∧ same (.hcrsizeWrite 12) (fun h => h.log2n == 4) busy = true ∧
      same (.hcrbaseWrite 0x207F) (fun h => h.hcrbase == 0x2040) r = true ∧ same (.hcrbaseWrite 0x2040) (fun h => h.hcrbase == 0x1000) busy = true ∧
      same (.pcapWrite 2000) (fun h => h.cap == 2000) r = true ∧ same (.pcapWrite 10000) (fun h => h.cap == 10000) r = true ∧ ovr (.pcapWrite 1999) r = true ∧
      ovr (.pcapWrite 10001) r = true) ∧
    (same (.rcvlenWrite 64) (fun h => h.rcvlen == 64 && h.bcode == 0) r = true ∧ same (.rcvlenWrite 0) (fun h => h.bcode == 0) recov = true ∧
      hostRead recov 0x3000 64 = some (List.replicate 64 0) ∧
      after (.hostRegisterWrite true 0 4) { r with hib := { r.hib with ovr := true } } (fun t => !t.hib.ovr) = true ∧
      after (.hostRegisterWrite true 0x28 9) r (fun t => t.hib.rcvaddr == 9) = true ∧ after (.hostRegisterWrite false 0x28 9) r (fun t => t == r) = true) ∧
    ((let b := { r with hib := { r.hib with ovr := true, bcode := 5, trip := true, pwr := 7, tmax := 9 } };
        hibRead b 0x00 = 0x515 ∧ hibRead b 0x20 = 0xFFFFFFFF ∧ hibRead b 0x38 = 0x900000007 ∧ hibRead b 0x10 = 4 ∧ hibRead b 0x48 = 0 ∧ hibRead b 0x04 = 0) ∧
      after (.rcvlenWrite 64) { recov with lost := [hostKey 0x3008 / 8] } (fun t => t.hib.bcode == 5 && t.hib.rcvlen == 64) = true) ∧
    (0x40000200 + 2 ≤ memLimit r ∧ after (.hostCxlMemAccess 0x40000200 true [5, 6]) r (fun t => t.num 0x40000200 2 == 0x605 && t.mgmt.held == [0x200001]) = true ∧
      after (.hostCxlMemAccess 0x10000000 false [0]) r (fun t => t.mgmt.held == [0x80000]) = true ∧
      after (.hostCxlMemAccess 0xFFFFFFF true [5]) r (fun t => t.mgmt.held.isEmpty) = true) := by
  decide +kernel

/-- The images that boot and recovery take depend on free values of the model (the fused key hash, signatures, the image the part was made with); what is fixed whatever those are is
the refusal of an image that is not whole. -/
theorem wit_BootKeysAndPower :
    let s := { queueEnv (entry 2 6 10 0) with tb := 9 }
    let f := { s with mgmt := { s.mgmt with flash := some [1, 2, 3], clk := 14 } }
    let rcv := { f with hib := { f.hib with recov := true } }
    let hot := fun (p : BitVec 32) (k : BitVec 16) (q : State → Bool) => after (.powerSample p k) f q
    (flashOf f = some [1, 2, 3] ∧ imageWhole [1, 2, 3] = false ∧ s.hib.cap.toNat = 10000 ∧
      after .moduleReset f (fun t => t.hib.bcode == 4 && t.hib.recov && t.slots.isEmpty && t.keys.isEmpty && t.tb == 0 && t.num 0x40001000 8 == 0) = true ∧
      after .moduleReset { f with mem := f.mem.puts (hostKey 0x3000) [7] } (fun t => t.num (hostKey 0x3000) 1 == 7) = true ∧
      rcv.hib.recov = true ∧ after (.recoveryImageI3c [1, 2]) f (fun t => t == f) = true) ∧
    (s.mgmt.ktk = none ∧ after (.keyTransportKeyProvisioning 9) s (fun t => t.mgmt.ktk == some 9) = true ∧
      after (.keyTransportKeyProvisioning 9) { s with mgmt := { s.mgmt with ktk := some 8 } } (fun t => t.mgmt.ktk == some 8) = true ∧
      s.booted = true ∧ s.mgmt.cxl = none ∧ after (.cxlLinkTraining true) s (fun t => t.mgmt.cxl == some true) = true ∧
      after (.backInvalidateSnoopResponse 5) { s with mgmt := { s.mgmt with snoops := [4, 5] } } (fun t => t.mgmt.snoops == [4]) = true) ∧
    (f.hib.trip = false ∧ hot 9500000 1519 (fun t => t.mgmt.clk == 15 && !t.hib.capx) = true ∧ hot 9500001 1519 (fun t => t.mgmt.clk == 14) = true ∧
      hot 10000000 1519 (fun t => !t.hib.capx) = true ∧ hot 10000001 1519 (fun t => t.mgmt.clk == 13 && t.hib.capx) = true ∧
      after (.powerSample 10000001 1519) { f with launches := (contractEnv true 5).launches } (fun t => t.mgmt.clk == 14) = true ∧
      hot 1 1520 (fun t => t.mgmt.clk == 13) = true ∧ hot 1 1759 (fun t => !t.hib.trip) = true ∧ hot 1 1760 (fun t => t.hib.trip && t.num 0x40001000 8 == 0) = true) := by
  decide +kernel

/-- A run of one step from a state whose memory is canonical: the step of the first instruction of the example line, and one that stores. -/
theorem wit_MemoryStaysCanonical :
    let s := State.reset.withFetchWord 32 0
    let t := next (.st G .d 8 3 0 none) mem1
    s.memOk = true ∧ yields (step s) (fun t => t.memOk) = true ∧ mem1.memOk = true ∧ t.memOk = true := by
  decide +kernel

end Sys2Proof.Tests
end

section
/-!
PROOFS. O7: every instruction whose GI names a guard is the issue of one head, under the checks of orders 7 and 8 that R73 gives it; what a false guard, user
mode and a staging core make of it follows from what the issue of a head does.
-/

namespace Sys2Proof.Machine

/-- The form of an instruction with these parcels: order 7 is the check of `privForm`, order 8 that of `matrixForm` (R73). -/
def formOf (i : Instr) (e : Option Eng) (sig : Bool) : Form := { priv := privForm i, matrix := matrixForm i, eng := e, sig := sig }

/-- In state `s` the instruction is the issue of one head under guard `g`, with parcels `e`. -/
def IsHead (s : State) (i : Instr) (g : Guard) (e : Option Eng) : Prop := ∃ sig body, exec i s = head s g (formOf i e sig) body

/-! ## Orders 7 and 8 -/

/-- No matrix form is privileged: a matrix form may run in either mode. -/
theorem privForm_of_matrixForm {i : Instr} (h : matrixForm i = true) : privForm i = false := by
  revert h
  fun_cases matrixForm i
  case case12 => exact nofun
  all_goals exact fun _ => rfl

/-- Every privileged form is a head with a guard. -/
theorem guardOf_of_privForm {i : Instr} (h : privForm i = true) : ∃ g e, guardOf i = some (g, e) := by
  revert h
  fun_cases privForm i
  case case13 => exact nofun
  all_goals exact fun _ => ⟨_, _, rfl⟩

/-- Every matrix form is a head with a guard. -/
theorem guardOf_of_matrixForm {i : Instr} (h : matrixForm i = true) : ∃ g e, guardOf i = some (g, e) := by
  revert h
  fun_cases matrixForm i
  case case12 => exact nofun
  all_goals exact fun _ => ⟨_, _, rfl⟩

/-- Orders 7 and 8 let a permitted head issue. -/
theorem formTrap_permitted {s : State} {i : Instr} {e : Option Eng} {sig : Bool} (h : permitted s i) : formTrap s (formOf i e sig) = none := by
  obtain ⟨hp, hm⟩ := h
  have h7 : ¬(privForm i && !s.sl.priv) = true := by simpa using hp
  have h8 : ¬(matrixForm i && !isCompute s.myCore) = true := by simpa using hm
  rw [formTrap, formOf, if_neg h7, if_neg h8]

/-- A matrix form traps on a staging core (R73). -/
theorem formTrap_staging {s : State} {f : Form} (hp : f.priv = false) (hm : f.matrix = true) (h : isCompute s.myCore = false) :
    formTrap s f = some (trapI 4 0 0) := by
  simp [formTrap, hp, hm, h]

/-! ## Guarded instructions are heads -/

/-- Accessing FPSTAT is not privileged (Table 5.2). -/
theorem csrPriv_fpstat (op : CsrOp) : csrPriv op 0x001 = false := by cases op <;> rfl

/-- What a CSR instruction may write in user mode, as `privForm` lists it (R128). -/
theorem csrPriv_write {op : CsrOp} (h : op ≠ .csrr) (n : Nat) : csrPriv op n = (csrHidden n || n == 0x002 || n == 0x1E3) := by
  rw [csrPriv, bne_iff_ne.2 h, Bool.true_and, Bool.or_assoc]

/-- A CSR instruction is a head whose order 7 is `csrPriv`. -/
theorem isHead_csrForm {s : State} {i : Instr} {g : Guard} {op : CsrOp} {d a : Reg} {n : Nat} (h : exec i s = csrForm s g op d a n)
    (hp : privForm i = csrPriv op n) (hm : matrixForm i = false) : IsHead s i g none := by
  have hf : formOf i none true = { priv := csrPriv op n } := by rw [formOf, hp, hm]
  exact ⟨true, _, by rw [hf]; exact h⟩

/-- Every instruction whose GI names a guard is the issue of one head under that guard (R74). -/
theorem isHead_of_guardOf {i : Instr} {g : Guard} {e : Option Eng} (s : State) (h : guardOf i = some (g, e)) : IsHead s i g e := by
  cases i
  case csrw g d a n | csrs g d a n | csrc g d a n =>
    cases h
    refine isHead_csrForm rfl (csrPriv_write ?_ n.toNat).symm rfl
    exact nofun
  case csrr g d n => cases h; exact isHead_csrForm (op := .csrr) rfl (by simp [privForm, csrPriv]) rfl
  case fpstatAccess g op d a => cases h; exact isHead_csrForm rfl (csrPriv_fpstat op).symm rfl
  -- The model's arm of any other guarded instruction is `head` itself; the instructions without a guard are no case.
  all_goals cases h <;> exact ⟨_, _, rfl⟩

/-! ## What a head does -/

/-- A permitted head whose guard is false performs its signal and retires (R74, R249). -/
theorem IsHead.exec_false {s : State} {i : Instr} {g : Guard} {e : Option Eng} (h : IsHead s i g e) (hg : s.guardTrue g = false)
    (hp : permitted s i) : exec i s = .next (ended s (signalParcel s e) .seq) := by
  obtain ⟨sig, body, hx⟩ := h
  rw [hx, head, hg, issue_false (formTrap_permitted hp)]
  rfl

/-- A head that orders 7 or 8 refuse traps, whatever its guard (R73). -/
theorem IsHead.exec_trap {s : State} {i : Instr} {g : Guard} {e : Option Eng} {t : Trap} (h : IsHead s i g e)
    (ht : ∀ sig, formTrap s (formOf i e sig) = some t) : exec i s = .next (headTrap (barrelMoved s) s.cur t) := by
  obtain ⟨sig, body, hx⟩ := h
  rw [hx, head, issue_trap (ht sig)]

/-- A privileged form in user mode raises a privilege trap (R73). -/
theorem exec_privForm_user {i : Instr} {s : State} (hi : privForm i = true) (hs : s.sl.priv = false) :
    exec i s = .next (headTrap (barrelMoved s) s.cur (trapI 3 0 0)) := by
  obtain ⟨g, e, hg⟩ := guardOf_of_privForm hi
  exact (isHead_of_guardOf s hg).exec_trap fun _ => formTrap_user hi hs

/-- A matrix form on a staging core raises a role trap (R73). -/
theorem exec_matrixForm_staging {i : Instr} {s : State} (hi : matrixForm i = true) (hs : isCompute s.myCore = false) :
    exec i s = .next (headTrap (barrelMoved s) s.cur (trapI 4 0 0)) := by
  obtain ⟨g, e, hg⟩ := guardOf_of_matrixForm hi
  exact (isHead_of_guardOf s hg).exec_trap fun _ => formTrap_staging (privForm_of_matrixForm hi) hi hs

/-- Settles O7: each guarded instruction is the issue of one head, which orders 7 and 8 refuse, or which a false guard makes retire. -/
theorem guardsModesAndRoles : Obligations.GuardsModesAndRoles :=
  ⟨fun _ _ _ s hi hg hp => (isHead_of_guardOf s hi).exec_false hg hp, fun _ _ => ⟨exec_privForm_user, exec_matrixForm_staging⟩⟩

end Sys2Proof.Machine
end

section
/-!
PROOFS. O9, O10: the results of the two-source, one-source and divide forms. First the values of Tables 5.7 and 5.8 over the integers that the registers
hold, then the forms that write them.
-/

namespace Sys2Proof.Machine

/-! ## Words and the numbers that they hold -/

theorem toNat_wordN {n : Nat} (h : n < 2 ^ 64) : (wordN n).toNat = n := by
  rw [wordN, BitVec.toNat_ofNat, Nat.mod_eq_of_lt h]

theorem ofNat_toNat_word (a : Word) : BitVec.ofNat 64 a.toNat = a := by rw [BitVec.ofNat_toNat, BitVec.setWidth_eq]

/-! ## Values of the two-source forms (R138, R139) -/

/-- The high word of a number of two words. -/
theorem extractLsb'_high_ofInt (x : Int) : (BitVec.ofInt 128 x).extractLsb' 64 64 = BitVec.ofInt 64 (x / 2 ^ 64) := by
  apply BitVec.eq_of_toNat_eq
  rw [BitVec.extractLsb'_toNat, Nat.shiftRight_eq_div_pow, BitVec.toNat_ofInt, BitVec.toNat_ofInt]
  omega

theorem mulhValue_eq (a b : Word) : mulhValue a b = BitVec.ofInt 64 (a.toInt * b.toInt / 2 ^ 64) := by
  have hp : a.signExtend 128 * b.signExtend 128 = BitVec.ofInt 128 (a.toInt * b.toInt) := BitVec.ofInt_mul _ _ |>.symm
  rw [mulhValue, hp, extractLsb'_high_ofInt]

theorem mulhnValue_eq (a b : Word) : mulhnValue a b = BitVec.ofNat 64 (a.toNat * b.toNat / 2 ^ 64) := by
  have hp : a.setWidth 128 * b.setWidth 128 = BitVec.ofInt 128 ((a.toNat * b.toNat : Nat) : Int) := by
    rw [BitVec.ofInt_natCast, BitVec.ofNat_mul, BitVec.ofNat_toNat, BitVec.ofNat_toNat]
  rw [mulhnValue, hp, extractLsb'_high_ofInt]
  exact BitVec.ofInt_natCast 64 (a.toNat * b.toNat / 2 ^ 64)

theorem add_eq_ofInt (a b : Word) : a + b = BitVec.ofInt 64 (a.toInt + b.toInt) := by
  rw [BitVec.ofInt_add, BitVec.ofInt_toInt, BitVec.ofInt_toInt]

theorem sub_eq_ofInt (a b : Word) : a - b = BitVec.ofInt 64 (a.toInt - b.toInt) :=
  BitVec.eq_of_toInt_eq (by rw [BitVec.toInt_sub, BitVec.toInt_ofInt])

theorem mul_eq_ofNat (a b : Word) : a * b = BitVec.ofNat 64 (a.toNat * b.toNat) := by
  rw [BitVec.ofNat_mul, ofNat_toNat_word, ofNat_toNat_word]

theorem ite_slt_eq_min (a b : Word) : (if a.slt b then a else b) = BitVec.ofInt 64 (min a.toInt b.toInt) := by
  rw [min_def_lt, apply_ite (BitVec.ofInt 64), BitVec.ofInt_toInt, BitVec.ofInt_toInt]
  exact if_congr BitVec.slt_iff_toInt_lt rfl rfl

theorem ite_slt_eq_max (a b : Word) : (if a.slt b then b else a) = BitVec.ofInt 64 (max a.toInt b.toInt) := by
  rw [max_def_lt, apply_ite (BitVec.ofInt 64), BitVec.ofInt_toInt, BitVec.ofInt_toInt]
  exact if_congr BitVec.slt_iff_toInt_lt rfl rfl

theorem ite_ult_eq_min (a b : Word) : (if a.ult b then a else b) = BitVec.ofNat 64 (min a.toNat b.toNat) := by
  rw [min_def_lt, apply_ite (BitVec.ofNat 64), ofNat_toNat_word, ofNat_toNat_word]
  exact if_congr BitVec.ult_iff_toNat_lt rfl rfl

theorem ite_ult_eq_max (a b : Word) : (if a.ult b then b else a) = BitVec.ofNat 64 (max a.toNat b.toNat) := by
  rw [max_def_lt, apply_ite (BitVec.ofNat 64), ofNat_toNat_word, ofNat_toNat_word]
  exact if_congr BitVec.ult_iff_toNat_lt rfl rfl

theorem shiftLeft_eq_ofNat (a : Word) (n : Nat) : a <<< n = BitVec.ofNat 64 (a.toNat * 2 ^ n) := by
  apply BitVec.eq_of_toNat_eq
  rw [BitVec.toNat_shiftLeft, Nat.shiftLeft_eq, BitVec.toNat_ofNat]

theorem ushiftRight_eq_ofNat (a : Word) (n : Nat) : a >>> n = BitVec.ofNat 64 (a.toNat / 2 ^ n) := by
  rw [← Nat.shiftRight_eq_div_pow, ← BitVec.toNat_ushiftRight, ofNat_toNat_word]

theorem sshiftRight_eq_ofInt (a : Word) (n : Nat) : a.sshiftRight n = BitVec.ofInt 64 (a.toInt / 2 ^ n) := by
  rw [BitVec.sshiftRight, Int.shiftRight_eq_div_pow]
  norm_cast

/-- The second shift is by 64 when the amount is 0, and gives 0. -/
theorem rotateLeft_amount (a b : Word) :
    a.rotateLeft (amount b) = a <<< (b.toNat % 64) ||| a >>> (64 - b.toNat % 64) := by
  rw [BitVec.rotateLeft_def, amount, Nat.mod_mod]

theorem selValue_eq (d a b : Word) : selValue d a b = if d ≠ 0 then a else b := (ite_not ..).symm

theorem divValue_eq (a b : Word) :
    divValue a b = if b = 0 then BitVec.allOnes 64 else BitVec.ofInt 64 (a.toInt.tdiv b.toInt) := by
  rw [divValue, ← BitVec.ofInt_toInt (x := a.sdiv b)]
  congr 1
  exact BitVec.eq_of_toInt_eq (by rw [BitVec.ofInt_toInt, BitVec.toInt_sdiv, BitVec.toInt_ofInt])

theorem divnValue_eq (a b : Word) : divnValue a b = if b = 0 then BitVec.allOnes 64 else BitVec.ofNat 64 (a.toNat / b.toNat) := by
  have hq : a / b = BitVec.ofNat 64 (a.toNat / b.toNat) := by
    rw [← BitVec.toNat_udiv, ofNat_toNat_word]
  rw [divnValue, hq]

/-- The remainder is what the truncated quotient leaves; −2^63 by −1 leaves 0. -/
theorem remValue_eq (a b : Word) :
    remValue a b = if b = 0 then a else BitVec.ofInt 64 (a.toInt - b.toInt * a.toInt.tdiv b.toInt) := by
  rw [remValue, ← Int.tmod_def, ← BitVec.toInt_srem, BitVec.ofInt_toInt]

theorem remnValue_eq (a b : Word) :
    remnValue a b = if b = 0 then a else BitVec.ofNat 64 (a.toNat - b.toNat * (a.toNat / b.toNat)) := by
  rw [remnValue, ← Nat.mod_eq_sub_mul_div, ← BitVec.toNat_umod, ofNat_toNat_word]

/-! ## Bit counts (R138) -/

theorem zerosFrom_le (w : Word) (n i : Nat) : zerosFrom w n i ≤ n := by
  induction n generalizing i with
  | zero => exact le_rfl
  | succ n ih =>
    have := ih (i + 1)
    rw [zerosFrom]
    split <;> omega

/-- The bits that are counted are zero. -/
theorem getLsbD_of_lt_zerosFrom {w : Word} {n i j : Nat} (h : j < zerosFrom w n i) : w.getLsbD (i + j) = false := by
  induction n generalizing i j with
  | zero => exact absurd h (Nat.not_lt_zero j)
  | succ n ih =>
    rw [zerosFrom] at h
    split at h
    next => exact absurd h (Nat.not_lt_zero j)
    next hi =>
      cases j with
      | zero => exact Bool.eq_false_iff.2 hi
      | succ j =>
        rw [Nat.add_comm j 1, ← Nat.add_assoc]
        exact ih (by omega)

/-- A count that ends before its bound ends at a one. -/
theorem getLsbD_zerosFrom {w : Word} {n i : Nat} (h : zerosFrom w n i < n) : w.getLsbD (i + zerosFrom w n i) = true := by
  induction n generalizing i with
  | zero => exact absurd h (Nat.not_lt_zero _)
  | succ n ih =>
    rw [zerosFrom] at h ⊢
    split at h
    next hi => rwa [if_pos hi]
    next hi =>
      rw [if_neg hi, ← Nat.add_assoc]
      exact ih (by omega)

/-- A word that is not zero has a one below its width, at which the count of its zeros ends. -/
theorem zerosFrom_lt {w : Word} (h : w ≠ 0) : zerosFrom w 64 0 < 64 := by
  by_contra hn
  refine h (BitVec.eq_of_getLsbD_eq fun j hj => ?_)
  rw [← Nat.zero_add j, getLsbD_of_lt_zerosFrom (n := 64) (by omega)]
  exact BitVec.getLsbD_zero.symm

theorem zerosFrom_zero : zerosFrom 0 64 0 = 64 := rfl

theorem toNat_ctzValue (a : Word) : (ctzValue a).toNat = zerosFrom a 64 0 :=
  toNat_wordN ((zerosFrom_le a 64 0).trans_lt (by decide))

theorem toNat_clzValue (a : Word) : (clzValue a).toNat = zerosFrom a.reverse 64 0 :=
  toNat_wordN ((zerosFrom_le a.reverse 64 0).trans_lt (by decide))

/-- What fixes `ctz` (Table 5.7). -/
theorem ctzValue_spec (a : Word) :
    (ctzValue a).toNat ≤ 64 ∧ a.toNat % 2 ^ (ctzValue a).toNat = 0 ∧ (a ≠ 0 → a.getLsbD (ctzValue a).toNat = true) ∧
      (a = 0 → ctzValue a = 64) := by
  rw [toNat_ctzValue]
  refine ⟨zerosFrom_le a 64 0, Nat.eq_of_testBit_eq fun j => ?_, fun h => ?_, fun h => ?_⟩
  · rw [Nat.testBit_mod_two_pow, Nat.zero_testBit, Bool.and_eq_false_imp]
    intro hj
    rw [← Nat.zero_add j]
    exact getLsbD_of_lt_zerosFrom (of_decide_eq_true hj)
  · simpa using getLsbD_zerosFrom (zerosFrom_lt h)
  · rw [h, ctzValue, zerosFrom_zero]
    rfl

/-- What fixes `clz` (Table 5.7): the zeros that it counts are those above the highest one. -/
theorem clzValue_spec (a : Word) :
    (clzValue a).toNat ≤ 64 ∧ a.toNat < 2 ^ (64 - (clzValue a).toNat) ∧ (a ≠ 0 → 2 ^ (63 - (clzValue a).toNat) ≤ a.toNat) ∧
      (a = 0 → clzValue a = 64) := by
  have hle := zerosFrom_le a.reverse 64 0
  rw [toNat_clzValue]
  refine ⟨hle, Nat.lt_pow_two_of_testBit _ fun j hj => ?_, fun h => ?_, fun h => ?_⟩
  · by_cases hj64 : j < 64
    · have hz : a.reverse.getLsbD (0 + (63 - j)) = false := getLsbD_of_lt_zerosFrom (n := 64) (by omega)
      rwa [Nat.zero_add, BitVec.getLsbD_reverse, BitVec.getMsbD_eq_getLsbD, decide_eq_true (by omega), Bool.true_and,
        show 64 - 1 - (63 - j) = j by omega] at hz
    · exact BitVec.getLsbD_of_ge a j (not_lt.1 hj64)
  · have hlt := zerosFrom_lt (mt BitVec.reverse_eq_zero_iff.1 h)
    have ho := getLsbD_zerosFrom hlt
    rw [Nat.zero_add, BitVec.getLsbD_reverse, BitVec.getMsbD_eq_getLsbD, decide_eq_true hlt, Bool.true_and] at ho
    exact Nat.ge_two_pow_of_testBit ho
  · rw [h, clzValue, show (0 : Word).reverse = 0 from BitVec.reverse_eq_zero_iff.2 rfl, zerosFrom_zero]
    rfl

theorem toNat_popcValue (a : Word) : (popcValue a).toNat = (List.range 64).countP (fun i => a.getLsbD i) :=
  toNat_wordN (List.countP_le_length.trans_lt (by simp))

/-! ## Byte reversal (R138) -/

@[simp] theorem length_bytesOf (n v : Nat) : (bytesOf n v).length = n := by
  induction n generalizing v with
  | zero => rfl
  | succ n ih => simp [bytesOf, ih]

/-- Byte `k` of a number. -/
theorem getElem_bytesOf {n k : Nat} (v : Nat) (h : k < (bytesOf n v).length) : (bytesOf n v)[k] = BitVec.ofNat 8 (v / 2 ^ (8 * k)) := by
  induction n generalizing v k with
  | zero => simp at h
  | succ n ih =>
    cases k with
    | zero => simp [bytesOf]
    | succ k =>
      have h256 : v / 256 / 2 ^ (8 * k) = v / 2 ^ (8 * (k + 1)) := by
        rw [Nat.div_div_eq_div_mul, Nat.mul_succ, Nat.add_comm, Nat.pow_add]
      simp only [bytesOf, List.getElem_cons_succ, ih, h256]

/-- Byte `k` of the number that bytes make is byte `k` of them. -/
theorem ofBytes_div {l : List Byte} {k : Nat} (h : k < l.length) : BitVec.ofNat 8 (ofBytes l / 2 ^ (8 * k)) = l[k] := by
  induction l generalizing k with
  | nil => simp at h
  | cons b l ih =>
    have hb : b.toNat < 256 := b.isLt
    cases k with
    | zero => exact BitVec.eq_of_toNat_eq (by simpa [ofBytes] using hb)
    | succ k =>
      have h256 : ofBytes (b :: l) / 2 ^ (8 * (k + 1)) = ofBytes l / 2 ^ (8 * k) := by
        rw [Nat.mul_succ, Nat.add_comm, Nat.pow_add, ← Nat.div_div_eq_div_mul, ofBytes]
        congr 1
        omega
      rw [h256, ih (Nat.lt_of_succ_lt_succ h), List.getElem_cons_succ]

/-- A byte of a word that is given as a number. -/
theorem extractLsb'_byte_wordN {j : Nat} (hj : j < 8) (n : Nat) : (wordN n).extractLsb' (8 * j) 8 = BitVec.ofNat 8 (n / 2 ^ (8 * j)) := by
  apply BitVec.eq_of_toNat_eq
  interval_cases j <;> simp [wordN, Nat.shiftRight_eq_div_pow] <;> omega

/-- A byte of a word. -/
theorem ofNat_byte_toNat (a : Word) (k : Nat) : BitVec.ofNat 8 (a.toNat / 2 ^ (8 * k)) = a.extractLsb' (8 * k) 8 := by
  rw [← Nat.shiftRight_eq_div_pow]
  rfl

theorem extractLsb'_bswapValue (a : Word) {j : Nat} (hj : j < 8) :
    (bswapValue a).extractLsb' (8 * j) 8 = a.extractLsb' (8 * (7 - j)) 8 := by
  have hl : j < (bytesOf 8 a.toNat).reverse.length := by simpa using hj
  rw [bswapValue, extractLsb'_byte_wordN hj, ofBytes_div hl, List.getElem_reverse, getElem_bytesOf, ofNat_byte_toNat, length_bytesOf]

/-! ## The forms that write the values -/

/-- A two-source form whose value is `v`. -/
theorem two_result {s : State} {g : Guard} {d a b : Reg} {f : Word → Word → Word} {v : Word} (hg : s.guardTrue g = true)
    (hv : f (s.getS a) (s.getS b) = v) : two g d a b f s = .next (ended s (s.setS d v) .seq) := by
  rw [two_body hg, hv]

/-- Settles O10: the four values of Table 5.8. -/
theorem divideResults : Obligations.DivideResults := by
  intro s g d a b hg A B w
  refine ⟨?_, ?_, ?_, ?_⟩
  · exact (exec_div ..).trans (two_result hg (divValue_eq A B))
  · exact (exec_divn ..).trans (two_result hg (divnValue_eq A B))
  · exact (exec_rem ..).trans (two_result hg (remValue_eq A B))
  · exact (exec_remn ..).trans (two_result hg (remnValue_eq A B))

/-- Settles O9: the values of Table 5.7 and R150. -/
theorem twoSourceAndBitResults : Obligations.TwoSourceAndBitResults := by
  refine ⟨fun s g d a b hg => ?_, fun s g d a hg => ?_⟩
  · intro A B n w
    refine ⟨⟨?_, ?_, ?_, ?_, ?_, ?_, ?_, ?_, ?_⟩, ⟨?_, ?_, ?_, ?_, ?_, ?_, ?_⟩, ⟨?_, ?_, ?_, ?_⟩, ?_⟩
    · exact (exec_add ..).trans (two_result hg (add_eq_ofInt A B))
    · exact (exec_sub ..).trans (two_result hg (sub_eq_ofInt A B))
    · exact (exec_and ..).trans (two_body hg)
    · exact (exec_or ..).trans (two_body hg)
    · exact (exec_xor ..).trans (two_body hg)
    · exact (exec_andn ..).trans (two_body hg)
    · exact (exec_orn ..).trans (two_body hg)
    · exact (exec_mov ..).trans (one_body hg)
    · exact (exec_sel ..).trans (two_result hg (selValue_eq (s.getS d) A B))
    · exact (exec_min ..).trans (two_result hg (ite_slt_eq_min A B))
    · exact (exec_max ..).trans (two_result hg (ite_slt_eq_max A B))
    · exact (exec_minn ..).trans (two_result hg (ite_ult_eq_min A B))
    · exact (exec_maxn ..).trans (two_result hg (ite_ult_eq_max A B))
    · exact (exec_mul ..).trans (two_result hg (mul_eq_ofNat A B))
    · exact (exec_mulh ..).trans (two_result hg (mulhValue_eq A B))
    · exact (exec_mulhn ..).trans (two_result hg (mulhnValue_eq A B))
    · exact (exec_shl ..).trans (two_result hg (shiftLeft_eq_ofNat A n))
    · exact (exec_shr ..).trans (two_result hg (ushiftRight_eq_ofNat A n))
    · exact (exec_sar ..).trans (two_result hg (sshiftRight_eq_ofInt A n))
    · exact (exec_rotl ..).trans (two_result hg (rotateLeft_amount A B))
    · exact (exec_nop ..).trans (plain_body hg)
  · intro A
    refine ⟨clzValue A, ctzValue A, popcValue A, bswapValue A, ?_, ?_, ?_, ?_, clzValue_spec A, ctzValue_spec A, toNat_popcValue A,
      fun j => extractLsb'_bswapValue A⟩
    · exact (exec_clz ..).trans (one_body hg)
    · exact (exec_ctz ..).trans (one_body hg)
    · exact (exec_popc ..).trans (one_body hg)
    · exact (exec_bswap ..).trans (one_body hg)

end Sys2Proof.Machine
end

section
/-!
PROOFS. O12: transfers of control, software traps, the return from a trap, and loops.
-/

namespace Sys2Proof.Machine

/-! ## Targets (R65) -/

/-- The PC that the bits of a target name: a signed line offset above a 5-bit head index. -/
theorem targetPc_eq {w : Nat} (pc : Word) (t : BitVec (w + 5)) :
    targetPc pc t.toNat w = ((pc.extractLsb' 6 58 + (t.extractLsb' 5 w).signExtend 58) ++ t.extractLsb' 0 5) ++ (0#1) := by
  have hoff : t.extractLsb' 5 w = BitVec.ofNat w (t.toNat / 32) := by
    rw [← Nat.shiftRight_eq_div_pow t.toNat 5]
    rfl
  rw [targetPc, hoff]
  rfl

/-! ## Heads that transfer or trap (R144 to R146, R470) -/

/-- A head that always completes, and whose body makes `t`. -/
theorem plain_result {s t : State} {g : Guard} {f : State → State} (hg : s.guardTrue g = true) (hf : f s = t) :
    plain s g f = .next (ended s t .seq) := by
  rw [plain_body hg, hf]

/-- A scalar head whose body completes. -/
theorem head_retire {s t : State} {g : Guard} {body : State → Eff} {nx : Next} (hg : s.guardTrue g = true) (h : body s = .retire t nx) :
    head s g {} body = .next (ended s t nx) := by
  rw [head_body hg, runBody_retire rfl h]

/-- A scalar head that traps after it has retired. -/
theorem head_post {s t : State} {g : Guard} {body : State → Eff} {x : Trap} (hg : s.guardTrue g = true) (h : body s = .post t x) :
    head s g {} body = .next (endedTrap s t x) := by
  rw [head_body hg, runBody_post rfl h]

/-- A scalar head that raises a precise trap. -/
theorem head_trap {s t : State} {g : Guard} {body : State → Eff} {x : Trap} (hg : s.guardTrue g = true) (h : body s = .trap t x) :
    head s g {} body = .next (headTrap (barrelMoved t) t.cur x) := by
  rw [head_body hg, runBody_trap h]

/-- The trap of a code that the head carries. -/
theorem trapI_code (cause : Nat) (code : BitVec 16) : trapI cause 0 code.toNat = ⟨cause, 0, code.setWidth 32, 0, 0, []⟩ := by
  rw [trapI, BitVec.ofNat_toNat]

theorem exec_eret_priv {s : State} {g : Guard} (hg : s.guardTrue g = true) (hp : s.sl.priv = true) :
    exec (.eret g) s = .next (ended s (s.setSl { s.sl with priv := s.sl.ppriv, intrap := false }) (.jump s.sl.epc)) := by
  rw [exec_eret, execEret, head_priv hg hp, runBody_retire rfl rfl]
  rfl

/-! ## Loops (R147, R148) -/

/-- No loop set-up may end before its body, and none fits where both loops are active. -/
theorem loopSetup_illegal {s : State} {n : BitVec 32} {le : Word}
    (h : le.toNat < (nextPc s).toNat ∨ (s.sl.lao = true ∧ s.sl.lai = true)) :
    loopSetup s n le = .trap s (trapI 1 0 (headParcel s).toNat) := by
  rw [loopSetup, if_pos (by simpa [BitVec.ult_iff_toNat_lt] using h)]

/-- A set-up that is legal goes on by its count and by the loop that is active. -/
theorem loopSetup_legal {s : State} {n : BitVec 32} {le : Word} (hle : (nextPc s).toNat ≤ le.toNat) (hl : ¬(s.sl.lao = true ∧ s.sl.lai = true)) :
    loopSetup s n le =
      if n = 0 then .retire s (.skip le)
      else if s.sl.lao then .retire (s.setSl { s.sl with lci := n, lbi := nextPc s, lei := le, lai := true }) .seq
      else .retire (s.setSl { s.sl with lco := n, lbo := nextPc s, leo := le, lao := true }) .seq := by
  have hult : le.ult (nextPc s) = false := Bool.eq_false_iff.2 fun h => absurd (BitVec.ult_iff_toNat_lt.1 h) (not_lt.2 hle)
  rw [loopSetup, if_neg (by simpa [hult] using hl)]

/-- A loop instruction with count `n` and target bits `u` is a head that sets up the loop. -/
theorem exec_loopInstr {s : State} {g : Guard} {a : Reg} {count u : BitVec 16} {i : Instr} {n : BitVec 32}
    (hi : i = .lpset g count u ∧ n = count.setWidth 32 ∨ i = .lpsetr g a u ∧ n = (s.getS a).setWidth 32) :
    ∃ body, exec i s = head s g {} body ∧ body s = loopSetup s n (targetPc s.sl.pc u.toNat 11) := by
  rcases hi with ⟨rfl, rfl⟩ | ⟨rfl, rfl⟩
  · exact ⟨_, exec_lpset .., rfl⟩
  · exact ⟨_, exec_lpsetr .., rfl⟩

/-- Settles O12: what each body does, and the four branches of a loop set-up. -/
theorem transferAndLoopResults : Obligations.TransferAndLoopResults := by
  refine ⟨fun s g d a t code hg => ?_, fun s g a count u hg => ?_⟩
  · intro T link
    have hT : targetPc s.sl.pc t.toNat 27 = T := targetPc_eq (w := 27) s.sl.pc t
    refine ⟨?_, ?_, ?_, ?_, ?_, exec_eret_priv hg⟩
    · rw [exec_br, execBr, head_retire hg rfl, hT]
    · rw [exec_jl, execJl, head_retire hg rfl, hT]
      rfl
    · exact (exec_jlr ..).trans (head_retire hg rfl)
    · rw [exec_trap, execTrap, head_post hg rfl, trapI_code]
    · rw [exec_brk, execBrk, head_post hg rfl, trapI_code]
  · intro l lb le
    have hle : targetPc l.pc u.toNat 11 = le := targetPc_eq (w := 11) l.pc u
    refine ⟨fun i n hi => ?_, fun hi => ?_, fun hi ho => ?_, fun hi ho => ?_⟩
    · obtain ⟨body, hx, hbody⟩ := exec_loopInstr hi
      rw [hle] at hbody
      rw [hx]
      refine ⟨fun hbad => head_trap hg (hbody.trans (loopSetup_illegal hbad)), fun hend hboth => ?_⟩
      rw [loopSetup_legal hend hboth] at hbody
      refine ⟨fun hn => ?_, fun hn ho => ?_, fun hn ho => ?_⟩
      · exact head_retire hg (by rw [hbody, if_pos hn])
      · exact head_retire hg (by rw [hbody, if_neg hn, if_neg (ne_true_of_eq_false ho)]; rfl)
      · exact head_retire hg (by rw [hbody, if_neg hn, if_pos ho]; rfl)
    · exact (exec_lpbrk ..).trans <| plain_result hg (if_pos hi)
    · exact (exec_lpbrk ..).trans <| plain_result hg ((if_neg (ne_true_of_eq_false hi)).trans (if_pos ho))
    · exact (exec_lpbrk ..).trans <| plain_result hg ((if_neg (ne_true_of_eq_false hi)).trans (if_neg (ne_true_of_eq_false ho)))

end Sys2Proof.Machine
end

section
/-!
PROOFS. O33: semaphores. First what each operation of a semaphore file does and leaves alone, then the tests of the waits in age order, a signal, and the
four instructions.
-/

namespace Sys2Proof.Machine

/-! ## Reads and writes of a semaphore file (R247) -/

theorem semGet_lt (s : State) (tile i : Nat) : semGet s tile i < 65536 := (tget 0 (s.tile tile).sem i).isLt

@[simp] theorem semPut_slots (s : State) (tile i v : Nat) : (semPut s tile i v).slots = s.slots := rfl
@[simp] theorem semPut_slot (s : State) (tile i v m : Nat) : (semPut s tile i v).slot m = s.slot m := rfl
@[simp] theorem semPut_mem (s : State) (tile i v : Nat) : (semPut s tile i v).mem = s.mem := rfl
@[simp] theorem semPut_cur (s : State) (tile i v : Nat) : (semPut s tile i v).cur = s.cur := rfl
@[simp] theorem semPut_upd (s : State) (tile i v : Nat) : ((semPut s tile i v).tile tile).upd = (s.tile tile).upd := by simp [semPut]
@[simp] theorem semPut_semSat (s : State) (tile i v : Nat) : ((semPut s tile i v).tile tile).semSat = (s.tile tile).semSat := by simp [semPut]
@[simp] theorem semPut_semFirst (s : State) (tile i v : Nat) : ((semPut s tile i v).tile tile).semFirst = (s.tile tile).semFirst := by
  simp [semPut]

/-- A value that fits reads back. -/
theorem semGet_semPut_same {s : State} {tile i v : Nat} (h : v ≤ 65535) : semGet (semPut s tile i v) tile i = v := by
  simp only [semGet, semPut, State.setTile_tile_same, tget_tset_same, BitVec.toNat_ofNat]
  omega

theorem semGet_semPut_other {s : State} {tile i j v : Nat} (h : i ≠ j) : semGet (semPut s tile j v) tile i = semGet s tile i := by
  simp [semGet, semPut, h]

@[simp] theorem semGet_setSlot (s : State) (m : Nat) (l : Slot) (tile i : Nat) : semGet (s.setSlot m l) tile i = semGet s tile i := rfl

@[simp] theorem semSaturated_slots (s : State) (tile j : Nat) : (semSaturated s tile j).slots = s.slots := rfl
@[simp] theorem semSaturated_mem (s : State) (tile j : Nat) : (semSaturated s tile j).mem = s.mem := rfl
@[simp] theorem semSaturated_upd (s : State) (tile j : Nat) : ((semSaturated s tile j).tile tile).upd = (s.tile tile).upd := by
  simp [semSaturated]
@[simp] theorem semSaturated_semSat (s : State) (tile j : Nat) : ((semSaturated s tile j).tile tile).semSat = true := by simp [semSaturated]
@[simp] theorem semSaturated_semFirst (s : State) (tile j : Nat) : ((semSaturated s tile j).tile tile).semFirst =
    if (s.tile tile).semSat then (s.tile tile).semFirst else BitVec.ofNat 8 j := by simp [semSaturated]
@[simp] theorem semGet_semSaturated (s : State) (tile j i : Nat) : semGet (semSaturated s tile j) tile i = semGet s tile i := by
  simp [semGet, semSaturated]

/-! ## An addition (R247) -/

/-- An addition beyond 65,535 saturates and is recorded. -/
theorem semAdd_saturates {s : State} {tile j n : Nat} (h : 65535 < semGet s tile j + n) :
    semAdd s tile j n = semPut (semSaturated s tile j) tile j 65535 := if_pos h

theorem semAdd_fits {s : State} {tile j n : Nat} (h : ¬65535 < semGet s tile j + n) :
    semAdd s tile j n = semPut s tile j (semGet s tile j + n) := if_neg h

@[simp] theorem semAdd_slots (s : State) (tile j n : Nat) : (semAdd s tile j n).slots = s.slots := by
  by_cases h : 65535 < semGet s tile j + n
  · rw [semAdd_saturates h, semPut_slots, semSaturated_slots]
  · rw [semAdd_fits h, semPut_slots]

@[simp] theorem semAdd_mem (s : State) (tile j n : Nat) : (semAdd s tile j n).mem = s.mem := by
  by_cases h : 65535 < semGet s tile j + n
  · rw [semAdd_saturates h, semPut_mem, semSaturated_mem]
  · rw [semAdd_fits h, semPut_mem]

@[simp] theorem semAdd_upd (s : State) (tile j n : Nat) : ((semAdd s tile j n).tile tile).upd = (s.tile tile).upd := by
  by_cases h : 65535 < semGet s tile j + n
  · rw [semAdd_saturates h, semPut_upd, semSaturated_upd]
  · rw [semAdd_fits h, semPut_upd]

theorem semGet_semAdd_same (s : State) (tile j n : Nat) : semGet (semAdd s tile j n) tile j = min 65535 (semGet s tile j + n) := by
  by_cases h : 65535 < semGet s tile j + n
  · rw [semAdd_saturates h, semGet_semPut_same le_rfl, min_eq_left h.le]
  · rw [semAdd_fits h, semGet_semPut_same (not_lt.1 h), min_eq_right (not_lt.1 h)]

theorem semGet_semAdd_other {s : State} {tile i j n : Nat} (hij : i ≠ j) : semGet (semAdd s tile j n) tile i = semGet s tile i := by
  by_cases h : 65535 < semGet s tile j + n
  · rw [semAdd_saturates h, semGet_semPut_other hij, semGet_semSaturated]
  · rw [semAdd_fits h, semGet_semPut_other hij]

theorem semAdd_semSat (s : State) (tile j n : Nat) :
    ((semAdd s tile j n).tile tile).semSat = ((s.tile tile).semSat || decide (65535 < semGet s tile j + n)) := by
  by_cases h : 65535 < semGet s tile j + n
  · simp [semAdd_saturates h, h]
  · simp [semAdd_fits h, h]

/-- The first saturation since SEMST was clear names its semaphore. -/
theorem semAdd_semFirst {s : State} {tile j n : Nat} (h : 65535 < semGet s tile j + n) (hs : (s.tile tile).semSat = false) :
    ((semAdd s tile j n).tile tile).semFirst = BitVec.ofNat 8 j := by
  simp [semAdd_saturates h, hs]

/-! ## The tests of the waits (R248) -/

/-- The test of one wait, as `semSettle` performs it. -/
def waitTested (tile : Nat) (s : State) (w : Nat × Nat × Nat × Nat) : State :=
  if w.2.2.2 ≤ semGet s tile w.2.2.1 then
    (semPut s tile w.2.2.1 (semGet s tile w.2.2.1 - w.2.2.2)).setSlot w.2.1 { s.slot w.2.1 with wait := .none, taken := some w.2.2 }
  else s

theorem semSettle_eq (s : State) (tile : Nat) :
    semSettle s tile = ((semWaiters s tile).foldl (fun l w => byAge w l) []).foldl (waitTested tile) s := rfl

/-- A wait that is met takes its threshold, and its slot is ready. -/
theorem waitTested_met {tile : Nat} {s : State} {age m j thr : Nat} (h : thr ≤ semGet s tile j) :
    semGet (waitTested tile s (age, m, j, thr)) tile j = semGet s tile j - thr ∧
      (waitTested tile s (age, m, j, thr)).slot m = { s.slot m with wait := .none, taken := some (j, thr) } ∧
      ∀ m', m' ≠ m → (waitTested tile s (age, m, j, thr)).slot m' = s.slot m' := by
  have hfits : semGet s tile j - thr ≤ 65535 := (Nat.sub_le ..).trans (Nat.le_of_lt_succ (semGet_lt s tile j))
  rw [waitTested, if_pos h]
  refine ⟨?_, State.setSlot_slot_same .., fun m' hm => ?_⟩
  · rw [semGet_setSlot, semGet_semPut_same hfits]
  · rw [State.setSlot_slot_other _ _ hm, semPut_slot]

theorem waitTested_unmet {tile : Nat} {s : State} {age m j thr : Nat} (h : semGet s tile j < thr) : waitTested tile s (age, m, j, thr) = s :=
  if_neg (not_le.2 h)

/-- A test is about the slots' waits alone: it changes no other part of a slot, and not which slot executes. -/
theorem waitTested_frame (tile : Nat) (s : State) (w : Nat × Nat × Nat × Nat) :
    (waitTested tile s w).cur = s.cur ∧ ∀ m, ((waitTested tile s w).slot m).s = (s.slot m).s := by
  rw [waitTested]
  split
  next =>
    refine ⟨rfl, fun m => ?_⟩
    by_cases hm : m = w.2.1
    · rw [hm, State.setSlot_slot_same]
    · rw [State.setSlot_slot_other _ _ hm, semPut_slot]
  next => exact ⟨rfl, fun _ => rfl⟩

theorem foldl_waitTested_frame (tile : Nat) (ws : List (Nat × Nat × Nat × Nat)) (s : State) :
    (ws.foldl (waitTested tile) s).cur = s.cur ∧ ∀ m, ((ws.foldl (waitTested tile) s).slot m).s = (s.slot m).s := by
  induction ws generalizing s with
  | nil => exact ⟨rfl, fun _ => rfl⟩
  | cons w ws ih =>
    obtain ⟨hc, hs⟩ := ih (waitTested tile s w)
    obtain ⟨hc', hs'⟩ := waitTested_frame tile s w
    exact ⟨hc.trans hc', fun m => (hs m).trans (hs' m)⟩

@[simp] theorem semTested_cur (s : State) (tile : Nat) : (semTested s tile).cur = s.cur := (foldl_waitTested_frame tile _ s).1

@[simp] theorem semTested_getS (s : State) (tile : Nat) (a : Reg) : (semTested s tile).getS a = s.getS a := by
  have hs : (semTested s tile).sl.s = s.sl.s := by
    rw [State.sl, semTested_cur]
    exact (foldl_waitTested_frame tile _ s).2 s.cur
  simp only [State.getS, hs]

theorem semTested_slots (s : State) (tile : Nat) : (semTested s tile).slots = (semSettle s tile).slots := rfl

theorem semTested_slot (s : State) (tile m : Nat) : (semTested s tile).slot m = (semSettle s tile).slot m := rfl

theorem semGet_semTested (s : State) (tile j : Nat) : semGet (semTested s tile) tile j = semGet (semSettle s tile) tile j := by
  simp [semGet, semTested]

@[simp] theorem semNow_cur (s : State) (tile : Nat) : (semNow s tile).cur = s.cur := by
  rw [semNow]
  split
  next => rfl
  next => exact semTested_cur s tile

@[simp] theorem semNow_myTile (s : State) (tile : Nat) : (semNow s tile).myTile = s.myTile := congrArg tileOf (semNow_cur s tile)

theorem semWaiters_congr {s t : State} {tile : Nat} (h : t.slots = s.slots) : semWaiters t tile = semWaiters s tile := by
  simp only [semWaiters, State.slot, h]

/-! Which waits there are says which tests follow. -/

theorem semSettle_of_nil {s : State} {tile : Nat} (h : semWaiters s tile = []) : semSettle s tile = s := by
  rw [semSettle_eq, h]
  rfl

theorem semSettle_of_one {s : State} {tile : Nat} {w : Nat × Nat × Nat × Nat} (h : semWaiters s tile = [w]) :
    semSettle s tile = waitTested tile s w := by
  rw [semSettle_eq, h]
  rfl

/-- Of two waits the older one is tested first. -/
theorem semSettle_of_two {s : State} {tile : Nat} {w1 w2 : Nat × Nat × Nat × Nat} (hage : w1.1 < w2.1)
    (h : semWaiters s tile = [w1, w2] ∨ semWaiters s tile = [w2, w1]) :
    semSettle s tile = waitTested tile (waitTested tile s w1) w2 := by
  have hsorted : (semWaiters s tile).foldl (fun l w => byAge w l) [] = [w1, w2] := by
    rcases h with h | h <;> rw [h]
    · simp [byAge, not_lt_of_gt hage]
    · simp [byAge, hage]
  rw [semSettle_eq, hsorted]
  rfl

theorem semTested_of_nil {s : State} {tile : Nat} (hw : semWaiters s tile = []) (j : Nat) :
    semGet (semTested s tile) tile j = semGet s tile j ∧ (semTested s tile).slots = s.slots := by
  rw [semGet_semTested, semTested_slots, semSettle_of_nil hw]
  exact ⟨rfl, rfl⟩

theorem semTested_of_one {s : State} {tile age m j thr : Nat} (hw : semWaiters s tile = [(age, m, j, thr)]) :
    (thr ≤ semGet s tile j → semGet (semTested s tile) tile j = semGet s tile j - thr ∧
      (semTested s tile).slot m = { s.slot m with wait := .none, taken := some (j, thr) }) ∧
    (semGet s tile j < thr → semGet (semTested s tile) tile j = semGet s tile j ∧ (semTested s tile).slots = s.slots) := by
  rw [semGet_semTested, semTested_slots, semTested_slot, semSettle_of_one hw]
  refine ⟨fun hle => ?_, fun hlt => ?_⟩
  · obtain ⟨hget, hslot, -⟩ := waitTested_met (m := m) (age := age) hle
    exact ⟨hget, hslot⟩
  · rw [waitTested_unmet hlt]
    exact ⟨rfl, rfl⟩

/-- Where the older of two waits on one semaphore is met and leaves too little for the younger one, that one goes on waiting. -/
theorem semTested_of_two {s : State} {tile j a1 m1 t1 a2 m2 t2 : Nat} (hage : a1 < a2) (hm : m1 ≠ m2)
    (hw : semWaiters s tile = [(a1, m1, j, t1), (a2, m2, j, t2)] ∨ semWaiters s tile = [(a2, m2, j, t2), (a1, m1, j, t1)])
    (h1 : t1 ≤ semGet s tile j) (h2 : semGet s tile j - t1 < t2) :
    semGet (semTested s tile) tile j = semGet s tile j - t1 ∧
      (semTested s tile).slot m1 = { s.slot m1 with wait := .none, taken := some (j, t1) } ∧ (semTested s tile).slot m2 = s.slot m2 := by
  obtain ⟨hget, hslot, hothers⟩ := waitTested_met (m := m1) (age := a1) h1
  rw [semGet_semTested, semTested_slot, semTested_slot, semSettle_of_two hage hw, waitTested_unmet (hget.trans_lt h2)]
  exact ⟨hget, hslot, hothers m2 hm.symm⟩

/-! ## An update and the cycle (R248) -/

/-- An update uses its effect at one of two states: before or after the tests of an earlier cycle. -/
theorem semUpdate_congr {s : State} {tile k : Nat} {cores : List Nat} {f h : State → State} (hs : f s = h s)
    (ht : f (semTested s tile) = h (semTested s tile)) : semUpdate s tile k cores f = semUpdate s tile k cores h := by
  have harg : ∀ c : Prop, ∀ _ : Decidable c, f (if c then semTested s tile else s) = h (if c then semTested s tile else s) := by
    intro c _
    split
    next => exact ht
    next => exact hs
  simp only [semUpdate, harg]

/-- A tile of a table that is in the middle of a cycle is listed there. -/
theorem any_upd_of_tget {l : Tbl Tile} {tile : Nat} (h : (tget Tile.init l tile).upd ≠ 0) : (l.any fun p => p.2.upd != 0) = true := by
  induction l with
  | nil => exact absurd rfl h
  | cons p l ih =>
    rw [tget] at h
    rw [List.any_cons, Bool.or_eq_true]
    split at h
    next => exact .inl (bne_iff_ne.2 h)
    next => exact .inr (ih h)

/-- A cycle in which a semaphore file has been updated is not over. -/
theorem updating_of_upd {s : State} {tile : Nat} (h : (s.tile tile).upd ≠ 0) : updating s = true := any_upd_of_tget h

theorem tick_cc_of_updating {s : State} (h : updating s = true) : (tick s).cc = s.cc := if_pos h

/-! ## A signal (R247, R248) -/

theorem semSignal_zero (s : State) (tile j : Nat) : semSignal s tile j 0 = s := rfl

/-- A signal adds, and marks the update where slots wait; it is the last kind of its cycle, so it never comes after the cycle's tests. -/
theorem semSignal_eq {s : State} {tile j n : Nat} (hn : n ≠ 0) (hu : (s.tile tile).upd ≤ 3) :
    semSignal s tile j n =
      if semWaiters s tile = [] then semAdd s tile j n
      else (semAdd s tile j n).setTile tile { (semAdd s tile j n).tile tile with upd := 3 } := by
  have hlate : ¬(3 < (s.tile tile).upd ∨ 3 = (s.tile tile).upd ∧ 3 < 3) := by omega
  rw [semSignal, if_neg hn, semUpdate, if_neg hlate, semWaiters_congr (semAdd_slots ..)]
  rfl

/-- What a signal does to its tile and leaves alone, whatever waits. -/
theorem semSignal_spec {s : State} {tile : Nat} (j n : Nat) (hu : (s.tile tile).upd ≤ 3) :
    semGet (semSignal s tile j n) tile j = min 65535 (semGet s tile j + n) ∧
      (∀ i, i ≠ j → semGet (semSignal s tile j n) tile i = semGet s tile i) ∧ (semSignal s tile j n).slots = s.slots ∧
      (semSignal s tile j n).mem = s.mem ∧ ((semSignal s tile j n).tile tile).upd ≤ 3 := by
  by_cases hn : n = 0
  · have hv := semGet_lt s tile j
    rw [hn, semSignal_zero]
    exact ⟨by omega, fun _ _ => rfl, rfl, rfl, hu⟩
  · have hsem : ∀ i, semGet (semSignal s tile j n) tile i = semGet (semAdd s tile j n) tile i := by
      intro i
      rw [semSignal_eq hn hu]
      split
      next => rfl
      next => simp [semGet]
    refine ⟨(hsem j).trans (semGet_semAdd_same ..), fun i hi => (hsem i).trans (semGet_semAdd_other hi), ?_⟩
    rw [semSignal_eq hn hu]
    split
    next => exact ⟨semAdd_slots .., semAdd_mem .., (semAdd_upd ..).trans_le hu⟩
    next => exact ⟨semAdd_slots .., semAdd_mem .., by simp⟩

/-- A signal records a saturation in SEMST. -/
theorem semSignal_semst {s : State} {tile j n : Nat} (hn : n ≠ 0) (hu : (s.tile tile).upd ≤ 3) :
    ((semSignal s tile j n).tile tile).semSat = ((semAdd s tile j n).tile tile).semSat ∧
      ((semSignal s tile j n).tile tile).semFirst = ((semAdd s tile j n).tile tile).semFirst := by
  rw [semSignal_eq hn hu]
  split
  next => exact ⟨rfl, rfl⟩
  next => simp

/-- Where slots wait, the cycle of a signal is not over until they are tested. -/
theorem semSignal_holds_cycle {s : State} {tile j n : Nat} (hn : n ≠ 0) (hu : (s.tile tile).upd ≤ 3) (hw : semWaiters s tile ≠ []) :
    ((semSignal s tile j n).tile tile).upd = 3 ∧ (tick (semSignal s tile j n)).cc = (semSignal s tile j n).cc := by
  have hupd : ((semSignal s tile j n).tile tile).upd = 3 := by simp [semSignal_eq hn hu, hw]
  exact ⟨hupd, tick_cc_of_updating (updating_of_upd (tile := tile) (by omega))⟩

/-! ## Wait parcels and `swt` (R247, R267) -/

/-- A wait parcel of threshold 0, or one that has been taken, is met. -/
theorem waitParcel_taken {s : State} {e : Eng} (h : e.wt.toNat = 0 ∨ s.sl.taken.isSome = true) : waitParcel s e = (s, true) :=
  if_pos (by simpa using h)

section
variable {s w : State} {e : Eng} (hT : 0 < e.wt.toNat) (htaken : s.sl.taken = none) (hw : semNow s s.myTile = w)
include hT htaken hw

theorem waitParcel_now_taken (h : w.sl.taken.isSome = true) : waitParcel s e = (w, true) := by
  rw [waitParcel, if_neg (by simp [hT.ne', htaken]), hw]
  exact if_pos h

theorem waitParcel_takes (h : w.sl.taken = none) (hle : e.wt.toNat ≤ semGet w s.myTile e.wi.toNat) :
    waitParcel s e = ((semPut w s.myTile e.wi.toNat (semGet w s.myTile e.wi.toNat - e.wt.toNat)).setSl
      { w.sl with taken := some (e.wi.toNat, e.wt.toNat) }, true) := by
  have htile : w.myTile = s.myTile := hw ▸ semNow_myTile ..
  rw [← htile] at hle ⊢
  rw [waitParcel, if_neg (by simp [hT.ne', htaken]), hw]
  exact (if_neg (by simp [h])).trans (if_pos hle)

theorem waitParcel_blocks (h : w.sl.taken = none) (hlt : semGet w s.myTile e.wi.toNat < e.wt.toNat) (hwait : w.sl.wait = .none) :
    waitParcel s e = (w.older.setSl { w.sl with wait := .sem e.wi.toNat e.wt.toNat (w.age + 1) }, false) := by
  have htile : w.myTile = s.myTile := hw ▸ semNow_myTile ..
  rw [← htile] at hlt
  rw [waitParcel, if_neg (by simp [hT.ne', htaken]), hw]
  refine (if_neg (by simp [h])).trans ((if_neg (not_le.2 hlt)).trans ?_)
  rw [hwait]
  rfl

end

/-- `swt` ends in the state that its wait parcel leaves. -/
theorem exec_swt_met {s t : State} {g : Guard} {i n : BitVec 8} (hg : s.guardTrue g = true) (h : waitParcel s ⟨i, n, 0, 0⟩ = (t, true)) :
    exec (.swt g i n) s = .next (ended t t .seq) := by
  rw [exec_swt, execSwt, head, hg, issue_body_eng rfl rfl (by rw [h]), runBody_retire_sig rfl, issuedAt, h]
  rfl

/-- A head whose wait parcel is not met does not issue. -/
theorem issue_unmet {s t : State} {f : Form} {e : Eng} {body : State → Eff} (hf : formTrap s f = none) (he : f.eng = some e)
    (hw : waitParcel s e = (t, false)) : issue s f true body = t := by
  simp [issue, hf, he, hw]

/-- `swt` blocks where its wait parcel is not met. -/
theorem exec_swt_unmet {s t : State} {g : Guard} {i n : BitVec 8} (hg : s.guardTrue g = true) (h : waitParcel s ⟨i, n, 0, 0⟩ = (t, false)) :
    exec (.swt g i n) s = .next t := by
  rw [exec_swt, execSwt, head, hg, issue_unmet rfl rfl h]

/-- The threshold that a slot has taken is no part of the end of its head. -/
theorem ended_taken (s : State) (tile i v : Nat) (x : Option (Nat × Nat)) (t : State) (nx : Next) :
    ended ((semPut s tile i v).setSl { s.sl with taken := x }) t nx = ended s t nx := by
  simp [ended, stepping, State.setSl, State.sl]

/-! ## `ssig`, `sset` and `srd` (R249, R267) -/

/-- `ssig` performs its signal parcel whatever its guard says. -/
theorem exec_ssig_result (s : State) (g : Guard) (j n : BitVec 8) :
    exec (.ssig g j n) s = .next (ended s (signalParcel s (some ⟨0, 0, j, n⟩)) .seq) := by
  rw [exec_ssig, execSsig, head]
  cases hg : s.guardTrue g
  case false => rw [issue_false rfl]
  case true =>
    have hmet : waitParcel s ⟨0, 0, j, n⟩ = (s, true) := waitParcel_taken (.inl rfl)
    rw [issue_body_eng rfl rfl (by rw [hmet]), runBody_retire_sig rfl, issuedAt, hmet]
    rfl

theorem signalParcel_pos {s : State} {j n : BitVec 8} (h : 0 < n) :
    signalParcel s (some ⟨0, 0, j, n⟩) =
      semUpdate (storesEnter s s.cur) s.myTile 3 [s.myCore] fun u => semAdd u u.myTile j.toNat n.toNat :=
  if_neg ((BitVec.pos_iff_ne_zero _).1 h)

theorem exec_srd_result {s : State} {g : Guard} {d : Reg} {i : BitVec 8} (hg : s.guardTrue g = true) :
    exec (.srd g d i) s = .next (ended s ((semNow s s.myTile).setS d (wordN (semGet (semNow s s.myTile) s.myTile i.toNat))) .seq) :=
  (exec_srd ..).trans (plain_result hg (by simp only [semNow_myTile]))

/-- The old value of a semaphore, written to the register that `sset` names. -/
def semOld (u : State) (d : Reg) (i : Nat) : State := u.setS d (wordN (semGet u u.myTile i))

theorem semOld_myTile (u : State) (d : Reg) (i : Nat) : (semOld u d i).myTile = u.myTile := by
  rw [semOld, State.setS]
  split <;> rfl

/-- What `sset` of value `v` makes of the state in which its update takes place (R247, R267). -/
def semSetTo (v : Nat) (d : Reg) (i : Nat) (u : State) : State :=
  if 65535 < v then semPut (semSaturated (semOld u d i) u.myTile i) u.myTile i 65535 else semPut (semOld u d i) u.myTile i v

theorem semSetTo_fits {v : Nat} (h : v ≤ 65535) (d : Reg) (i : Nat) :
    semSetTo v d i = fun u => semPut (u.setS d (wordN (semGet u u.myTile i))) u.myTile i v :=
  funext fun _ => if_neg (not_lt.2 h)

theorem semSetTo_saturates {v : Nat} (h : 65535 < v) (d : Reg) (i : Nat) :
    semSetTo v d i = fun u => semPut (semSaturated (u.setS d (wordN (semGet u u.myTile i))) u.myTile i) u.myTile i 65535 :=
  funext fun _ => if_pos h

/-- `sset` takes its value from the register that no test changes. -/
theorem exec_sset_result {s : State} {g : Guard} {d a : Reg} {i : BitVec 8} (hg : s.guardTrue g = true) :
    exec (.sset g d a i) s = .next (ended s
      (semUpdate s s.myTile (if s.myCore % 2 = 1 then 2 else 1) [s.myCore] (semSetTo (s.getS a).toNat d i.toNat)) .seq) := by
  refine (exec_sset ..).trans (plain_result hg ?_)
  have hkind : (if isCompute s.myCore then 2 else 1) = if s.myCore % 2 = 1 then 2 else 1 := if_congr beq_iff_eq rfl rfl
  rw [hkind]
  have hbody : ∀ u : State, u.getS a = s.getS a →
      (let v := (u.getS a).toNat
        let t := semOld u d i.toNat
        if 65535 < v then semPut (semSaturated t t.myTile i.toNat) t.myTile i.toNat 65535 else semPut t t.myTile i.toNat v) =
      semSetTo (s.getS a).toNat d i.toNat u := by
    intro u hu
    simp only [hu, semOld_myTile, semSetTo]
  exact semUpdate_congr (hbody s rfl) (hbody _ (semTested_getS ..))

/-! ## O33 -/

/-- Settles O33: the four instructions by their results, and the tests that follow a signal by the waits that there are. -/
theorem semaphores : Obligations.Semaphores := by
  refine ⟨fun s g d a i t j n => ?_, fun s tile j n hu => ?_⟩
  · intro tile w v T
    refine ⟨fun h => if_pos h,
      fun hg => ⟨fun h => exec_swt_met hg (waitParcel_taken h), fun hT hs => ⟨fun h => ?_, fun h hle => ?_, fun h hlt hwait => ?_⟩⟩,
      exec_ssig_result s g j n, rfl, signalParcel_pos, fun hg => ⟨exec_srd_result hg, fun hA => ?_, fun hA => ?_⟩⟩
    · exact exec_swt_met hg (waitParcel_now_taken hT hs rfl h)
    · rw [exec_swt_met hg (waitParcel_takes hT hs rfl h hle), ended_taken]
    · exact exec_swt_unmet hg (waitParcel_blocks hT hs rfl h hlt hwait)
    · rw [exec_sset_result hg, semSetTo_fits hA]
    · rw [exec_sset_result hg, semSetTo_saturates hA]
  · intro v v' t u
    obtain ⟨hget, hother, hslots, hmem, hu'⟩ := semSignal_spec j n hu
    have hslot : ∀ m, t.slot m = s.slot m := fun m => congrArg (tget Slot.init · m) hslots
    have hwaiters : semWaiters t tile = semWaiters s tile := semWaiters_congr hslots
    refine ⟨rfl, hget, hother, hslots, hmem, fun hn => ?_, fun hw => ?_, fun age m thr hw => ?_, fun k a1 m1 t1 a2 m2 t2 hage hm hw => ?_⟩
    · obtain ⟨hsat, hfirst⟩ := semSignal_semst (j := j) hn.ne' hu
      exact ⟨hsat.trans (semAdd_semSat ..), fun hv hs => hfirst.trans (semAdd_semFirst hv hs), semSignal_holds_cycle hn.ne' hu⟩
    · obtain ⟨hsem, hsl⟩ := semTested_of_nil (hwaiters.trans hw) j
      exact ⟨hsem.trans hget, hsl.trans hslots⟩
    · have hone := semTested_of_one (hwaiters.trans hw)
      rwa [hget, hslot, hslots] at hone
    · intro V x h1 h2
      obtain ⟨hget', -, hslots', -, -⟩ := semSignal_spec j k hu'
      have hV : semGet (semSignal t tile j k) tile j = V := by rw [hget', hget]
      have hslot' : ∀ m, (semSignal t tile j k).slot m = s.slot m := fun m => congrArg (tget Slot.init · m) (hslots'.trans hslots)
      have hwaiters' : semWaiters (semSignal t tile j k) tile = semWaiters s tile := semWaiters_congr (hslots'.trans hslots)
      have htwo := semTested_of_two hage hm (by rwa [hwaiters']) (h1.trans_eq hV.symm) (by rwa [hV])
      rwa [hV, hslot', hslot'] at htwo

end Sys2Proof.Machine
end
